-- ==== Sys2Proof/Word.lean ====
section
/-! DEFINITION. Word.lean: the word types of the LN840 and the keyed lists that hold sparse state.

Only names for types stand here; the operations on them are in Sys2Proof/Machine/Bits.lean and
Sys2Proof/Machine/Tab.lean. -/

namespace Sys2Proof

/-- One byte of memory. -/
abbrev Byte := BitVec 8

/-- A 64-bit scalar register, instruction word or register of a function (R17, R32). -/
abbrev Word := BitVec 64

/-- An operand code (R40). -/
abbrev Code := BitVec 8

/-- A 16-bit line tag: FMT in [15:11], VCLASS in [10:8], SCALE/SLOT in [7:0] (R57). -/
abbrev Tag := BitVec 16

/-- The 64 bytes of a line or of a register segment, as one little-endian number (R3, R68). -/
abbrev LineBits := BitVec 512

/-- Sparse data by key: pairs of a key and a value, keys rising. The value of a key that is not
listed is a default that the reader of the list names. -/
abbrev Tab (α : Type) := List (Nat × α)

end Sys2Proof
end

