-- ==== Sys2Proof/Config.lean ====
section
/-! DEFINITION. Config.lean: the figures of the package that R11 fixes, and the figures the spec
gives elsewhere as constants of every LN840. -/

namespace Sys2Proof.Config

/-- Cores of the package (R11, R12). -/
def cores : Nat := 64
/-- Guests, one for each virtual function (R330, R382). -/
def guests : Nat := 128
/-- Bytes of a core's scratchpad (R11). -/
def spBytes : Nat := 0x400000
/-- Bytes of HBM4 in the package: 768 GiB (R11). -/
def hbmBytes : Nat := 768 * 2 ^ 30
/-- Accumulator tiles of a core (R11). -/
def tiles : Nat := 48
/-- Entries of a tagged queue (R17). -/
def queueEntries : Nat := 64
/-- Entries of the copy engine's command queue (R27). -/
def copyQueue : Nat := 16
/-- Entries of the matrix engine's command queue (R27). -/
def matrixQueue : Nat := 8
/-- Stream slots of a core (R235). -/
def streamSlots : Nat := 16
/-- Entries of a core's pin table (R210). -/
def pins : Nat := 256
/-- Outstanding line requests of a core (R11, R232). -/
def lineRequests : Nat := 4096
/-- Cycles after which a cycle of waits is raised (R26, R311). -/
def queueCycleLimit : Nat := 65536
/-- Cycles after which a WFE retires without an event (R366). -/
def wfeLimit : Nat := 65536
/-- Entries of the overflow FIFO (R344). -/
def overflowEntries : Nat := 32
/-- Vorger links (R385). -/
def links : Nat := 16
/-- The tag of RAW, VALID, SCALE 0 (R25, R55). -/
def tagRaw : Tag := 0x0000
/-- The tag of a line that was never written: RAW, UNINIT (R58, R236). -/
def tagUninit : Tag := 0x0100
/-- The tag of a line lost to an uncorrectable error: RAW, POISON (R356, R370). -/
def tagPoison : Tag := 0x0200
/-- The tag of a line of a freed sealed page: RAW, REVOKED (R368). -/
def tagRevoked : Tag := 0x0300
/-- FP32 at unit scale. -/
def tagFp32 : Tag := 0x087F
/-- BF16 at unit scale. -/
def tagBf16 : Tag := 0x107F
/-- INT32 at unit scale. -/
def tagInt32 : Tag := 0x407F

/-! ### Free values: geometry that the spec leaves open -/

/-- The row of an HBM stack that holds a line (R375): a free value. -/
opaque hbmRow : Nat → Nat
/-- The LLC bank of a stack (layer × 32 + bank) that holds a line (R375): a free value. -/
opaque llcBank : Nat → Nat
/-- The LLC bank of a stack that holds a line of a saved context, by the context's number and the line's place in it (R321, R375): a
free value. -/
opaque saveBank : Nat → Nat → Nat
/-- Which of the banks left in its layer takes a line whose LLC bank is retired (R379): a free value. -/
opaque llcSpare : Nat → Nat
/-- Does the line code read a written line as its bank is emptied (R379), with error record `n` the next one? A free value. -/
opaque dirtyReads : Nat → Nat → Bool
/-- The scratchpad bank of a line (R375): a free value. -/
opaque spBank : Nat → Nat
/-- The accumulator bank of a tile's granule (R375): a free value. -/
opaque accBank : Nat → Nat → Nat

/-! ### Free values: what sensors and codes give -/

/-- The temperature of a die at a time in µs, as management reads it (R389): a free value. -/
opaque dieTemperature : Nat → Nat → BitVec 64
/-- The power of a stack, or of the package as stack 8, at a time in µs (R389): a free value. -/
opaque powerDrawn : Nat → Nat → BitVec 64
/-- The CRC-32 of a microcode image, whose polynomial and extent the spec does not give (R391): a free value. -/
opaque imageCrc : List (Nat × BitVec 8) → BitVec 32

end Sys2Proof.Config
end

