-- ==== Sys2Proof/Syntax.lean ====
section
/-! DEFINITION. Syntax.lean: the instructions of Terlux and the other steps of the LN840, one constructor for
each row of spec/opcode_table.json.

A word's operand fields stay raw operand codes (R40) here: a word whose predicate is false retires whatever
its operand fields hold (R47 step 2 precedes step 4), so the check of the fields is `Instr.fieldsOk` of
WellFormed.lean, which an instruction makes after its predicate. OP and X are not kept: the constructor
names them. -/

namespace Sys2Proof

/-- The two instruction streams of a core (R14). -/
inductive StreamId where
  | a | x
deriving DecidableEq, Repr

/-- The five kinds of access path (R248). -/
inductive Path where
  | a | x | c | m | f
deriving DecidableEq, Repr

/-- The scopes (R249); the order of the constructors is not the order of inclusion. -/
inductive Scope where
  | gang | core | guest | system
deriving DecidableEq, Repr

/-- A function of the device as the host sees it (R382, R383). -/
inductive FnId where
  | pf
  | vf (guest : Nat)
deriving DecidableEq, Repr

/-- The predicate part of the common header (R33): P and N. -/
structure Pred where
  p : BitVec 4
  n : Bool
deriving DecidableEq, Repr

/-- Form R without OP and X (R34). -/
structure RForm where
  pr : Pred
  d : Code
  a : Code
  b : Code
  c : Code
  ea : Bool
  eb : Bool
  ec : Bool
  m : BitVec 13
deriving DecidableEq, Repr

/-- Form I without OP and X (R35). -/
structure IForm where
  pr : Pred
  d : Code
  a : Code
  ea : Bool
  imm : BitVec 31
deriving DecidableEq, Repr

/-- Form L without OP and X: a form I word and its second word (R36). -/
structure LForm where
  pr : Pred
  d : Code
  a : Code
  ea : Bool
  imm : BitVec 31
  imm64 : Word
deriving DecidableEq, Repr

/-- Form J without OP and X: both words (R37). -/
structure JForm where
  pr : Pred
  d : Code
  offset : BitVec 40
  t : Code
  cnt : Code
  rsv : BitVec 48
deriving DecidableEq, Repr

/-- Form M without OP and X (R39). -/
structure MForm where
  pr : Pred
  d : Code
  a : Code
  b : Code
  disp : BitVec 16
  ea : Bool
  eb : Bool
  pi : BitVec 2
  sc : BitVec 2
  or : BitVec 2
deriving DecidableEq, Repr

/-- The condition codes of CMP and CMPI (R43), in the order of X. -/
inductive Cc where
  | eq | ne | lt | ge | ltu | geu | gt | le
deriving DecidableEq, Repr

/-- The condition codes of VCMP (R43), in the order of X; X = 7 names no instruction. -/
inductive VCc where
  | eq | ne | lt | le | gt | ge | uo
deriving DecidableEq, Repr

/-- The access sizes of LD and LDS, in the order of X (R42). -/
inductive LdSize where
  | b | h | w | d | bu | hu | wu
deriving DecidableEq, Repr

/-- The access sizes of ST and STS, in the order of X (R42). -/
inductive StSize where
  | b | h | w | d
deriving DecidableEq, Repr

/-- A host access to an aperture or to the HDM range (R225, R383): bytes at an address, little-endian. -/
structure ApertureReq where
  write : Bool
  addr : Nat
  size : Nat
  data : LineBits
deriving DecidableEq, Repr

/-- The operations of the atomics (R281). -/
inductive AmoOp where
  | add | min | max | and | or | xor | swp | cas | fadd
deriving DecidableEq, Repr

/-- What an inbound peer request does (R263, R283, R386): it reads a line, replaces one whole, or performs an atomic on 8 bytes
with the operands that s[B] and the old s[D] give an atomic. -/
inductive PeerOp where
  | read
  | write (bits : LineBits) (tag : Tag)
  | atomic (op : AmoOp) (b d : BitVec 64)
deriving DecidableEq, Repr

/-- Does a request write (R386)? -/
def PeerOp.writes : PeerOp → Bool
  | .read => false
  | .write _ _ => true
  | .atomic _ _ _ => true

/-- An inbound peer request (R386): who asks, on which link, for which guest's GPA, and what. -/
structure PeerReq where
  link : Nat
  dev : Nat
  rguest : Nat
  guest : Nat
  gpa : Nat
  op : PeerOp
deriving DecidableEq, Repr

/-- A tagged line that a flit brings from a peer: its GPA there (R385). -/
structure PeerLine where
  gpa : Nat
  bits : LineBits
  tag : Tag
deriving DecidableEq, Repr

/-- A flit as it arrives on a link (R385, R387): its CRC fails, with the lanes that the syndrome names; its
header is malformed; it answers requests with up to three lines; or it carries up to three requests of the peer. -/
inductive Flit where
  | badCrc (lanes : List Nat)
  | malformed
  | response (dev guest : Nat) (lines : List PeerLine)
  | request (reqs : List PeerReq)
deriving DecidableEq, Repr

/-- The versions of the management message set (R389). -/
inductive MctpVersion where
  | v1
  | v2
deriving DecidableEq, Repr

/-- What a management request asks for (R389): one of the readable items, or a write. -/
inductive MctpItem where
  | readTemperature (die : Nat)
  | readPower (stack : Nat)
  | readTtstat
  | readEqtail
  | readEqlost
  | readRetirement (offset : Nat)
  | writeLimit (value : Word)
  | writeOther
deriving DecidableEq, Repr

/-- A management request, in the version that it carries (R389). -/
structure MctpReq where
  version : MctpVersion
  item : MctpItem
deriving DecidableEq, Repr

/-- One step of the LN840: an instruction of Terlux, or one of the events of the table. -/
inductive Instr where
  /-- ADD (R103): Adds two 64-bit scalar sources modulo 2^64 and writes the result to D. -/
  | add (f : RForm)
  /-- SUB (R103): Subtracts the second 64-bit scalar source from the first modulo 2^64. -/
  | sub (f : RForm)
  /-- MUL (R103): Writes the low 64 bits of the product of two scalar sources. -/
  | mul (f : RForm)
  /-- MULH (R103): Writes bits 127:64 of the unsigned 128-bit product. -/
  | mulh (f : RForm)
  /-- MULHS (R103): Writes bits 127:64 of the signed 128-bit product. -/
  | mulhs (f : RForm)
  /-- DIV (R103): Performs unsigned division; a zero divisor follows R99 and sets DZ in X only. -/
  | div (f : RForm)
  /-- DIVS (R103): Performs signed division truncated toward zero, with the special cases of R99. -/
  | divs (f : RForm)
  /-- REM (R103): Writes the unsigned remainder. -/
  | rem (f : RForm)
  /-- REMS (R103): Writes the signed remainder, which takes the sign of the dividend. -/
  | rems (f : RForm)
  /-- AND (R103): Writes the bitwise AND of two scalar sources. -/
  | andr (f : RForm)
  /-- OR (R103): Writes the bitwise OR of two scalar sources. -/
  | orr (f : RForm)
  /-- XOR (R103): Writes the bitwise XOR of two scalar sources. -/
  | xorr (f : RForm)
  /-- ANDN (R103): Writes a AND NOT b. -/
  | andn (f : RForm)
  /-- ORN (R103): Writes a OR NOT b. -/
  | orn (f : RForm)
  /-- SHL (R103): Shifts left by b mod 64. -/
  | shl (f : RForm)
  /-- SHR (R103): Shifts right logically by b mod 64. -/
  | shr (f : RForm)
  /-- SRA (R103): Shifts right arithmetically by b mod 64. -/
  | sra (f : RForm)
  /-- ROL (R103): Rotates left by b mod 64. -/
  | rol (f : RForm)
  /-- MIN (R103): Writes the unsigned lesser of two sources. -/
  | min (f : RForm)
  /-- MAX (R103): Writes the unsigned greater of two sources. -/
  | max (f : RForm)
  /-- MINS (R103): Writes the signed lesser of two sources. -/
  | mins (f : RForm)
  /-- MAXS (R103): Writes the signed greater of two sources. -/
  | maxs (f : RForm)
  /-- CLZ (R104): Counts the leading zero bits of a. -/
  | clz (f : RForm)
  /-- CTZ (R104): Counts the trailing zero bits of a. -/
  | ctz (f : RForm)
  /-- POPC (R104): Counts the one bits of a. -/
  | popc (f : RForm)
  /-- SEXT (R104): Sign-extends a from width s[B][5:0]. -/
  | sext (f : RForm)
  /-- ZEXT (R104): Zero-extends a from width s[B][5:0]. -/
  | zext (f : RForm)
  /-- BFX (R105): Extracts a bit field at a given position and length. -/
  | bfx (f : RForm)
  /-- BFI (R105): Inserts a bit field into D, reading D first. -/
  | bfi (f : RForm)
  /-- MOV (R106): Copies a scalar source to D. -/
  | mov (f : RForm)
  /-- SEL (R106): Selects s[A] or s[B] by a predicate, reading and popping both sources. -/
  | sel (f : RForm)
  /-- ADDX (R106): Adds s[B] shifted left by s[C] mod 64 to s[A]. -/
  | addx (f : RForm)
  /-- ADDI (R107): Adds a sign-extended immediate to a scalar source. -/
  | addi (f : IForm)
  /-- LI (R107): Loads a sign-extended 31-bit immediate. -/
  | li (f : IForm)
  /-- LIW (R107): Loads a 64-bit immediate from the second word. -/
  | liw (f : LForm)
  /-- CMP (R108): Compares two scalar sources under condition code X and writes a predicate. -/
  | cmp (cc : Cc) (f : RForm)
  /-- CMPI (R108): Compares a scalar source with a sign-extended immediate and writes a predicate. -/
  | cmpi (cc : Cc) (f : IForm)
  /-- PAND (R109): Writes the AND of two predicates. -/
  | pand (f : RForm)
  /-- POR (R109): Writes the OR of two predicates. -/
  | por (f : RForm)
  /-- PXOR (R109): Writes the XOR of two predicates. -/
  | pxor (f : RForm)
  /-- PNOT (R109): Writes the negation of a predicate. -/
  | pnot (f : RForm)
  /-- PMOV (R109): Copies a predicate. -/
  | pmov (f : RForm)
  /-- BR (R110): Branches relative to the program counter after the target checks of R38. -/
  | br (f : JForm)
  /-- JMP (R110): Jumps to a target based on s[T]. -/
  | jmp (f : JForm)
  /-- CALL (R110): Writes the link pc + 16 and jumps to the target. -/
  | call (f : JForm)
  /-- RET (R110): Jumps to the address in s[T]. -/
  | ret (f : JForm)
  /-- LOOP (R110): Decrements the count register and branches while it is non-zero. -/
  | loop (f : JForm)
  /-- RDV (R112): Waits until the other stream executes its paired RDV, then both continue. -/
  | rdv (f : RForm)
  /-- END (R112): Stops the stream after its register producers complete; at S level it stops the stream at once (R357). -/
  | endj (f : RForm)
  /-- NOP (R112): Retires with no effect other than advancing the pc. -/
  | nop (f : RForm)
  /-- CSRR (R114): Reads a CSR into D under the access rules of the CSR map. -/
  | csrr (f : IForm)
  /-- CSRW (R114): Writes s[A] to a CSR through each field's access rules. -/
  | csrw (f : IForm)
  /-- CSRS (R408): Atomically reads a CSR and sets the bits given in s[A], returning the old value. -/
  | csrs (f : IForm)
  /-- CSRC (R408): Atomically reads a CSR and clears the bits given in s[A], returning the old value. -/
  | csrc (f : IForm)
  /-- LD (R232): Loads 1 to 8 bytes from global memory, marks D empty and retires. -/
  | ld (sz : LdSize) (f : MForm)
  /-- ST (R233): Stores 1 to 8 bytes to global memory as a RAW or typed partial-line store, merged once the line is held exclusively. -/
  | st (sz : StSize) (f : MForm)
  /-- LDS (R232): Loads 1 to 8 bytes from the local scratchpad. -/
  | lds (sz : LdSize) (f : MForm)
  /-- STS (R233): Stores 1 to 8 RAW bytes to the local scratchpad. -/
  | sts (sz : StSize) (f : MForm)
  /-- LDQ (R236): Translates and pins a strided line stream, retires, and hands it to a stream slot that feeds a queue. -/
  | ldq (f : MForm)
  /-- LDQI (R236): Sets up an indexed line stream into a queue through a stream slot. -/
  | ldqi (f : MForm)
  /-- LDSQ (R236): Sets up a strided stream of scratchpad lines into a queue. -/
  | ldsq (f : MForm)
  /-- STQ (R238): Pops one queue entry and stores it as a whole global line through LineStore. -/
  | stq (f : MForm)
  /-- STSQ (R238): Pops one queue entry and writes it as a whole scratchpad line. -/
  | stsq (f : MForm)
  /-- PRF (R239): Requests a line into the near cache, or drops the request silently. -/
  | prf (f : MForm)
  /-- CPY (R241): Checks both ranges, pins their pages and queues a copy command with the next CNEXT. -/
  | cpy (f : RForm)
  /-- CPYM (R244): Queues a copy together with a chained matrix command that starts once the copy completes. -/
  | cpym (f : LForm)
  /-- APD (R245): Reads source lines and requests an append grant at the page-state home, returning the granted address. -/
  | apd (f : MForm)
  /-- APD_REL (R245): Appends like APD and publishes the lines at guest scope as they are written. -/
  | apdRel (f : MForm)
  /-- SEAL (R246): Requests the seal of an APPEND page and retires when the home reports SEALED. -/
  | seal (f : RForm)
  /-- QRESET (R240): Discards a queue's entries and cancels the stream slots that feed it. -/
  | qreset (f : RForm)
  /-- AMOADD (R281): Atomically adds to 8 bytes of a global line and returns the old value. -/
  | amoadd (f : MForm)
  /-- AMOMIN (R281): Atomically writes the signed minimum and returns the old value. -/
  | amomin (f : MForm)
  /-- AMOMAX (R281): Atomically writes the signed maximum and returns the old value. -/
  | amomax (f : MForm)
  /-- AMOAND (R281): Atomically ANDs and returns the old value. -/
  | amoand (f : MForm)
  /-- AMOOR (R281): Atomically ORs and returns the old value. -/
  | amoor (f : MForm)
  /-- AMOXOR (R281): Atomically XORs and returns the old value. -/
  | amoxor (f : MForm)
  /-- AMOSWP (R281): Atomically swaps in b and returns the old value. -/
  | amoswp (f : MForm)
  /-- AMOCAS (R282): Atomically compares with the old D, writes b on a match and returns the old value. -/
  | amocas (f : MForm)
  /-- AMOFADD (R281): Atomically adds FP32 or BF16 elements under the line's tag with RNE. -/
  | amofadd (f : MForm)
  /-- FENCE (R284): Waits until the writes of the source paths are visible to the destination paths, with release and acquire at wider scopes. -/
  | fence (f : RForm)
  /-- PHASE (R285): Arrives at the gang's next phase boundary and waits for it to complete. -/
  | phase (f : IForm)
  /-- PHASE_SPLIT (R287): Arrives at a boundary that splits the gang into 2^k sub-gangs. -/
  | phaseSplit (f : IForm)
  /-- PHASE_JOIN (R287): Arrives at a boundary that rejoins the sub-gangs of the latest split. -/
  | phaseJoin (f : IForm)
  /-- BARA (R290): Arrives at a named barrier by incrementing ARR. -/
  | bara (f : IForm)
  /-- BARW (R290): Waits for a barrier completion, consumes it and records its status in MSTAT. -/
  | barw (f : IForm)
  /-- BAR (R290): Arrives at a named barrier and waits for it, as one instruction. -/
  | bar (f : IForm)
  /-- WAITSEQ_C (R292): Waits until CSEQ reaches a target. -/
  | waitseqC (f : IForm)
  /-- WAITSEQ_M (R292): Waits until MSEQ reaches a target. -/
  | waitseqM (f : IForm)
  /-- LAUNCH (R293): Posts a 64-byte launch record to a launch queue of the guest, as a release at guest scope. -/
  | launch (f : RForm)
  /-- DONATE (R294): Gives the rest of the slot on the gang's cores to the Timetable's donee. -/
  | donate (f : RForm)
  /-- SETVL (R119): Sets VTYPE and VL from the requested length and VLMAX, and writes VL to D. -/
  | setvl (f : IForm)
  /-- VLDS (R143): Loads consecutive scratchpad lines into vector segments after walking and checking them. -/
  | vlds (f : MForm)
  /-- VSTS (R144): Stores vector segments as whole scratchpad lines after checking every group. -/
  | vsts (f : MForm)
  /-- VPOP (R146): Moves the oldest entry of a queue into vector segments. -/
  | vpop (f : RForm)
  /-- VPUSH (R147): Packs the lowest segments into a line and pushes it to q6 or q7. -/
  | vpush (f : RForm)
  /-- VGATHC (R148): Checks cluster gather addresses, marks D empty, sends gather packets and retires. -/
  | vgathc (f : RForm)
  /-- VSCATC (R149): Checks cluster scatter addresses and sends one element write per active slot. -/
  | vscatc (f : RForm)
  /-- VADD (R127): Adds elements under the lattice, segment by segment. -/
  | vadd (f : RForm)
  /-- VSUB (R127): Subtracts elements under the lattice. -/
  | vsub (f : RForm)
  /-- VMUL (R127): Multiplies elements under the lattice. -/
  | vmul (f : RForm)
  /-- VDIV (R127): Divides elements under the lattice. -/
  | vdiv (f : RForm)
  /-- VMIN (R127): Writes the lesser element under the lattice. -/
  | vmin (f : RForm)
  /-- VMAX (R127): Writes the greater element under the lattice. -/
  | vmax (f : RForm)
  /-- VFMA (R128): Computes a × b + c with one rounding. -/
  | vfma (f : RForm)
  /-- VFMS (R128): Computes a × b − c with one rounding. -/
  | vfms (f : RForm)
  /-- VFNMA (R128): Computes c − a × b with one rounding. -/
  | vfnma (f : RForm)
  /-- VABS (R129): Writes the absolute value of each element. -/
  | vabs (f : RForm)
  /-- VNEG (R129): Writes the negation of each element. -/
  | vneg (f : RForm)
  /-- VSQRT (R129): Writes the correctly rounded square root of each element. -/
  | vsqrt (f : RForm)
  /-- VRCPE (R130): Writes a reciprocal estimate rounded to 12 bits. -/
  | vrcpe (f : RForm)
  /-- VRSQRTE (R130): Writes a reciprocal square-root estimate rounded to 12 bits. -/
  | vrsqrte (f : RForm)
  /-- VEXP2 (R130): Writes 2^a, rounded to 16 bits for an FP32 result. -/
  | vexp2 (f : RForm)
  /-- VLOG2 (R130): Writes log2(a), rounded to 16 bits for an FP32 result. -/
  | vlog2 (f : RForm)
  /-- VCMP (R131): Compares elements exactly under condition code X and writes mask bits. -/
  | vcmp (cc : VCc) (f : RForm)
  /-- VPOPC (R132): Counts the set mask bits below VL into a scalar. -/
  | vpopc (f : RForm)
  /-- VSEL (R133): Selects slots of A or B by the v0 mask, converting when the tags differ. -/
  | vsel (f : RForm)
  /-- VMOV (R134): Copies active slots of A with their segment tags. -/
  | vmov (f : RForm)
  /-- VBCAST (R135): Broadcasts a tagged scalar element into every active slot. -/
  | vbcast (f : RForm)
  /-- VINS (R135): Inserts a tagged scalar element into one slot. -/
  | vins (f : RForm)
  /-- VEXT (R136): Extracts one slot with its segment tag into a scalar. -/
  | vext (f : RForm)
  /-- VID (R137): Writes the slot index into each active slot, in a format fixed by W. -/
  | vid (f : RForm)
  /-- VIADD (R138): Adds slot bit patterns modulo 2^W. -/
  | viadd (f : RForm)
  /-- VISUB (R138): Subtracts slot bit patterns modulo 2^W. -/
  | visub (f : RForm)
  /-- VIMUL (R138): Multiplies slot bit patterns modulo 2^W. -/
  | vimul (f : RForm)
  /-- VIAND (R138): ANDs slot bit patterns. -/
  | viand (f : RForm)
  /-- VIOR (R138): ORs slot bit patterns. -/
  | vior (f : RForm)
  /-- VIXOR (R138): XORs slot bit patterns. -/
  | vixor (f : RForm)
  /-- VISHL (R138): Shifts slot bit patterns left by b mod W. -/
  | vishl (f : RForm)
  /-- VISHR (R138): Shifts slot bit patterns right logically by b mod W. -/
  | vishr (f : RForm)
  /-- VSLIDE1UP (R152): Slides the slots up by one and inserts a tagged scalar at slot 0. -/
  | vslide1up (f : RForm)
  /-- VSLIDE1DN (R152): Slides the slots down by one and inserts a tagged scalar at slot VL − 1. -/
  | vslide1dn (f : RForm)
  /-- VSLIDEUP (R152): Slides the slots up by k. -/
  | vslideup (f : RForm)
  /-- VSLIDEDN (R152): Slides the slots down by k, filling with zeros. -/
  | vslidedn (f : RForm)
  /-- VPERM (R153): Permutes the slots of A by the indices in B. -/
  | vperm (f : RForm)
  /-- VCMPRS (R153): Compresses the slots of A selected by the mask in B. -/
  | vcmprs (f : RForm)
  /-- VEXPND (R153): Expands the slots of A into the positions set in the mask of B. -/
  | vexpnd (f : RForm)
  /-- VREDSUM_O (R94): Sums the active elements in ascending order with one rounding per addition, resumably. -/
  | vredsumO (f : RForm)
  /-- VREDSUM_T (R96): Sums the active elements by a fixed binary tree. -/
  | vredsumT (f : RForm)
  /-- VREDMAX (R97): Writes the greatest active element. -/
  | vredmax (f : RForm)
  /-- VREDMIN (R97): Writes the least active element. -/
  | vredmin (f : RForm)
  /-- VCVT (R155): Converts the active slots into the TOV format with a ScaleFor scale. -/
  | vcvt (f : RForm)
  /-- VRETAG (R156): Relabels VALID segments with a new tag, keeping the low bits. -/
  | vretag (f : RForm)
  /-- VSCALE (R157): Multiplies the elements by an exact power of two. -/
  | vscale (f : RForm)
  /-- VQNT (R158): Rounds the elements to the precision of a narrow format and returns them in the source format. -/
  | vqnt (f : RForm)
  /-- VDEQ (R159): Expands packed 3- or 4-bit codes through a pattern-book slot, or marks D empty while the slot is PENDING. -/
  | vdeq (f : RForm)
  /-- TGET (R162): Reads the tag of a global line into a scalar. -/
  | tget (f : RForm)
  /-- TSET (R163): Writes a new tag to a global line at its home. -/
  | tset (f : RForm)
  /-- LATW (R164): Writes an entry of the guest's promotion lattice in every copy. -/
  | latw (f : RForm)
  /-- LATR (R164): Reads an entry of the promotion lattice. -/
  | latr (f : RForm)
  /-- CBLOAD (R160): Makes a pattern-book slot PENDING and requests its 32-byte table. -/
  | cbload (f : RForm)
  /-- MZERO (R191): Queues a command that zeroes a tile and sets its kind to NONE. -/
  | mzero (f : RForm)
  /-- MMA (R192): Queues a matrix product-accumulate command on a tile. -/
  | mma (f : RForm)
  /-- MMA_G (R192): Queues a matrix product whose A rows are gathered through an index vector. -/
  | mmaG (f : RForm)
  /-- MMAG (R193): Places one share of a ganged matrix product in each partner's engine queue. -/
  | mmag (f : RForm)
  /-- MMAG_G (R193): Issues a ganged matrix product with gathered A rows. -/
  | mmagG (f : RForm)
  /-- MST (R195): Queues a command that stores a tile to 1,024 scratchpad lines. -/
  | mst (f : RForm)
  /-- MLDACC (R195): Queues a command that loads a tile from 1,024 scratchpad lines. -/
  | mldacc (f : RForm)
  /-- MACC (R196): Waits for the earlier commands on a tile, marks a vector register empty and retires. -/
  | macc (f : RForm)
  /-- MADD (R195): Queues a command that adds two tiles element by element. -/
  | madd (f : RForm)
  /-- MWAIT (R199): Waits until MSEQ equals MNEXT. -/
  | mwait (f : RForm)
  /-- MSTAT (R199): Writes the matrix engine's state to D without waiting. -/
  | mstat (f : RForm)
  /-- SYSCALL (R364): Traps SYSCALL with TPC at the next instruction. -/
  | syscall (f : IForm)
  /-- BKPT (R364): Traps BREAK with TPC at the next instruction. -/
  | bkpt (f : IForm)
  /-- ERET (R365): Returns from the handler, restoring the level and the vector state and releasing held engine faults. -/
  | eret (f : IForm)
  /-- WFE (R366): Waits for the stream's event flag and clears it. -/
  | wfe (f : IForm)
  /-- TLBINV (R367): Invalidates first-stage translations of the guest and waits for their pins to be released. -/
  | tlbinv (f : RForm)
  /-- SEALFREE (R368): Shoots down the replicas of a sealed page and revokes its lines. -/
  | sealfree (f : RForm)
  -- Events: steps of the machine that no word names (95_what_each_step_holds.md).
  /-- LOAD_DATA_ARRIVAL (R19): The data of a scalar global load arrives, is written, and the register becomes full. -/
  | loadDataArrival (core n : Nat) (late : Bool)
  /-- GATHER_COMPLETE (R148): Every gather packet has returned, and the segments of D are written and marked full. -/
  | gatherComplete (core n : Nat)
  /-- SCATTER_ELEMENT_APPLY (R149): A scattered element is applied to its member's scratchpad line as one write. -/
  | scatterElementApply (core member : Nat)
  /-- MACC_ROW_WRITE (R196): The tile row is written into segments 0 to 7 of the vector register, which becomes full. -/
  | maccRowWrite (core n : Nat)
  /-- CBLOAD_COMPLETE (R160): The table line arrives, all 16 entries are written, and the slot becomes FULL. -/
  | cbloadComplete (core slot : Nat)
  /-- STREAM_SLOT_LINE (R236): A stream slot reads its next line and pushes it to the queue when an entry is free. -/
  | streamSlotLine (core slot : Nat)
  /-- STQ_HOME_WRITE (R238): The line of a retired STQ is written at its home. -/
  | stqHomeWrite (write : Nat)
  /-- APPEND_LINE_WRITE (R245): A granted line of a retired APD is written at its home through LineStore. -/
  | appendLineWrite (write : Nat)
  /-- COPY_BEAT_GROUP (R242): The copy engine reads, checks and writes one beat group of up to 64 lines. -/
  | copyBeatGroup (core : Nat)
  /-- MATRIX_K_STEP (R174): The matrix engine checks one K-step of a command and adds it to the tile whole. -/
  | matrixKStep (core : Nat) (residues : List Nat)
  /-- ENGINE_MZERO (R191): The engine zeroes a tile. -/
  | engineMzero (core : Nat)
  /-- ENGINE_MST (R195): The engine writes a tile to 1,024 scratchpad lines. -/
  | engineMst (core : Nat)
  /-- ENGINE_MLDACC (R195): The engine checks 1,024 scratchpad lines and loads them into a tile. -/
  | engineMldacc (core : Nat)
  /-- ENGINE_MADD (R195): The engine adds two tiles into a destination tile. -/
  | engineMadd (core : Nat)
  /-- ENGINE_FAULT_DELIVERY (R197): A halted engine's fault is delivered to its stream at the next U-level instruction boundary. -/
  | engineFaultDelivery (core : Nat) (strm : StreamId)
  /-- FAULT_RECORD_WRITE (R223): A page-fault record is written to the guest's fault queue once there is room, and the fault vector is raised. -/
  | faultRecordWrite (guest : Nat)
  /-- VIOLATION_RECORD_WRITE (R335): A violation record is written to the violation queue once there is room. -/
  | violationRecordWrite
  /-- FRESP_RETRY (R224): The driver answers a fault with RETRY, and the halted stream re-executes the faulting instruction. -/
  | frespRetry (guest seq : Nat)
  /-- FRESP_ABORT (R224): The driver answers a fault with ABORT, and the stream traps PAGE. -/
  | frespAbort (guest seq : Nat)
  /-- FRZRESP_RESUME (R337): The host resumes a frozen master. -/
  | frzrespResume (seq : Nat)
  /-- FRZRESP_TRAP (R337): The host makes a frozen master take a trap to its handler. -/
  | frzrespTrap (seq : Nat)
  /-- FRZRESP_DISCARD (R337): The host discards a frozen master's work, or resets its function. -/
  | frzrespDiscard (seq : Nat)
  /-- QUEUE_CYCLE (R311): QIDLE reaches 2^16, and every stream in a counted wait traps QUEUE_CYCLE. -/
  | queueCycle (core : Nat)
  /-- WFE_TIMEOUT (R366): A WFE retires after 65,536 cycles without an event. -/
  | wfeTimeout (core : Nat) (strm : StreamId)
  /-- MEMBER_ARRIVAL (R255): A gang member meets the arrival conditions of its next phase boundary. -/
  | memberArrival (core : Nat)
  /-- CORE_WORK_END (R113): Both streams have ended, the engines are idle and the stores have performed, so the core returns to the Porter. -/
  | coreWorkEnd (core : Nat)
  /-- PORTER_EVALUATION (R303): The Porter places drained gangs and queue-head gangs for the guest until none fits. -/
  | porterEvaluation (guest : Nat)
  /-- AGE_PRIORITY_CHANGE (R303): An ageing period elapses and a head's effective priority falls. -/
  | agePriorityChange (guest queue : Nat)
  /-- HEAD_RESERVING (R304): A head's wait reaches (q + 1) × AGE_LIMIT and it begins to reserve cores. -/
  | headReserving (guest queue : Nat)
  /-- LQPOST (R298): The host posts a whole launch record to a queue's ring, or the post is dropped. -/
  | lqpost (guest queue : Nat) (whole : Bool) (data : LineBits)
  /-- LQCTL_WRITE (R297): A write to LQCTL; setting ENABLE resets the queue's counters. -/
  | lqctlWrite (guest queue : Nat) (value : Word)
  /-- LQSTAT_WRITE (R299): Clearing FAULTED lets the Porter read the queue's head again. -/
  | lqstatWrite (guest queue : Nat) (value : Word)
  /-- FULLER_RECORD_TAKE (R219): A Fuller takes the next ring record and checks its bound before any line changes. -/
  | fullerRecordTake (guest stack : Nat)
  /-- FULLER_LINE_RECODE (R220): The Fuller recodes one line at its home as one write. -/
  | fullerLineRecode (guest stack : Nat)
  /-- GRANULE_CREDIT_GRANT (R218): The free-space manager grants granule credit to a waiting core, or the write takes a POOL fault. -/
  | granuleCreditGrant (core : Nat)
  /-- REPLICA_SHOOTDOWN_DONE (R368): Every replica of a freed page is dropped, and its lines are written REVOKED. -/
  | replicaShootdownDone (guest gva : Nat)
  /-- SLOT_STOP (R322): At E − D the cores that change hands stop their streams, engines and counters. -/
  | slotStop
  /-- CONTEXT_SAVE (R361): Once every party has stopped, the core's context is written to the outgoing guest's context slot. -/
  | contextSave (core : Nat)
  /-- CONTEXT_CLEAR (R327): Once the save is written, every flushed structure is cleared, pending retirements apply, and the core enters HOLD. -/
  | contextClear (core : Nat)
  /-- SLOT_RESTORE (R322): At the edge E, the cores restore the incoming guest's drained gangs or start new gangs. -/
  | slotRestore
  /-- TTCTL_COMMIT (R319): The host submits the shadow Timetable for validation. -/
  | ttctlCommit (value : Word)
  /-- TIMETABLE_VALIDATION (R319): Validation completes and the shadow is accepted or rejected. -/
  | timetableValidation
  /-- GUEST_ENABLE (R333): Setting GCTL.EN loads the reset lattice and starts the guest clean. -/
  | guestEnable (guest : Nat)
  /-- GUEST_DISABLE (R333): Clearing GCTL.EN stops the guest's streams, aborts its engines and discards its state. -/
  | guestDisable (guest : Nat)
  /-- GBASE_GBOUND_WRITE (R332): A write to GBASE or GBOUND takes effect at once or is held pending until the guest's slot start. -/
  | gbaseGboundWrite (guest : Nat) (isBound : Bool) (value : Word)
  /-- COALESCE_PERIOD_END (R340): A coalescing period ends, and one message is sent for each pending vector. -/
  | coalescePeriodEnd (guest : Nat)
  /-- PMOVHI_READ (R344): A read of PMOVHI pops the head entry of the overflow FIFO. -/
  | pmovhiRead (guest : Nat)
  /-- DBGDATA_WRITE (R347): The host writes the stream register named by DBGSEL. -/
  | dbgdataWrite (value : Word)
  /-- DBGDATA_READ (R347): The host reads the stream register named by DBGSEL. -/
  | dbgdataRead
  /-- DATA_APERTURE_ACCESS (R225): A host access to a guest's data aperture, translated through its first-stage tables. -/
  | dataApertureAccess (guest : Nat) (req : ApertureReq)
  /-- TAG_APERTURE_ACCESS (R225): A host read or write of a line's tag through the tag aperture. -/
  | tagApertureAccess (guest : Nat) (req : ApertureReq)
  /-- HDM_ACCESS (R383): A host CXL.mem access to HBM by HPA, data only. -/
  | hdmAccess (req : ApertureReq)
  /-- PEER_REQUEST (R386): An inbound peer request is accepted through a matching inbound entry, or refused as a violation. -/
  | peerRequest (req : PeerReq)
  /-- FLIT_RECEIVE (R385): A link flit arrives, is CRC-checked and either delivers its lines or is retried. -/
  | flitReceive (link : Nat) (flit : Flit)
  /-- LLC_BANK_RETIRE (R379): An LLC bank or vertical bus is emptied line by line and retired, and the edges are checked again. -/
  | llcBankRetire (stack layer bank : Nat)
  /-- HBM_ROW_REMAP (R380): An HBM row is copied to a spare row and its addresses are redirected. -/
  | hbmRowRemap (hbmStack row : Nat) (lost : List Nat) (spare : Bool)
  /-- LINK_NARROW (R380): A link is retrained at the largest power of two of working lanes. -/
  | linkNarrow (link : Nat) (badLanes : Nat)
  /-- MCTP_REQUEST (R389): A management request is answered, or its write is refused. -/
  | mctpRequest (req : MctpReq)
  /-- PWRCTL_WRITE (R390): A write of the power limit, stored clamped to 1,200 to 2,800 W. -/
  | pwrctlWrite (value : Word)
  /-- POWER_ON (R391): Main power is applied; every core is idle, and the retirement state and host counters are at reset. -/
  | powerOn
  /-- POWER_OFF (R381): Main power is removed, and all volatile state including retirement state is lost. -/
  | powerOff
  /-- MCCTL_LOAD (R391): The host starts the load of the base-die microcode image with its CRC. -/
  | mcctlLoad (value : Word)
  /-- MICROCODE_LOAD_DONE (R391): The microcode load ends with DONE, or BAD on a CRC mismatch. -/
  | microcodeLoadDone
  /-- HBM_TRAIN (R391): HBM stack training completes and HBMSTAT is set. -/
  | hbmTrain (hbmStack : Nat)
  /-- LINK_TRAIN (R391): Link training completes and LINKSTAT shows the link up with its generation. -/
  | linkTrain (link gen : Nat)
  /-- SELF_TEST (R392): A march self-test of one LLC bank runs to completion, or is refused. -/
  | selfTest (stack layer bank : Nat) (failing : List Nat)
  /-- RETIREMENT_STATE_WRITE (R381): The host writes RCORE, RBANK or RLINK, which is dropped unless GEN is 0. -/
  | retirementStateWrite (offset : Nat) (value : Word)
  /-- MSCHED_WRITE (R391): A write of a recombination schedule, which takes effect at once or at the core's next edge. -/
  | mschedWrite (core unit : Nat) (value : Word)
  /-- REGISTER_WRITE (R4): A write to a register that has no row of its own, acting by its access codes. -/
  | registerWrite (fn : FnId) (offset : Nat) (value : Word)
  /-- HOME_ANSWER (R231): The home's answer to a waiting A-path request arrives: exclusive line ownership for ST or an atomic, or the grant or refusal of an APD or SEAL. -/
  | homeAnswer (core : Nat)
  /-- WRITE_ENTERS_VIEW (R252): A published write enters a path's view at a moment the LN840 chooses, between its publication and the bound of R252. -/
  | writeEntersView (write core : Nat) (path : Path)
  /-- ARITHMETIC_CLOCK_CYCLE (R344): Each arithmetic-clock cycle adds that cycle's events to counting counters, including CYCLES and wait-cycle events, and may wrap them. -/
  | arithmeticClockCycle (core : Nat)
  /-- HOST_LINK_TRAIN (R382): The PCIe 6.0 host link completes training and CXL is negotiated, bringing the link up. -/
  | hostLinkTrain (gen width : Nat)
  /-- THERMAL_LIMITING (R390): A stack starts or stops swallowing compute-die clock pulses under temperature and the power limit, changing PWRSTAT and timing only. -/
  | thermalLimiting (stack fraction : Nat)
deriving DecidableEq, Repr

end Sys2Proof
end

