-- ==== Sys2Proof/Machine/Forms.lean ====
section
/-! DEFINITION. Machine/Forms.lean: the bit places of the five instruction forms (R33 to R39), read from a
word and written to a word. -/

namespace Sys2Proof

/-- OP, bits [63:56] of a first word (R33). -/
def wordOp (w : Word) : Nat := (w.extractLsb' 56 8).toNat

/-- X, bits [50:48] of a first word (R33). -/
def wordX (w : Word) : Nat := (w.extractLsb' 48 3).toNat

/-- P and N, bits [55:52] and [51] (R33). -/
def Pred.ofWord (w : Word) : Pred where
  p := w.extractLsb' 52 4
  n := w.getLsbD 51

/-- The header bits [63:48] (R33). -/
def header (op x : Nat) (pr : Pred) : BitVec 16 :=
  BitVec.ofNat 8 op ++ pr.p ++ BitVec.ofBool pr.n ++ BitVec.ofNat 3 x

/-- Form R read from a word (R34). -/
def RForm.ofWord (w : Word) : RForm where
  pr := Pred.ofWord w
  d := w.extractLsb' 40 8
  a := w.extractLsb' 32 8
  b := w.extractLsb' 24 8
  c := w.extractLsb' 16 8
  ea := w.getLsbD 15
  eb := w.getLsbD 14
  ec := w.getLsbD 13
  m := w.extractLsb' 0 13

/-- Form R as a word (R34). -/
def RForm.toWord (op x : Nat) (f : RForm) : Word :=
  header op x f.pr ++ f.d ++ f.a ++ f.b ++ f.c ++
    BitVec.ofBool f.ea ++ BitVec.ofBool f.eb ++ BitVec.ofBool f.ec ++ f.m

/-- Form I read from a word (R35). -/
def IForm.ofWord (w : Word) : IForm where
  pr := Pred.ofWord w
  d := w.extractLsb' 40 8
  a := w.extractLsb' 32 8
  ea := w.getLsbD 31
  imm := w.extractLsb' 0 31

/-- Form I as a word (R35). -/
def IForm.toWord (op x : Nat) (f : IForm) : Word :=
  header op x f.pr ++ f.d ++ f.a ++ BitVec.ofBool f.ea ++ f.imm

/-- Form L read from its two words (R36). -/
def LForm.ofWords (w w2 : Word) : LForm where
  pr := Pred.ofWord w
  d := w.extractLsb' 40 8
  a := w.extractLsb' 32 8
  ea := w.getLsbD 31
  imm := w.extractLsb' 0 31
  imm64 := w2

/-- The first word of form L (R36). -/
def LForm.toWord (op x : Nat) (f : LForm) : Word :=
  header op x f.pr ++ f.d ++ f.a ++ BitVec.ofBool f.ea ++ f.imm

/-- Form J read from its two words (R37). -/
def JForm.ofWords (w w2 : Word) : JForm where
  pr := Pred.ofWord w
  d := w.extractLsb' 40 8
  offset := w.extractLsb' 0 40
  t := w2.extractLsb' 56 8
  cnt := w2.extractLsb' 48 8
  rsv := w2.extractLsb' 0 48

/-- The first word of form J (R37). -/
def JForm.toWord (op x : Nat) (f : JForm) : Word :=
  header op x f.pr ++ f.d ++ f.offset

/-- The second word of form J (R37). -/
def JForm.toWord2 (f : JForm) : Word := f.t ++ f.cnt ++ f.rsv

/-- Form M read from a word (R39). -/
def MForm.ofWord (w : Word) : MForm where
  pr := Pred.ofWord w
  d := w.extractLsb' 40 8
  a := w.extractLsb' 32 8
  b := w.extractLsb' 24 8
  disp := w.extractLsb' 8 16
  ea := w.getLsbD 7
  eb := w.getLsbD 6
  pi := w.extractLsb' 4 2
  sc := w.extractLsb' 2 2
  or := w.extractLsb' 0 2

/-- Form M as a word (R39). -/
def MForm.toWord (op x : Nat) (f : MForm) : Word :=
  header op x f.pr ++ f.d ++ f.a ++ f.b ++ f.disp ++
    BitVec.ofBool f.ea ++ BitVec.ofBool f.eb ++ f.pi ++ f.sc ++ f.or

/-- X of a condition code of CMP and CMPI (R43). -/
def Cc.x : Cc → Nat
  | .eq => 0 | .ne => 1 | .lt => 2 | .ge => 3 | .ltu => 4 | .geu => 5 | .gt => 6 | .le => 7

/-- The condition code of CMP and CMPI that X names (R43). -/
def Cc.ofX : Nat → Option Cc
  | 0 => some .eq | 1 => some .ne | 2 => some .lt | 3 => some .ge
  | 4 => some .ltu | 5 => some .geu | 6 => some .gt | 7 => some .le | _ => none

/-- X of a condition code of VCMP (R43). -/
def VCc.x : VCc → Nat
  | .eq => 0 | .ne => 1 | .lt => 2 | .le => 3 | .gt => 4 | .ge => 5 | .uo => 6

/-- The condition code of VCMP that X names; X = 7 names none (R43). -/
def VCc.ofX : Nat → Option VCc
  | 0 => some .eq | 1 => some .ne | 2 => some .lt | 3 => some .le
  | 4 => some .gt | 5 => some .ge | 6 => some .uo | _ => none

/-- X of an access size of LD and LDS (R42). -/
def LdSize.x : LdSize → Nat
  | .b => 0 | .h => 1 | .w => 2 | .d => 3 | .bu => 4 | .hu => 5 | .wu => 6

/-- The access size of LD and LDS that X names (R42). -/
def LdSize.ofX : Nat → Option LdSize
  | 0 => some .b | 1 => some .h | 2 => some .w | 3 => some .d
  | 4 => some .bu | 5 => some .hu | 6 => some .wu | _ => none

/-- X of an access size of ST and STS (R42). -/
def StSize.x : StSize → Nat
  | .b => 0 | .h => 1 | .w => 2 | .d => 3

/-- The access size of ST and STS that X names (R42). -/
def StSize.ofX : Nat → Option StSize
  | 0 => some .b | 1 => some .h | 2 => some .w | 3 => some .d | _ => none

/-- Bytes of an access of LD and LDS (R232). -/
def LdSize.bytes : LdSize → Nat
  | .b => 1 | .h => 2 | .w => 4 | .d => 8 | .bu => 1 | .hu => 2 | .wu => 4

/-- Does the load sign-extend (R232)? -/
def LdSize.signed : LdSize → Bool
  | .b => true | .h => true | .w => true | .d => false | .bu => false | .hu => false | .wu => false

/-- Bytes of an access of ST and STS (R233). -/
def StSize.bytes : StSize → Nat
  | .b => 1 | .h => 2 | .w => 4 | .d => 8

end Sys2Proof
end

