-- ==== Sys2Proof/WellFormed.lean ====
section
/-! DEFINITION. WellFormed.lean: the stream class of every instruction (R15, R42) and the field checks of step 4
of R47: operand files, E bits, modifier fields, zero fields, immediate ranges and second words (R35 to R46).

The check depends on the stream that executes the word, because a queue may be named in one direction
only (R23). -/

namespace Sys2Proof

/-- The stream class of an instruction (R15). -/
inductive StreamClass where
  | aOnly | xOnly | both
deriving DecidableEq, Repr

/-- May a stream execute an instruction of this class? -/
def StreamClass.admits : StreamClass → StreamId → Bool
  | .aOnly, t => t == .a
  | .xOnly, t => t == .x
  | .both, _ => true

/-- What an operand field may hold (R40, R42). -/
inductive Fld where
  /-- "—": the field holds 0x00. -/
  | none
  /-- s0 to s63, read. -/
  | s
  /-- s0 to s63, named as a destination or read without an E bit. -/
  | sNoE
  /-- s1 to s63. -/
  | s1
  /-- S as a source: a scalar register or a queue that the stream reads. -/
  | src
  /-- S as a destination: a scalar register or a queue that the stream writes. -/
  | dst
  /-- v0 to v31, read. -/
  | v
  /-- v0 to v31, written. -/
  | vDst
  /-- acc0 to acc47. -/
  | acc
  /-- p0 to p15. -/
  | p
  /-- q0 to q5, written by A. -/
  | qToX
  /-- q0 to q5, read by X. -/
  | qFromA
  /-- q6, q7, written by X. -/
  | qToA
  /-- q6, q7, read by A. -/
  | qFromX
  /-- any of q0 to q7, without an E bit (QRESET). -/
  | qAny
  /-- a path mask of FENCE: bits 4 to 0, non-zero. -/
  | mask
deriving DecidableEq, Repr

/-- Is the code s0 to s63 (R40)? -/
def codeIsS (c : Code) : Bool := c.toNat < 0x40
/-- Is the code v0 to v31 (R40)? -/
def codeIsV (c : Code) : Bool := 0x40 ≤ c.toNat && c.toNat < 0x60
/-- Is the code acc0 to acc47 (R40)? -/
def codeIsAcc (c : Code) : Bool := 0x80 ≤ c.toNat && c.toNat < 0xB0
/-- Is the code q0 to q7 (R40)? -/
def codeIsQ (c : Code) : Bool := 0xC0 ≤ c.toNat && c.toNat < 0xC8
/-- Is the code q0 to q5, A to X (R40)? -/
def codeIsQAX (c : Code) : Bool := 0xC0 ≤ c.toNat && c.toNat < 0xC6
/-- Is the code q6 or q7, X to A (R40)? -/
def codeIsQXA (c : Code) : Bool := 0xC6 ≤ c.toNat && c.toNat < 0xC8
/-- Is the code p0 to p15 (R40)? -/
def codeIsP (c : Code) : Bool := 0xD0 ≤ c.toNat && c.toNat < 0xE0

/-- Does the code name a queue that the stream reads (R23)? -/
def queueRead (t : StreamId) (c : Code) : Bool :=
  match t with
  | .a => codeIsQXA c
  | .x => codeIsQAX c

/-- Does the code name a queue that the stream writes (R23)? -/
def queueWritten (t : StreamId) (c : Code) : Bool :=
  match t with
  | .a => codeIsQAX c
  | .x => codeIsQXA c

/-- Does a field accept a code (R40)? -/
def Fld.accepts (t : StreamId) : Fld → Code → Bool
  | .none, c => c == 0
  | .s, c => codeIsS c
  | .sNoE, c => codeIsS c
  | .s1, c => codeIsS c && c != 0
  | .src, c => codeIsS c || queueRead t c
  | .dst, c => codeIsS c || queueWritten t c
  | .v, c => codeIsV c
  | .vDst, c => codeIsV c
  | .acc, c => codeIsAcc c
  | .p, c => codeIsP c
  | .qToX, c => codeIsQAX c
  | .qFromA, c => codeIsQAX c
  | .qToA, c => codeIsQXA c
  | .qFromX, c => codeIsQXA c
  | .qAny, c => codeIsQ c
  | .mask, c => c != 0 && c.toNat < 32

/-- May the E bit over a field be 1: does the instruction read it as a scalar register, a vector register or
a queue (R40)? -/
def Fld.mayE : Fld → Bool
  | .s => true
  | .src => true
  | .v => true
  | .qFromA => true
  | .qFromX => true
  | _ => false

/-- A source field with its E bit. -/
def Fld.okE (t : StreamId) (k : Fld) (c : Code) (e : Bool) : Bool := k.accepts t c && (!e || k.mayE)

/-- MK, bit 12 of the arithmetic layout (R41). -/
def mfMk (m : BitVec 13) : Bool := m.getLsbD 12
/-- RMO, bits [11:9] (R41). -/
def mfRmo (m : BitVec 13) : Nat := (m.extractLsb' 9 3).toNat
/-- PL, bit 8 (R41). -/
def mfPl (m : BitVec 13) : Bool := m.getLsbD 8
/-- TOV, bits [7:3] (R41). -/
def mfTov (m : BitVec 13) : Nat := (m.extractLsb' 3 5).toNat
/-- SC of the ordering layout of form R, bits [12:11] (R41). -/
def mfSc (m : BitVec 13) : BitVec 2 := m.extractLsb' 11 2

/-- The arithmetic layout with the fields an instruction accepts (R41, R125, R140). -/
def arOk (mk rmo : Bool) (tov : Nat → Bool) (m : BitVec 13) : Bool :=
  (mk || !mfMk m) && (if rmo then mfRmo m ≤ 4 else mfRmo m == 0) && !mfPl m && tov (mfTov m) &&
    m.extractLsb' 0 3 == 0

/-- TOV not accepted. -/
def tovNo (n : Nat) : Bool := n == 0
/-- TOV 0 to 9. -/
def tovAny (n : Nat) : Bool := n ≤ 9
/-- TOV 0 to 8: every format but CB4 (R140). -/
def tovNotCb4 (n : Nat) : Bool := n ≤ 8
/-- TOV 1 to 9, required (R41). -/
def tovReq (n : Nat) : Bool := 1 ≤ n && n ≤ 9
/-- TOV 4 to 7, required (R140). -/
def tovNarrow (n : Nat) : Bool := 4 ≤ n && n ≤ 7

/-- An instruction that reads v0 as its mask may not name v0 as its destination (R124). -/
def maskDstOk (masked : Bool) (d : Code) : Bool := !(masked && d == 0x40)

/-- The fields of a form R word (R34, R40). -/
def rOk (t : StreamId) (d a b c : Fld) (mOk : BitVec 13 → Bool) (f : RForm) : Bool :=
  d.accepts t f.d && a.okE t f.a f.ea && b.okE t f.b f.eb && c.okE t f.c f.ec && mOk f.m

/-- M = 0. -/
def mZero (m : BitVec 13) : Bool := m == 0
/-- M zero but for PL (R41). -/
def mPlOnly (m : BitVec 13) : Bool := (m &&& 0x1EFF#13) == 0
/-- M zero but for SC of the ordering layout (R278). -/
def mScOnly (m : BitVec 13) : Bool := (m &&& 0x07FF#13) == 0

/-- The fields of a form I word (R35, R40). -/
def iOk (t : StreamId) (d a : Fld) (immOk : BitVec 31 → Bool) (f : IForm) : Bool :=
  d.accepts t f.d && a.okE t f.a f.ea && immOk f.imm

/-- Every 31-bit immediate. -/
def immAny (_ : BitVec 31) : Bool := true
/-- An immediate of at most `n`, read unsigned (R35). -/
def immUpTo (n : Nat) (i : BitVec 31) : Bool := i.toNat ≤ n

/-- The fields of a form M word (R39, R40): SC and OR by a test, and D distinct from A when both are written. DEDUCED (log
57): a word that writes no D, whose D field is 0x00, is accepted with PI ≠ 0 and A = s0; its D names no register that
its base could be. -/
def mOk (t : StreamId) (d b : Fld) (scor : BitVec 2 → BitVec 2 → Bool) (f : MForm) : Bool :=
  d.accepts t f.d && Fld.okE t .s f.a f.ea && b.okE t f.b f.eb && f.pi != 3 && scor f.sc f.or &&
    !(f.pi != 0 && d == .sNoE && f.d == f.a)

/-- SC = OR = 0. -/
def scorNone (sc or : BitVec 2) : Bool := sc == 0 && or == 0
/-- OR 0 or 1; SC 0 when OR = 0 (R228). -/
def scorAcq (sc or : BitVec 2) : Bool := or == 1 || (or == 0 && sc == 0)
/-- OR 0 or 2; SC 0 when OR = 0 (R228). -/
def scorRel (sc or : BitVec 2) : Bool := or == 2 || (or == 0 && sc == 0)
/-- Every combination (R278). -/
def scorAny (_ _ : BitVec 2) : Bool := true

/-- The fields of a branch (R37, R44). -/
def jOk (t : StreamId) (d base cnt : Fld) (f : JForm) : Bool :=
  d.accepts t f.d && base.accepts t f.t && cnt.accepts t f.cnt && f.rsv == 0

/-- The fields of the four matrix product words (R187). -/
def mmaOk (f : RForm) : Bool := rOk .x .acc .s .s .s mPlOnly f

/-- The matrix instruction of the second word of CPYM: OP 0xA1 or 0xA2 with an X of R42 (R45). -/
def chained (w : Word) : Option Instr :=
  if wordOp w == 0xA1 && wordX w == 0 then some (.mma (RForm.ofWord w))
  else if wordOp w == 0xA1 && wordX w == 1 then some (.mmaG (RForm.ofWord w))
  else if wordOp w == 0xA2 && wordX w == 0 then some (.mmag (RForm.ofWord w))
  else if wordOp w == 0xA2 && wordX w == 1 then some (.mmagG (RForm.ofWord w))
  else none

/-- The second word of CPYM passes R45. -/
def chainedOk (w : Word) : Bool :=
  (chained w).isSome && (Pred.ofWord w).p == 0 && !(Pred.ofWord w).n && mmaOk (RForm.ofWord w)

/-- Step 4 of R47 over the first word, and over the second words of L and J, but for the second word of CPYM
(`chainedOk`). An event has no fields. DESIGN CHOICE (log 57): MACC's B may carry E = 1 when it names a queue too (R24, R40); R187
speaks of a scalar register. -/
def fieldsOk (t : StreamId) : Instr → Bool
  | .add f => rOk t .dst .src .src .none mZero f
  | .sub f => rOk t .dst .src .src .none mZero f
  | .mul f => rOk t .dst .src .src .none mZero f
  | .mulh f => rOk t .dst .src .src .none mZero f
  | .mulhs f => rOk t .dst .src .src .none mZero f
  | .div f => rOk t .dst .src .src .none mZero f
  | .divs f => rOk t .dst .src .src .none mZero f
  | .rem f => rOk t .dst .src .src .none mZero f
  | .rems f => rOk t .dst .src .src .none mZero f
  | .andr f => rOk t .dst .src .src .none mZero f
  | .orr f => rOk t .dst .src .src .none mZero f
  | .xorr f => rOk t .dst .src .src .none mZero f
  | .andn f => rOk t .dst .src .src .none mZero f
  | .orn f => rOk t .dst .src .src .none mZero f
  | .shl f => rOk t .dst .src .src .none mZero f
  | .shr f => rOk t .dst .src .src .none mZero f
  | .sra f => rOk t .dst .src .src .none mZero f
  | .rol f => rOk t .dst .src .src .none mZero f
  | .min f => rOk t .dst .src .src .none mZero f
  | .max f => rOk t .dst .src .src .none mZero f
  | .mins f => rOk t .dst .src .src .none mZero f
  | .maxs f => rOk t .dst .src .src .none mZero f
  | .clz f => rOk t .dst .src .none .none mZero f
  | .ctz f => rOk t .dst .src .none .none mZero f
  | .popc f => rOk t .dst .src .none .none mZero f
  | .sext f => rOk t .dst .src .src .none mZero f
  | .zext f => rOk t .dst .src .src .none mZero f
  | .bfx f => rOk t .dst .src .src .src mZero f
  | .bfi f => rOk t .sNoE .src .src .src mZero f
  | .mov f => rOk t .dst .src .none .none mZero f
  | .sel f => rOk t .dst .src .src .p mZero f
  | .addx f => rOk t .dst .src .src .src mZero f
  | .addi f => iOk t .dst .src immAny f
  | .li f => iOk t .dst .none immAny f
  | .liw f => Fld.accepts t .dst f.d && Fld.okE t .none f.a f.ea && f.imm == 0
  | .cmp _ f => rOk t .p .src .src .none mZero f
  | .cmpi _ f => iOk t .p .src immAny f
  | .pand f => rOk t .p .p .p .none mZero f
  | .por f => rOk t .p .p .p .none mZero f
  | .pxor f => rOk t .p .p .p .none mZero f
  | .pnot f => rOk t .p .p .none .none mZero f
  | .pmov f => rOk t .p .p .none .none mZero f
  | .br f => jOk t .none .none .none f
  | .jmp f => jOk t .none .s1 .none f
  | .call f => f.d != 0 && codeIsS f.d && codeIsS f.t && f.cnt == 0 && f.rsv == 0
  | .ret f => jOk t .none .s1 .none f && f.offset == 0
  | .loop f => jOk t .none .none .s1 f
  | .rdv f => rOk t .none .none .none .none mZero f
  | .endj f => rOk t .none .none .none .none mZero f
  | .nop f => rOk t .none .none .none .none mZero f
  | .csrr f => iOk t .dst .none (immUpTo 0xFFF) f
  | .csrw f => iOk t .none .src (immUpTo 0xFFF) f
  | .csrs f => iOk t .dst .src (immUpTo 0xFFF) f
  | .csrc f => iOk t .dst .src (immUpTo 0xFFF) f
  | .ld _ f => mOk t .sNoE .s scorAcq f
  | .st _ f => mOk t .none .src scorRel f
  | .lds _ f => mOk t .sNoE .s scorNone f
  | .sts _ f => mOk t .none .src scorNone f
  | .ldq f => mOk t .qToX .s scorAcq f
  | .ldqi f => mOk t .qToX .s scorAcq f
  | .ldsq f => mOk t .qToX .s scorNone f
  | .stq f => mOk t .none .qFromX scorRel f
  | .stsq f => mOk t .none .qFromX scorNone f
  | .prf f => mOk t .none .s scorNone f
  | .cpy f => rOk t .sNoE .s .s .none mZero f
  | .cpym f => Fld.accepts t .sNoE f.d && Fld.okE t .s f.a f.ea && f.imm != 0 && !f.imm.getLsbD 30
  | .apd f => mOk t .sNoE .s scorNone f && f.disp == 0 && f.pi == 0
  | .apdRel f => mOk t .sNoE .s scorNone f && f.disp == 0 && f.pi == 0
  | .seal f => rOk t .none .s .none .none mZero f
  | .qreset f => rOk t .qAny .none .none .none mZero f
  | .amoadd f => mOk t .sNoE .src scorAny f && f.pi == 0
  | .amomin f => mOk t .sNoE .src scorAny f && f.pi == 0
  | .amomax f => mOk t .sNoE .src scorAny f && f.pi == 0
  | .amoand f => mOk t .sNoE .src scorAny f && f.pi == 0
  | .amoor f => mOk t .sNoE .src scorAny f && f.pi == 0
  | .amoxor f => mOk t .sNoE .src scorAny f && f.pi == 0
  | .amoswp f => mOk t .sNoE .src scorAny f && f.pi == 0
  | .amocas f => mOk t .sNoE .src scorAny f && f.pi == 0
  | .amofadd f => mOk t .sNoE .src scorAny f && f.pi == 0
  | .fence f => rOk t .none .mask .mask .none mScOnly f
  | .phase f => iOk t .none .none (immUpTo 0) f
  | .phaseSplit f => iOk t .none .none (immUpTo 6) f && f.imm != 0
  | .phaseJoin f => iOk t .none .none (immUpTo 0) f
  | .bara f => iOk t .none .none (immUpTo 15) f
  | .barw f => iOk t .none .none (immUpTo 15) f
  | .bar f => iOk t .none .none (immUpTo 15) f
  | .waitseqC f => iOk t .none .src immAny f
  | .waitseqM f => iOk t .none .src immAny f
  | .launch f => rOk t .none .s .s .none mZero f
  | .donate f => rOk t .none .none .none .none mZero f
  | .setvl f => iOk t .sNoE .src (immUpTo 31) f && f.imm.extractLsb' 0 2 != 3
  | .vlds f => mOk t .vDst .s scorNone f
  | .vsts f => mOk t .none .v scorNone f
  | .vpop f => rOk t .vDst .qFromA .none .none mZero f
  | .vpush f => rOk t .qToA .v .none .none mZero f
  | .vgathc f => rOk t .vDst .s .v .none mZero f
  | .vscatc f => rOk t .none .s .v .v mZero f
  | .vadd f => rOk t .vDst .v .v .none (arOk true true tovAny) f && maskDstOk (mfMk f.m) f.d
  | .vsub f => rOk t .vDst .v .v .none (arOk true true tovAny) f && maskDstOk (mfMk f.m) f.d
  | .vmul f => rOk t .vDst .v .v .none (arOk true true tovAny) f && maskDstOk (mfMk f.m) f.d
  | .vdiv f => rOk t .vDst .v .v .none (arOk true true tovAny) f && maskDstOk (mfMk f.m) f.d
  | .vmin f => rOk t .vDst .v .v .none (arOk true true tovAny) f && maskDstOk (mfMk f.m) f.d
  | .vmax f => rOk t .vDst .v .v .none (arOk true true tovAny) f && maskDstOk (mfMk f.m) f.d
  | .vfma f => rOk t .vDst .v .v .v (arOk true true tovAny) f && maskDstOk (mfMk f.m) f.d
  | .vfms f => rOk t .vDst .v .v .v (arOk true true tovAny) f && maskDstOk (mfMk f.m) f.d
  | .vfnma f => rOk t .vDst .v .v .v (arOk true true tovAny) f && maskDstOk (mfMk f.m) f.d
  | .vabs f => rOk t .vDst .v .none .none (arOk true true tovAny) f && maskDstOk (mfMk f.m) f.d
  | .vneg f => rOk t .vDst .v .none .none (arOk true true tovAny) f && maskDstOk (mfMk f.m) f.d
  | .vsqrt f => rOk t .vDst .v .none .none (arOk true true tovAny) f && maskDstOk (mfMk f.m) f.d
  | .vrcpe f => rOk t .vDst .v .none .none (arOk true false tovAny) f && maskDstOk (mfMk f.m) f.d
  | .vrsqrte f => rOk t .vDst .v .none .none (arOk true false tovAny) f && maskDstOk (mfMk f.m) f.d
  | .vexp2 f => rOk t .vDst .v .none .none (arOk true false tovAny) f && maskDstOk (mfMk f.m) f.d
  | .vlog2 f => rOk t .vDst .v .none .none (arOk true false tovAny) f && maskDstOk (mfMk f.m) f.d
  | .vcmp _ f => rOk t .vDst .v .v .none (arOk true false tovNo) f
  | .vpopc f => rOk t .dst .v .none .none (arOk true false tovNo) f
  | .vsel f => rOk t .vDst .v .v .none mZero f && maskDstOk true f.d
  | .vmov f => rOk t .vDst .v .none .none (arOk true false tovNo) f && maskDstOk (mfMk f.m) f.d
  | .vbcast f => rOk t .vDst .src .none .none (arOk true false tovNo) f && maskDstOk (mfMk f.m) f.d
  | .vins f => rOk t .vDst .src .src .none mZero f
  | .vext f => rOk t .dst .v .src .none mZero f
  | .vid f => rOk t .vDst .none .none .none (arOk true false tovNo) f && maskDstOk (mfMk f.m) f.d
  | .viadd f => rOk t .vDst .v .v .none (arOk true false tovNo) f && maskDstOk (mfMk f.m) f.d
  | .visub f => rOk t .vDst .v .v .none (arOk true false tovNo) f && maskDstOk (mfMk f.m) f.d
  | .vimul f => rOk t .vDst .v .v .none (arOk true false tovNo) f && maskDstOk (mfMk f.m) f.d
  | .viand f => rOk t .vDst .v .v .none (arOk true false tovNo) f && maskDstOk (mfMk f.m) f.d
  | .vior f => rOk t .vDst .v .v .none (arOk true false tovNo) f && maskDstOk (mfMk f.m) f.d
  | .vixor f => rOk t .vDst .v .v .none (arOk true false tovNo) f && maskDstOk (mfMk f.m) f.d
  | .vishl f => rOk t .vDst .v .v .none (arOk true false tovNo) f && maskDstOk (mfMk f.m) f.d
  | .vishr f => rOk t .vDst .v .v .none (arOk true false tovNo) f && maskDstOk (mfMk f.m) f.d
  | .vslide1up f => rOk t .vDst .v .src .none (arOk true false tovNo) f && maskDstOk (mfMk f.m) f.d
  | .vslide1dn f => rOk t .vDst .v .src .none (arOk true false tovNo) f && maskDstOk (mfMk f.m) f.d
  | .vslideup f => rOk t .vDst .v .src .none (arOk true false tovNo) f && maskDstOk (mfMk f.m) f.d
  | .vslidedn f => rOk t .vDst .v .src .none (arOk true false tovNo) f && maskDstOk (mfMk f.m) f.d
  | .vperm f => rOk t .vDst .v .v .none mZero f
  | .vcmprs f => rOk t .vDst .v .v .none mZero f
  | .vexpnd f => rOk t .vDst .v .v .none mZero f
  | .vredsumO f => rOk t .vDst .v .none .none (arOk true true tovNo) f && maskDstOk (mfMk f.m) f.d
  | .vredsumT f => rOk t .vDst .v .none .none (arOk true true tovNo) f && maskDstOk (mfMk f.m) f.d
  | .vredmax f => rOk t .vDst .v .none .none (arOk true true tovNo) f && maskDstOk (mfMk f.m) f.d
  | .vredmin f => rOk t .vDst .v .none .none (arOk true true tovNo) f && maskDstOk (mfMk f.m) f.d
  | .vcvt f => rOk t .vDst .v .none .none (arOk true true tovReq) f && maskDstOk (mfMk f.m) f.d
  | .vretag f => rOk t .vDst .v .src .none (arOk true false tovNo) f && maskDstOk (mfMk f.m) f.d
  | .vscale f => rOk t .vDst .v .src .none (arOk true true tovNotCb4) f && maskDstOk (mfMk f.m) f.d
  | .vqnt f => rOk t .vDst .v .none .none (arOk true true tovNarrow) f && maskDstOk (mfMk f.m) f.d
  | .vdeq f => rOk t .vDst .v .src .src (arOk true true tovNotCb4) f && maskDstOk (mfMk f.m) f.d
  | .tget f => rOk t .dst .s .none .none mZero f
  | .tset f => rOk t .none .s .src .none mZero f
  | .latw f => rOk t .none .src .src .none mZero f
  | .latr f => rOk t .dst .src .none .none mZero f
  | .cbload f => rOk t .none .s .src .none mZero f
  | .mzero f => rOk t .acc .none .none .none mZero f
  | .mma f => rOk t .acc .s .s .s mPlOnly f
  | .mmaG f => rOk t .acc .s .s .s mPlOnly f
  | .mmag f => rOk t .acc .s .s .s mPlOnly f
  | .mmagG f => rOk t .acc .s .s .s mPlOnly f
  | .mst f => rOk t .none .acc .s .none mZero f
  | .mldacc f => rOk t .acc .s .none .none mZero f
  | .macc f => rOk t .vDst .acc .src .none mZero f
  | .madd f => rOk t .acc .acc .acc .none mZero f
  | .mwait f => rOk t .none .none .none .none mZero f
  | .mstat f => rOk t .dst .none .none .none mZero f
  | .syscall f => iOk t .none .none (immUpTo 0xFFFF) f
  | .bkpt f => iOk t .none .none (immUpTo 0xFFFF) f
  | .eret f => iOk t .none .none (immUpTo 0) f
  | .wfe f => iOk t .none .none (immUpTo 0) f
  | .tlbinv f => rOk t .none .s .none .none mZero f
  | .sealfree f => rOk t .none .s .none .none mZero f
  | .loadDataArrival _ _ _ => true
  | .gatherComplete _ _ => true
  | .scatterElementApply _ _ => true
  | .maccRowWrite _ _ => true
  | .cbloadComplete _ _ => true
  | .streamSlotLine _ _ => true
  | .stqHomeWrite _ => true
  | .appendLineWrite _ => true
  | .copyBeatGroup _ => true
  | .matrixKStep _ _ => true
  | .engineMzero _ => true
  | .engineMst _ => true
  | .engineMldacc _ => true
  | .engineMadd _ => true
  | .engineFaultDelivery _ _ => true
  | .faultRecordWrite _ => true
  | .violationRecordWrite => true
  | .frespRetry _ _ => true
  | .frespAbort _ _ => true
  | .frzrespResume _ => true
  | .frzrespTrap _ => true
  | .frzrespDiscard _ => true
  | .queueCycle _ => true
  | .wfeTimeout _ _ => true
  | .memberArrival _ => true
  | .coreWorkEnd _ => true
  | .porterEvaluation _ => true
  | .agePriorityChange _ _ => true
  | .headReserving _ _ => true
  | .lqpost _ _ _ _ => true
  | .lqctlWrite _ _ _ => true
  | .lqstatWrite _ _ _ => true
  | .fullerRecordTake _ _ => true
  | .fullerLineRecode _ _ => true
  | .granuleCreditGrant _ => true
  | .replicaShootdownDone _ _ => true
  | .slotStop => true
  | .contextSave _ => true
  | .contextClear _ => true
  | .slotRestore => true
  | .ttctlCommit _ => true
  | .timetableValidation => true
  | .guestEnable _ => true
  | .guestDisable _ => true
  | .gbaseGboundWrite _ _ _ => true
  | .coalescePeriodEnd _ => true
  | .pmovhiRead _ => true
  | .dbgdataWrite _ => true
  | .dbgdataRead => true
  | .dataApertureAccess _ _ => true
  | .tagApertureAccess _ _ => true
  | .hdmAccess _ => true
  | .peerRequest _ => true
  | .flitReceive _ _ => true
  | .llcBankRetire _ _ _ => true
  | .hbmRowRemap _ _ _ _ => true
  | .linkNarrow _ _ => true
  | .mctpRequest _ => true
  | .pwrctlWrite _ => true
  | .powerOn => true
  | .powerOff => true
  | .mcctlLoad _ => true
  | .microcodeLoadDone => true
  | .hbmTrain _ => true
  | .linkTrain _ _ => true
  | .selfTest _ _ _ _ => true
  | .retirementStateWrite _ _ => true
  | .mschedWrite _ _ _ => true
  | .registerWrite _ _ _ => true
  | .homeAnswer _ => true
  | .writeEntersView _ _ _ => true
  | .arithmeticClockCycle _ => true
  | .hostLinkTrain _ _ => true
  | .thermalLimiting _ _ => true

/-- The stream class of each instruction (R15, R42); an event belongs to no stream and reads `both`. -/
def streamClass : Instr → StreamClass
  | .add _ => .both
  | .sub _ => .both
  | .mul _ => .both
  | .mulh _ => .both
  | .mulhs _ => .both
  | .div _ => .both
  | .divs _ => .both
  | .rem _ => .both
  | .rems _ => .both
  | .andr _ => .both
  | .orr _ => .both
  | .xorr _ => .both
  | .andn _ => .both
  | .orn _ => .both
  | .shl _ => .both
  | .shr _ => .both
  | .sra _ => .both
  | .rol _ => .both
  | .min _ => .both
  | .max _ => .both
  | .mins _ => .both
  | .maxs _ => .both
  | .clz _ => .both
  | .ctz _ => .both
  | .popc _ => .both
  | .sext _ => .both
  | .zext _ => .both
  | .bfx _ => .both
  | .bfi _ => .both
  | .mov _ => .both
  | .sel _ => .both
  | .addx _ => .both
  | .addi _ => .both
  | .li _ => .both
  | .liw _ => .both
  | .cmp _ _ => .both
  | .cmpi _ _ => .both
  | .pand _ => .both
  | .por _ => .both
  | .pxor _ => .both
  | .pnot _ => .both
  | .pmov _ => .both
  | .br _ => .both
  | .jmp _ => .both
  | .call _ => .both
  | .ret _ => .both
  | .loop _ => .both
  | .rdv _ => .both
  | .endj _ => .both
  | .nop _ => .both
  | .csrr _ => .both
  | .csrw _ => .both
  | .csrs _ => .both
  | .csrc _ => .both
  | .ld _ _ => .aOnly
  | .st _ _ => .aOnly
  | .lds _ _ => .aOnly
  | .sts _ _ => .aOnly
  | .ldq _ => .aOnly
  | .ldqi _ => .aOnly
  | .ldsq _ => .aOnly
  | .stq _ => .aOnly
  | .stsq _ => .aOnly
  | .prf _ => .aOnly
  | .cpy _ => .aOnly
  | .cpym _ => .aOnly
  | .apd _ => .aOnly
  | .apdRel _ => .aOnly
  | .seal _ => .aOnly
  | .qreset _ => .aOnly
  | .amoadd _ => .aOnly
  | .amomin _ => .aOnly
  | .amomax _ => .aOnly
  | .amoand _ => .aOnly
  | .amoor _ => .aOnly
  | .amoxor _ => .aOnly
  | .amoswp _ => .aOnly
  | .amocas _ => .aOnly
  | .amofadd _ => .aOnly
  | .fence _ => .both
  | .phase _ => .both
  | .phaseSplit _ => .both
  | .phaseJoin _ => .both
  | .bara _ => .both
  | .barw _ => .both
  | .bar _ => .both
  | .waitseqC _ => .both
  | .waitseqM _ => .both
  | .launch _ => .aOnly
  | .donate _ => .both
  | .setvl _ => .xOnly
  | .vlds _ => .xOnly
  | .vsts _ => .xOnly
  | .vpop _ => .xOnly
  | .vpush _ => .xOnly
  | .vgathc _ => .xOnly
  | .vscatc _ => .xOnly
  | .vadd _ => .xOnly
  | .vsub _ => .xOnly
  | .vmul _ => .xOnly
  | .vdiv _ => .xOnly
  | .vmin _ => .xOnly
  | .vmax _ => .xOnly
  | .vfma _ => .xOnly
  | .vfms _ => .xOnly
  | .vfnma _ => .xOnly
  | .vabs _ => .xOnly
  | .vneg _ => .xOnly
  | .vsqrt _ => .xOnly
  | .vrcpe _ => .xOnly
  | .vrsqrte _ => .xOnly
  | .vexp2 _ => .xOnly
  | .vlog2 _ => .xOnly
  | .vcmp _ _ => .xOnly
  | .vpopc _ => .xOnly
  | .vsel _ => .xOnly
  | .vmov _ => .xOnly
  | .vbcast _ => .xOnly
  | .vins _ => .xOnly
  | .vext _ => .xOnly
  | .vid _ => .xOnly
  | .viadd _ => .xOnly
  | .visub _ => .xOnly
  | .vimul _ => .xOnly
  | .viand _ => .xOnly
  | .vior _ => .xOnly
  | .vixor _ => .xOnly
  | .vishl _ => .xOnly
  | .vishr _ => .xOnly
  | .vslide1up _ => .xOnly
  | .vslide1dn _ => .xOnly
  | .vslideup _ => .xOnly
  | .vslidedn _ => .xOnly
  | .vperm _ => .xOnly
  | .vcmprs _ => .xOnly
  | .vexpnd _ => .xOnly
  | .vredsumO _ => .xOnly
  | .vredsumT _ => .xOnly
  | .vredmax _ => .xOnly
  | .vredmin _ => .xOnly
  | .vcvt _ => .xOnly
  | .vretag _ => .xOnly
  | .vscale _ => .xOnly
  | .vqnt _ => .xOnly
  | .vdeq _ => .xOnly
  | .tget _ => .aOnly
  | .tset _ => .aOnly
  | .latw _ => .both
  | .latr _ => .both
  | .cbload _ => .aOnly
  | .mzero _ => .xOnly
  | .mma _ => .xOnly
  | .mmaG _ => .xOnly
  | .mmag _ => .xOnly
  | .mmagG _ => .xOnly
  | .mst _ => .xOnly
  | .mldacc _ => .xOnly
  | .macc _ => .xOnly
  | .madd _ => .xOnly
  | .mwait _ => .xOnly
  | .mstat _ => .xOnly
  | .syscall _ => .both
  | .bkpt _ => .both
  | .eret _ => .both
  | .wfe _ => .both
  | .tlbinv _ => .aOnly
  | .sealfree _ => .aOnly
  | .loadDataArrival _ _ _ => .both
  | .gatherComplete _ _ => .both
  | .scatterElementApply _ _ => .both
  | .maccRowWrite _ _ => .both
  | .cbloadComplete _ _ => .both
  | .streamSlotLine _ _ => .both
  | .stqHomeWrite _ => .both
  | .appendLineWrite _ => .both
  | .copyBeatGroup _ => .both
  | .matrixKStep _ _ => .both
  | .engineMzero _ => .both
  | .engineMst _ => .both
  | .engineMldacc _ => .both
  | .engineMadd _ => .both
  | .engineFaultDelivery _ _ => .both
  | .faultRecordWrite _ => .both
  | .violationRecordWrite => .both
  | .frespRetry _ _ => .both
  | .frespAbort _ _ => .both
  | .frzrespResume _ => .both
  | .frzrespTrap _ => .both
  | .frzrespDiscard _ => .both
  | .queueCycle _ => .both
  | .wfeTimeout _ _ => .both
  | .memberArrival _ => .both
  | .coreWorkEnd _ => .both
  | .porterEvaluation _ => .both
  | .agePriorityChange _ _ => .both
  | .headReserving _ _ => .both
  | .lqpost _ _ _ _ => .both
  | .lqctlWrite _ _ _ => .both
  | .lqstatWrite _ _ _ => .both
  | .fullerRecordTake _ _ => .both
  | .fullerLineRecode _ _ => .both
  | .granuleCreditGrant _ => .both
  | .replicaShootdownDone _ _ => .both
  | .slotStop => .both
  | .contextSave _ => .both
  | .contextClear _ => .both
  | .slotRestore => .both
  | .ttctlCommit _ => .both
  | .timetableValidation => .both
  | .guestEnable _ => .both
  | .guestDisable _ => .both
  | .gbaseGboundWrite _ _ _ => .both
  | .coalescePeriodEnd _ => .both
  | .pmovhiRead _ => .both
  | .dbgdataWrite _ => .both
  | .dbgdataRead => .both
  | .dataApertureAccess _ _ => .both
  | .tagApertureAccess _ _ => .both
  | .hdmAccess _ => .both
  | .peerRequest _ => .both
  | .flitReceive _ _ => .both
  | .llcBankRetire _ _ _ => .both
  | .hbmRowRemap _ _ _ _ => .both
  | .linkNarrow _ _ => .both
  | .mctpRequest _ => .both
  | .pwrctlWrite _ => .both
  | .powerOn => .both
  | .powerOff => .both
  | .mcctlLoad _ => .both
  | .microcodeLoadDone => .both
  | .hbmTrain _ => .both
  | .linkTrain _ _ => .both
  | .selfTest _ _ _ _ => .both
  | .retirementStateWrite _ _ => .both
  | .mschedWrite _ _ _ => .both
  | .registerWrite _ _ _ => .both
  | .homeAnswer _ => .both
  | .writeEntersView _ _ _ => .both
  | .arithmeticClockCycle _ => .both
  | .hostLinkTrain _ _ => .both
  | .thermalLimiting _ _ => .both

/-- Is the instruction marked S level (R42, R330)? -/
def isSLevel : Instr → Bool
  | .add _ => false
  | .sub _ => false
  | .mul _ => false
  | .mulh _ => false
  | .mulhs _ => false
  | .div _ => false
  | .divs _ => false
  | .rem _ => false
  | .rems _ => false
  | .andr _ => false
  | .orr _ => false
  | .xorr _ => false
  | .andn _ => false
  | .orn _ => false
  | .shl _ => false
  | .shr _ => false
  | .sra _ => false
  | .rol _ => false
  | .min _ => false
  | .max _ => false
  | .mins _ => false
  | .maxs _ => false
  | .clz _ => false
  | .ctz _ => false
  | .popc _ => false
  | .sext _ => false
  | .zext _ => false
  | .bfx _ => false
  | .bfi _ => false
  | .mov _ => false
  | .sel _ => false
  | .addx _ => false
  | .addi _ => false
  | .li _ => false
  | .liw _ => false
  | .cmp _ _ => false
  | .cmpi _ _ => false
  | .pand _ => false
  | .por _ => false
  | .pxor _ => false
  | .pnot _ => false
  | .pmov _ => false
  | .br _ => false
  | .jmp _ => false
  | .call _ => false
  | .ret _ => false
  | .loop _ => false
  | .rdv _ => false
  | .endj _ => false
  | .nop _ => false
  | .csrr _ => false
  | .csrw _ => false
  | .csrs _ => false
  | .csrc _ => false
  | .ld _ _ => false
  | .st _ _ => false
  | .lds _ _ => false
  | .sts _ _ => false
  | .ldq _ => false
  | .ldqi _ => false
  | .ldsq _ => false
  | .stq _ => false
  | .stsq _ => false
  | .prf _ => false
  | .cpy _ => false
  | .cpym _ => false
  | .apd _ => false
  | .apdRel _ => false
  | .seal _ => false
  | .qreset _ => false
  | .amoadd _ => false
  | .amomin _ => false
  | .amomax _ => false
  | .amoand _ => false
  | .amoor _ => false
  | .amoxor _ => false
  | .amoswp _ => false
  | .amocas _ => false
  | .amofadd _ => false
  | .fence _ => false
  | .phase _ => false
  | .phaseSplit _ => false
  | .phaseJoin _ => false
  | .bara _ => false
  | .barw _ => false
  | .bar _ => false
  | .waitseqC _ => false
  | .waitseqM _ => false
  | .launch _ => false
  | .donate _ => false
  | .setvl _ => false
  | .vlds _ => false
  | .vsts _ => false
  | .vpop _ => false
  | .vpush _ => false
  | .vgathc _ => false
  | .vscatc _ => false
  | .vadd _ => false
  | .vsub _ => false
  | .vmul _ => false
  | .vdiv _ => false
  | .vmin _ => false
  | .vmax _ => false
  | .vfma _ => false
  | .vfms _ => false
  | .vfnma _ => false
  | .vabs _ => false
  | .vneg _ => false
  | .vsqrt _ => false
  | .vrcpe _ => false
  | .vrsqrte _ => false
  | .vexp2 _ => false
  | .vlog2 _ => false
  | .vcmp _ _ => false
  | .vpopc _ => false
  | .vsel _ => false
  | .vmov _ => false
  | .vbcast _ => false
  | .vins _ => false
  | .vext _ => false
  | .vid _ => false
  | .viadd _ => false
  | .visub _ => false
  | .vimul _ => false
  | .viand _ => false
  | .vior _ => false
  | .vixor _ => false
  | .vishl _ => false
  | .vishr _ => false
  | .vslide1up _ => false
  | .vslide1dn _ => false
  | .vslideup _ => false
  | .vslidedn _ => false
  | .vperm _ => false
  | .vcmprs _ => false
  | .vexpnd _ => false
  | .vredsumO _ => false
  | .vredsumT _ => false
  | .vredmax _ => false
  | .vredmin _ => false
  | .vcvt _ => false
  | .vretag _ => false
  | .vscale _ => false
  | .vqnt _ => false
  | .vdeq _ => false
  | .tget _ => false
  | .tset _ => false
  | .latw _ => true
  | .latr _ => true
  | .cbload _ => false
  | .mzero _ => false
  | .mma _ => false
  | .mmaG _ => false
  | .mmag _ => false
  | .mmagG _ => false
  | .mst _ => false
  | .mldacc _ => false
  | .macc _ => false
  | .madd _ => false
  | .mwait _ => false
  | .mstat _ => false
  | .syscall _ => false
  | .bkpt _ => false
  | .eret _ => true
  | .wfe _ => false
  | .tlbinv _ => true
  | .sealfree _ => true
  | .loadDataArrival _ _ _ => false
  | .gatherComplete _ _ => false
  | .scatterElementApply _ _ => false
  | .maccRowWrite _ _ => false
  | .cbloadComplete _ _ => false
  | .streamSlotLine _ _ => false
  | .stqHomeWrite _ => false
  | .appendLineWrite _ => false
  | .copyBeatGroup _ => false
  | .matrixKStep _ _ => false
  | .engineMzero _ => false
  | .engineMst _ => false
  | .engineMldacc _ => false
  | .engineMadd _ => false
  | .engineFaultDelivery _ _ => false
  | .faultRecordWrite _ => false
  | .violationRecordWrite => false
  | .frespRetry _ _ => false
  | .frespAbort _ _ => false
  | .frzrespResume _ => false
  | .frzrespTrap _ => false
  | .frzrespDiscard _ => false
  | .queueCycle _ => false
  | .wfeTimeout _ _ => false
  | .memberArrival _ => false
  | .coreWorkEnd _ => false
  | .porterEvaluation _ => false
  | .agePriorityChange _ _ => false
  | .headReserving _ _ => false
  | .lqpost _ _ _ _ => false
  | .lqctlWrite _ _ _ => false
  | .lqstatWrite _ _ _ => false
  | .fullerRecordTake _ _ => false
  | .fullerLineRecode _ _ => false
  | .granuleCreditGrant _ => false
  | .replicaShootdownDone _ _ => false
  | .slotStop => false
  | .contextSave _ => false
  | .contextClear _ => false
  | .slotRestore => false
  | .ttctlCommit _ => false
  | .timetableValidation => false
  | .guestEnable _ => false
  | .guestDisable _ => false
  | .gbaseGboundWrite _ _ _ => false
  | .coalescePeriodEnd _ => false
  | .pmovhiRead _ => false
  | .dbgdataWrite _ => false
  | .dbgdataRead => false
  | .dataApertureAccess _ _ => false
  | .tagApertureAccess _ _ => false
  | .hdmAccess _ => false
  | .peerRequest _ => false
  | .flitReceive _ _ => false
  | .llcBankRetire _ _ _ => false
  | .hbmRowRemap _ _ _ _ => false
  | .linkNarrow _ _ => false
  | .mctpRequest _ => false
  | .pwrctlWrite _ => false
  | .powerOn => false
  | .powerOff => false
  | .mcctlLoad _ => false
  | .microcodeLoadDone => false
  | .hbmTrain _ => false
  | .linkTrain _ _ => false
  | .selfTest _ _ _ _ => false
  | .retirementStateWrite _ _ => false
  | .mschedWrite _ _ _ => false
  | .registerWrite _ _ _ => false
  | .homeAnswer _ => false
  | .writeEntersView _ _ _ => false
  | .arithmeticClockCycle _ => false
  | .hostLinkTrain _ _ => false
  | .thermalLimiting _ _ => false

/-- The predicate of an instruction; an event is unconditional (R33). -/
def predOf : Instr → Pred
  | .add f => f.pr
  | .sub f => f.pr
  | .mul f => f.pr
  | .mulh f => f.pr
  | .mulhs f => f.pr
  | .div f => f.pr
  | .divs f => f.pr
  | .rem f => f.pr
  | .rems f => f.pr
  | .andr f => f.pr
  | .orr f => f.pr
  | .xorr f => f.pr
  | .andn f => f.pr
  | .orn f => f.pr
  | .shl f => f.pr
  | .shr f => f.pr
  | .sra f => f.pr
  | .rol f => f.pr
  | .min f => f.pr
  | .max f => f.pr
  | .mins f => f.pr
  | .maxs f => f.pr
  | .clz f => f.pr
  | .ctz f => f.pr
  | .popc f => f.pr
  | .sext f => f.pr
  | .zext f => f.pr
  | .bfx f => f.pr
  | .bfi f => f.pr
  | .mov f => f.pr
  | .sel f => f.pr
  | .addx f => f.pr
  | .addi f => f.pr
  | .li f => f.pr
  | .liw f => f.pr
  | .cmp _ f => f.pr
  | .cmpi _ f => f.pr
  | .pand f => f.pr
  | .por f => f.pr
  | .pxor f => f.pr
  | .pnot f => f.pr
  | .pmov f => f.pr
  | .br f => f.pr
  | .jmp f => f.pr
  | .call f => f.pr
  | .ret f => f.pr
  | .loop f => f.pr
  | .rdv f => f.pr
  | .endj f => f.pr
  | .nop f => f.pr
  | .csrr f => f.pr
  | .csrw f => f.pr
  | .csrs f => f.pr
  | .csrc f => f.pr
  | .ld _ f => f.pr
  | .st _ f => f.pr
  | .lds _ f => f.pr
  | .sts _ f => f.pr
  | .ldq f => f.pr
  | .ldqi f => f.pr
  | .ldsq f => f.pr
  | .stq f => f.pr
  | .stsq f => f.pr
  | .prf f => f.pr
  | .cpy f => f.pr
  | .cpym f => f.pr
  | .apd f => f.pr
  | .apdRel f => f.pr
  | .seal f => f.pr
  | .qreset f => f.pr
  | .amoadd f => f.pr
  | .amomin f => f.pr
  | .amomax f => f.pr
  | .amoand f => f.pr
  | .amoor f => f.pr
  | .amoxor f => f.pr
  | .amoswp f => f.pr
  | .amocas f => f.pr
  | .amofadd f => f.pr
  | .fence f => f.pr
  | .phase f => f.pr
  | .phaseSplit f => f.pr
  | .phaseJoin f => f.pr
  | .bara f => f.pr
  | .barw f => f.pr
  | .bar f => f.pr
  | .waitseqC f => f.pr
  | .waitseqM f => f.pr
  | .launch f => f.pr
  | .donate f => f.pr
  | .setvl f => f.pr
  | .vlds f => f.pr
  | .vsts f => f.pr
  | .vpop f => f.pr
  | .vpush f => f.pr
  | .vgathc f => f.pr
  | .vscatc f => f.pr
  | .vadd f => f.pr
  | .vsub f => f.pr
  | .vmul f => f.pr
  | .vdiv f => f.pr
  | .vmin f => f.pr
  | .vmax f => f.pr
  | .vfma f => f.pr
  | .vfms f => f.pr
  | .vfnma f => f.pr
  | .vabs f => f.pr
  | .vneg f => f.pr
  | .vsqrt f => f.pr
  | .vrcpe f => f.pr
  | .vrsqrte f => f.pr
  | .vexp2 f => f.pr
  | .vlog2 f => f.pr
  | .vcmp _ f => f.pr
  | .vpopc f => f.pr
  | .vsel f => f.pr
  | .vmov f => f.pr
  | .vbcast f => f.pr
  | .vins f => f.pr
  | .vext f => f.pr
  | .vid f => f.pr
  | .viadd f => f.pr
  | .visub f => f.pr
  | .vimul f => f.pr
  | .viand f => f.pr
  | .vior f => f.pr
  | .vixor f => f.pr
  | .vishl f => f.pr
  | .vishr f => f.pr
  | .vslide1up f => f.pr
  | .vslide1dn f => f.pr
  | .vslideup f => f.pr
  | .vslidedn f => f.pr
  | .vperm f => f.pr
  | .vcmprs f => f.pr
  | .vexpnd f => f.pr
  | .vredsumO f => f.pr
  | .vredsumT f => f.pr
  | .vredmax f => f.pr
  | .vredmin f => f.pr
  | .vcvt f => f.pr
  | .vretag f => f.pr
  | .vscale f => f.pr
  | .vqnt f => f.pr
  | .vdeq f => f.pr
  | .tget f => f.pr
  | .tset f => f.pr
  | .latw f => f.pr
  | .latr f => f.pr
  | .cbload f => f.pr
  | .mzero f => f.pr
  | .mma f => f.pr
  | .mmaG f => f.pr
  | .mmag f => f.pr
  | .mmagG f => f.pr
  | .mst f => f.pr
  | .mldacc f => f.pr
  | .macc f => f.pr
  | .madd f => f.pr
  | .mwait f => f.pr
  | .mstat f => f.pr
  | .syscall f => f.pr
  | .bkpt f => f.pr
  | .eret f => f.pr
  | .wfe f => f.pr
  | .tlbinv f => f.pr
  | .sealfree f => f.pr
  | .loadDataArrival _ _ _ => ⟨0, false⟩
  | .gatherComplete _ _ => ⟨0, false⟩
  | .scatterElementApply _ _ => ⟨0, false⟩
  | .maccRowWrite _ _ => ⟨0, false⟩
  | .cbloadComplete _ _ => ⟨0, false⟩
  | .streamSlotLine _ _ => ⟨0, false⟩
  | .stqHomeWrite _ => ⟨0, false⟩
  | .appendLineWrite _ => ⟨0, false⟩
  | .copyBeatGroup _ => ⟨0, false⟩
  | .matrixKStep _ _ => ⟨0, false⟩
  | .engineMzero _ => ⟨0, false⟩
  | .engineMst _ => ⟨0, false⟩
  | .engineMldacc _ => ⟨0, false⟩
  | .engineMadd _ => ⟨0, false⟩
  | .engineFaultDelivery _ _ => ⟨0, false⟩
  | .faultRecordWrite _ => ⟨0, false⟩
  | .violationRecordWrite => ⟨0, false⟩
  | .frespRetry _ _ => ⟨0, false⟩
  | .frespAbort _ _ => ⟨0, false⟩
  | .frzrespResume _ => ⟨0, false⟩
  | .frzrespTrap _ => ⟨0, false⟩
  | .frzrespDiscard _ => ⟨0, false⟩
  | .queueCycle _ => ⟨0, false⟩
  | .wfeTimeout _ _ => ⟨0, false⟩
  | .memberArrival _ => ⟨0, false⟩
  | .coreWorkEnd _ => ⟨0, false⟩
  | .porterEvaluation _ => ⟨0, false⟩
  | .agePriorityChange _ _ => ⟨0, false⟩
  | .headReserving _ _ => ⟨0, false⟩
  | .lqpost _ _ _ _ => ⟨0, false⟩
  | .lqctlWrite _ _ _ => ⟨0, false⟩
  | .lqstatWrite _ _ _ => ⟨0, false⟩
  | .fullerRecordTake _ _ => ⟨0, false⟩
  | .fullerLineRecode _ _ => ⟨0, false⟩
  | .granuleCreditGrant _ => ⟨0, false⟩
  | .replicaShootdownDone _ _ => ⟨0, false⟩
  | .slotStop => ⟨0, false⟩
  | .contextSave _ => ⟨0, false⟩
  | .contextClear _ => ⟨0, false⟩
  | .slotRestore => ⟨0, false⟩
  | .ttctlCommit _ => ⟨0, false⟩
  | .timetableValidation => ⟨0, false⟩
  | .guestEnable _ => ⟨0, false⟩
  | .guestDisable _ => ⟨0, false⟩
  | .gbaseGboundWrite _ _ _ => ⟨0, false⟩
  | .coalescePeriodEnd _ => ⟨0, false⟩
  | .pmovhiRead _ => ⟨0, false⟩
  | .dbgdataWrite _ => ⟨0, false⟩
  | .dbgdataRead => ⟨0, false⟩
  | .dataApertureAccess _ _ => ⟨0, false⟩
  | .tagApertureAccess _ _ => ⟨0, false⟩
  | .hdmAccess _ => ⟨0, false⟩
  | .peerRequest _ => ⟨0, false⟩
  | .flitReceive _ _ => ⟨0, false⟩
  | .llcBankRetire _ _ _ => ⟨0, false⟩
  | .hbmRowRemap _ _ _ _ => ⟨0, false⟩
  | .linkNarrow _ _ => ⟨0, false⟩
  | .mctpRequest _ => ⟨0, false⟩
  | .pwrctlWrite _ => ⟨0, false⟩
  | .powerOn => ⟨0, false⟩
  | .powerOff => ⟨0, false⟩
  | .mcctlLoad _ => ⟨0, false⟩
  | .microcodeLoadDone => ⟨0, false⟩
  | .hbmTrain _ => ⟨0, false⟩
  | .linkTrain _ _ => ⟨0, false⟩
  | .selfTest _ _ _ _ => ⟨0, false⟩
  | .retirementStateWrite _ _ => ⟨0, false⟩
  | .mschedWrite _ _ _ => ⟨0, false⟩
  | .registerWrite _ _ _ => ⟨0, false⟩
  | .homeAnswer _ => ⟨0, false⟩
  | .writeEntersView _ _ _ => ⟨0, false⟩
  | .arithmeticClockCycle _ => ⟨0, false⟩
  | .hostLinkTrain _ _ => ⟨0, false⟩
  | .thermalLimiting _ _ => ⟨0, false⟩

/-- Is it an event of the table rather than an instruction with words? -/
def isEvent : Instr → Bool
  | .add _ => false
  | .sub _ => false
  | .mul _ => false
  | .mulh _ => false
  | .mulhs _ => false
  | .div _ => false
  | .divs _ => false
  | .rem _ => false
  | .rems _ => false
  | .andr _ => false
  | .orr _ => false
  | .xorr _ => false
  | .andn _ => false
  | .orn _ => false
  | .shl _ => false
  | .shr _ => false
  | .sra _ => false
  | .rol _ => false
  | .min _ => false
  | .max _ => false
  | .mins _ => false
  | .maxs _ => false
  | .clz _ => false
  | .ctz _ => false
  | .popc _ => false
  | .sext _ => false
  | .zext _ => false
  | .bfx _ => false
  | .bfi _ => false
  | .mov _ => false
  | .sel _ => false
  | .addx _ => false
  | .addi _ => false
  | .li _ => false
  | .liw _ => false
  | .cmp _ _ => false
  | .cmpi _ _ => false
  | .pand _ => false
  | .por _ => false
  | .pxor _ => false
  | .pnot _ => false
  | .pmov _ => false
  | .br _ => false
  | .jmp _ => false
  | .call _ => false
  | .ret _ => false
  | .loop _ => false
  | .rdv _ => false
  | .endj _ => false
  | .nop _ => false
  | .csrr _ => false
  | .csrw _ => false
  | .csrs _ => false
  | .csrc _ => false
  | .ld _ _ => false
  | .st _ _ => false
  | .lds _ _ => false
  | .sts _ _ => false
  | .ldq _ => false
  | .ldqi _ => false
  | .ldsq _ => false
  | .stq _ => false
  | .stsq _ => false
  | .prf _ => false
  | .cpy _ => false
  | .cpym _ => false
  | .apd _ => false
  | .apdRel _ => false
  | .seal _ => false
  | .qreset _ => false
  | .amoadd _ => false
  | .amomin _ => false
  | .amomax _ => false
  | .amoand _ => false
  | .amoor _ => false
  | .amoxor _ => false
  | .amoswp _ => false
  | .amocas _ => false
  | .amofadd _ => false
  | .fence _ => false
  | .phase _ => false
  | .phaseSplit _ => false
  | .phaseJoin _ => false
  | .bara _ => false
  | .barw _ => false
  | .bar _ => false
  | .waitseqC _ => false
  | .waitseqM _ => false
  | .launch _ => false
  | .donate _ => false
  | .setvl _ => false
  | .vlds _ => false
  | .vsts _ => false
  | .vpop _ => false
  | .vpush _ => false
  | .vgathc _ => false
  | .vscatc _ => false
  | .vadd _ => false
  | .vsub _ => false
  | .vmul _ => false
  | .vdiv _ => false
  | .vmin _ => false
  | .vmax _ => false
  | .vfma _ => false
  | .vfms _ => false
  | .vfnma _ => false
  | .vabs _ => false
  | .vneg _ => false
  | .vsqrt _ => false
  | .vrcpe _ => false
  | .vrsqrte _ => false
  | .vexp2 _ => false
  | .vlog2 _ => false
  | .vcmp _ _ => false
  | .vpopc _ => false
  | .vsel _ => false
  | .vmov _ => false
  | .vbcast _ => false
  | .vins _ => false
  | .vext _ => false
  | .vid _ => false
  | .viadd _ => false
  | .visub _ => false
  | .vimul _ => false
  | .viand _ => false
  | .vior _ => false
  | .vixor _ => false
  | .vishl _ => false
  | .vishr _ => false
  | .vslide1up _ => false
  | .vslide1dn _ => false
  | .vslideup _ => false
  | .vslidedn _ => false
  | .vperm _ => false
  | .vcmprs _ => false
  | .vexpnd _ => false
  | .vredsumO _ => false
  | .vredsumT _ => false
  | .vredmax _ => false
  | .vredmin _ => false
  | .vcvt _ => false
  | .vretag _ => false
  | .vscale _ => false
  | .vqnt _ => false
  | .vdeq _ => false
  | .tget _ => false
  | .tset _ => false
  | .latw _ => false
  | .latr _ => false
  | .cbload _ => false
  | .mzero _ => false
  | .mma _ => false
  | .mmaG _ => false
  | .mmag _ => false
  | .mmagG _ => false
  | .mst _ => false
  | .mldacc _ => false
  | .macc _ => false
  | .madd _ => false
  | .mwait _ => false
  | .mstat _ => false
  | .syscall _ => false
  | .bkpt _ => false
  | .eret _ => false
  | .wfe _ => false
  | .tlbinv _ => false
  | .sealfree _ => false
  | .loadDataArrival _ _ _ => true
  | .gatherComplete _ _ => true
  | .scatterElementApply _ _ => true
  | .maccRowWrite _ _ => true
  | .cbloadComplete _ _ => true
  | .streamSlotLine _ _ => true
  | .stqHomeWrite _ => true
  | .appendLineWrite _ => true
  | .copyBeatGroup _ => true
  | .matrixKStep _ _ => true
  | .engineMzero _ => true
  | .engineMst _ => true
  | .engineMldacc _ => true
  | .engineMadd _ => true
  | .engineFaultDelivery _ _ => true
  | .faultRecordWrite _ => true
  | .violationRecordWrite => true
  | .frespRetry _ _ => true
  | .frespAbort _ _ => true
  | .frzrespResume _ => true
  | .frzrespTrap _ => true
  | .frzrespDiscard _ => true
  | .queueCycle _ => true
  | .wfeTimeout _ _ => true
  | .memberArrival _ => true
  | .coreWorkEnd _ => true
  | .porterEvaluation _ => true
  | .agePriorityChange _ _ => true
  | .headReserving _ _ => true
  | .lqpost _ _ _ _ => true
  | .lqctlWrite _ _ _ => true
  | .lqstatWrite _ _ _ => true
  | .fullerRecordTake _ _ => true
  | .fullerLineRecode _ _ => true
  | .granuleCreditGrant _ => true
  | .replicaShootdownDone _ _ => true
  | .slotStop => true
  | .contextSave _ => true
  | .contextClear _ => true
  | .slotRestore => true
  | .ttctlCommit _ => true
  | .timetableValidation => true
  | .guestEnable _ => true
  | .guestDisable _ => true
  | .gbaseGboundWrite _ _ _ => true
  | .coalescePeriodEnd _ => true
  | .pmovhiRead _ => true
  | .dbgdataWrite _ => true
  | .dbgdataRead => true
  | .dataApertureAccess _ _ => true
  | .tagApertureAccess _ _ => true
  | .hdmAccess _ => true
  | .peerRequest _ => true
  | .flitReceive _ _ => true
  | .llcBankRetire _ _ _ => true
  | .hbmRowRemap _ _ _ _ => true
  | .linkNarrow _ _ => true
  | .mctpRequest _ => true
  | .pwrctlWrite _ => true
  | .powerOn => true
  | .powerOff => true
  | .mcctlLoad _ => true
  | .microcodeLoadDone => true
  | .hbmTrain _ => true
  | .linkTrain _ _ => true
  | .selfTest _ _ _ _ => true
  | .retirementStateWrite _ _ => true
  | .mschedWrite _ _ _ => true
  | .registerWrite _ _ _ => true
  | .homeAnswer _ => true
  | .writeEntersView _ _ _ => true
  | .arithmeticClockCycle _ => true
  | .hostLinkTrain _ _ => true
  | .thermalLimiting _ _ => true

/-- The second word of CPYM is a matrix instruction that R45 accepts; every other instruction passes. -/
def secondOk : Instr → Bool
  | .add _ => true
  | .sub _ => true
  | .mul _ => true
  | .mulh _ => true
  | .mulhs _ => true
  | .div _ => true
  | .divs _ => true
  | .rem _ => true
  | .rems _ => true
  | .andr _ => true
  | .orr _ => true
  | .xorr _ => true
  | .andn _ => true
  | .orn _ => true
  | .shl _ => true
  | .shr _ => true
  | .sra _ => true
  | .rol _ => true
  | .min _ => true
  | .max _ => true
  | .mins _ => true
  | .maxs _ => true
  | .clz _ => true
  | .ctz _ => true
  | .popc _ => true
  | .sext _ => true
  | .zext _ => true
  | .bfx _ => true
  | .bfi _ => true
  | .mov _ => true
  | .sel _ => true
  | .addx _ => true
  | .addi _ => true
  | .li _ => true
  | .liw _ => true
  | .cmp _ _ => true
  | .cmpi _ _ => true
  | .pand _ => true
  | .por _ => true
  | .pxor _ => true
  | .pnot _ => true
  | .pmov _ => true
  | .br _ => true
  | .jmp _ => true
  | .call _ => true
  | .ret _ => true
  | .loop _ => true
  | .rdv _ => true
  | .endj _ => true
  | .nop _ => true
  | .csrr _ => true
  | .csrw _ => true
  | .csrs _ => true
  | .csrc _ => true
  | .ld _ _ => true
  | .st _ _ => true
  | .lds _ _ => true
  | .sts _ _ => true
  | .ldq _ => true
  | .ldqi _ => true
  | .ldsq _ => true
  | .stq _ => true
  | .stsq _ => true
  | .prf _ => true
  | .cpy _ => true
  | .cpym f => chainedOk f.imm64
  | .apd _ => true
  | .apdRel _ => true
  | .seal _ => true
  | .qreset _ => true
  | .amoadd _ => true
  | .amomin _ => true
  | .amomax _ => true
  | .amoand _ => true
  | .amoor _ => true
  | .amoxor _ => true
  | .amoswp _ => true
  | .amocas _ => true
  | .amofadd _ => true
  | .fence _ => true
  | .phase _ => true
  | .phaseSplit _ => true
  | .phaseJoin _ => true
  | .bara _ => true
  | .barw _ => true
  | .bar _ => true
  | .waitseqC _ => true
  | .waitseqM _ => true
  | .launch _ => true
  | .donate _ => true
  | .setvl _ => true
  | .vlds _ => true
  | .vsts _ => true
  | .vpop _ => true
  | .vpush _ => true
  | .vgathc _ => true
  | .vscatc _ => true
  | .vadd _ => true
  | .vsub _ => true
  | .vmul _ => true
  | .vdiv _ => true
  | .vmin _ => true
  | .vmax _ => true
  | .vfma _ => true
  | .vfms _ => true
  | .vfnma _ => true
  | .vabs _ => true
  | .vneg _ => true
  | .vsqrt _ => true
  | .vrcpe _ => true
  | .vrsqrte _ => true
  | .vexp2 _ => true
  | .vlog2 _ => true
  | .vcmp _ _ => true
  | .vpopc _ => true
  | .vsel _ => true
  | .vmov _ => true
  | .vbcast _ => true
  | .vins _ => true
  | .vext _ => true
  | .vid _ => true
  | .viadd _ => true
  | .visub _ => true
  | .vimul _ => true
  | .viand _ => true
  | .vior _ => true
  | .vixor _ => true
  | .vishl _ => true
  | .vishr _ => true
  | .vslide1up _ => true
  | .vslide1dn _ => true
  | .vslideup _ => true
  | .vslidedn _ => true
  | .vperm _ => true
  | .vcmprs _ => true
  | .vexpnd _ => true
  | .vredsumO _ => true
  | .vredsumT _ => true
  | .vredmax _ => true
  | .vredmin _ => true
  | .vcvt _ => true
  | .vretag _ => true
  | .vscale _ => true
  | .vqnt _ => true
  | .vdeq _ => true
  | .tget _ => true
  | .tset _ => true
  | .latw _ => true
  | .latr _ => true
  | .cbload _ => true
  | .mzero _ => true
  | .mma _ => true
  | .mmaG _ => true
  | .mmag _ => true
  | .mmagG _ => true
  | .mst _ => true
  | .mldacc _ => true
  | .macc _ => true
  | .madd _ => true
  | .mwait _ => true
  | .mstat _ => true
  | .syscall _ => true
  | .bkpt _ => true
  | .eret _ => true
  | .wfe _ => true
  | .tlbinv _ => true
  | .sealfree _ => true
  | .loadDataArrival _ _ _ => true
  | .gatherComplete _ _ => true
  | .scatterElementApply _ _ => true
  | .maccRowWrite _ _ => true
  | .cbloadComplete _ _ => true
  | .streamSlotLine _ _ => true
  | .stqHomeWrite _ => true
  | .appendLineWrite _ => true
  | .copyBeatGroup _ => true
  | .matrixKStep _ _ => true
  | .engineMzero _ => true
  | .engineMst _ => true
  | .engineMldacc _ => true
  | .engineMadd _ => true
  | .engineFaultDelivery _ _ => true
  | .faultRecordWrite _ => true
  | .violationRecordWrite => true
  | .frespRetry _ _ => true
  | .frespAbort _ _ => true
  | .frzrespResume _ => true
  | .frzrespTrap _ => true
  | .frzrespDiscard _ => true
  | .queueCycle _ => true
  | .wfeTimeout _ _ => true
  | .memberArrival _ => true
  | .coreWorkEnd _ => true
  | .porterEvaluation _ => true
  | .agePriorityChange _ _ => true
  | .headReserving _ _ => true
  | .lqpost _ _ _ _ => true
  | .lqctlWrite _ _ _ => true
  | .lqstatWrite _ _ _ => true
  | .fullerRecordTake _ _ => true
  | .fullerLineRecode _ _ => true
  | .granuleCreditGrant _ => true
  | .replicaShootdownDone _ _ => true
  | .slotStop => true
  | .contextSave _ => true
  | .contextClear _ => true
  | .slotRestore => true
  | .ttctlCommit _ => true
  | .timetableValidation => true
  | .guestEnable _ => true
  | .guestDisable _ => true
  | .gbaseGboundWrite _ _ _ => true
  | .coalescePeriodEnd _ => true
  | .pmovhiRead _ => true
  | .dbgdataWrite _ => true
  | .dbgdataRead => true
  | .dataApertureAccess _ _ => true
  | .tagApertureAccess _ _ => true
  | .hdmAccess _ => true
  | .peerRequest _ => true
  | .flitReceive _ _ => true
  | .llcBankRetire _ _ _ => true
  | .hbmRowRemap _ _ _ _ => true
  | .linkNarrow _ _ => true
  | .mctpRequest _ => true
  | .pwrctlWrite _ => true
  | .powerOn => true
  | .powerOff => true
  | .mcctlLoad _ => true
  | .microcodeLoadDone => true
  | .hbmTrain _ => true
  | .linkTrain _ _ => true
  | .selfTest _ _ _ _ => true
  | .retirementStateWrite _ _ => true
  | .mschedWrite _ _ _ => true
  | .registerWrite _ _ _ => true
  | .homeAnswer _ => true
  | .writeEntersView _ _ _ => true
  | .arithmeticClockCycle _ => true
  | .hostLinkTrain _ _ => true
  | .thermalLimiting _ _ => true

/-- A well-formed instruction: a word that some stream of its class may execute past step 4 of R47. -/
def Instr.WellFormed (i : Instr) : Bool :=
  secondOk i &&
    ((streamClass i).admits .a && fieldsOk .a i || (streamClass i).admits .x && fieldsOk .x i)

end Sys2Proof
end

