-- ==== Sys2Proof/Decode.lean ====
section
/-! DEFINITION. Decode.lean: from the bytes of an instruction to the instruction (R42), and back.

The decoder makes step 1 of R47 alone: OP and X name an instruction. Every other check comes after the
predicate and belongs to the instruction (Machine/Ops.lean). -/

namespace Sys2Proof

/-- Why bytes are no instruction: OP and X name none (R47 step 1), or there are too few bytes. -/
inductive DecodeError where
  /-- OP and X name no instruction under R42; the machine traps ILLEGAL. -/
  | namesNoInstruction (op x : Nat)
  /-- Fewer bytes than the instruction has. -/
  | tooShort
deriving DecidableEq, Repr

/-- Does OP belong to a form of two words: LIW, the branches, CPYM (R32, R42)? -/
def opIsLong (op : Nat) : Bool := op == 0x0D || op == 0x10 || op == 0x3B

/-- The instruction that OP and X name, with its fields, or none (R42). -/
def decodeOp (op x : Nat) (w w2 : Word) : Option Instr :=
  match op with
  | 0x01 => match x with
    | 0 => some (.add (RForm.ofWord w))
    | 1 => some (.sub (RForm.ofWord w))
    | 2 => some (.mul (RForm.ofWord w))
    | 3 => some (.mulh (RForm.ofWord w))
    | 4 => some (.mulhs (RForm.ofWord w))
    | _ => none
  | 0x02 => match x with
    | 0 => some (.div (RForm.ofWord w))
    | 1 => some (.divs (RForm.ofWord w))
    | 2 => some (.rem (RForm.ofWord w))
    | 3 => some (.rems (RForm.ofWord w))
    | _ => none
  | 0x03 => match x with
    | 0 => some (.andr (RForm.ofWord w))
    | 1 => some (.orr (RForm.ofWord w))
    | 2 => some (.xorr (RForm.ofWord w))
    | 3 => some (.andn (RForm.ofWord w))
    | 4 => some (.orn (RForm.ofWord w))
    | _ => none
  | 0x04 => match x with
    | 0 => some (.shl (RForm.ofWord w))
    | 1 => some (.shr (RForm.ofWord w))
    | 2 => some (.sra (RForm.ofWord w))
    | 3 => some (.rol (RForm.ofWord w))
    | _ => none
  | 0x05 => match x with
    | 0 => some (.min (RForm.ofWord w))
    | 1 => some (.max (RForm.ofWord w))
    | 2 => some (.mins (RForm.ofWord w))
    | 3 => some (.maxs (RForm.ofWord w))
    | _ => none
  | 0x06 => match x with
    | 0 => some (.clz (RForm.ofWord w))
    | 1 => some (.ctz (RForm.ofWord w))
    | 2 => some (.popc (RForm.ofWord w))
    | 3 => some (.sext (RForm.ofWord w))
    | 4 => some (.zext (RForm.ofWord w))
    | _ => none
  | 0x07 => match x with
    | 0 => some (.bfx (RForm.ofWord w))
    | 1 => some (.bfi (RForm.ofWord w))
    | _ => none
  | 0x08 => match x with
    | 0 => some (.mov (RForm.ofWord w))
    | 1 => some (.sel (RForm.ofWord w))
    | 2 => some (.addx (RForm.ofWord w))
    | _ => none
  | 0x9 => (Cc.ofX x).map fun k => .cmp k (RForm.ofWord w)
  | 0x0A => match x with
    | 0 => some (.addi (IForm.ofWord w))
    | _ => none
  | 0xB => (Cc.ofX x).map fun k => .cmpi k (IForm.ofWord w)
  | 0x0C => match x with
    | 0 => some (.li (IForm.ofWord w))
    | _ => none
  | 0x0D => match x with
    | 0 => some (.liw (LForm.ofWords w w2))
    | _ => none
  | 0x0E => match x with
    | 0 => some (.pand (RForm.ofWord w))
    | 1 => some (.por (RForm.ofWord w))
    | 2 => some (.pxor (RForm.ofWord w))
    | 3 => some (.pnot (RForm.ofWord w))
    | 4 => some (.pmov (RForm.ofWord w))
    | _ => none
  | 0x10 => match x with
    | 0 => some (.br (JForm.ofWords w w2))
    | 1 => some (.jmp (JForm.ofWords w w2))
    | 2 => some (.call (JForm.ofWords w w2))
    | 3 => some (.ret (JForm.ofWords w w2))
    | 4 => some (.loop (JForm.ofWords w w2))
    | _ => none
  | 0x11 => match x with
    | 0 => some (.rdv (RForm.ofWord w))
    | 1 => some (.endj (RForm.ofWord w))
    | 2 => some (.nop (RForm.ofWord w))
    | _ => none
  | 0x12 => match x with
    | 0 => some (.csrr (IForm.ofWord w))
    | 1 => some (.csrw (IForm.ofWord w))
    | 2 => some (.csrs (IForm.ofWord w))
    | 3 => some (.csrc (IForm.ofWord w))
    | _ => none
  | 0x30 => (LdSize.ofX x).map fun k => .ld k (MForm.ofWord w)
  | 0x31 => (StSize.ofX x).map fun k => .st k (MForm.ofWord w)
  | 0x32 => (LdSize.ofX x).map fun k => .lds k (MForm.ofWord w)
  | 0x33 => (StSize.ofX x).map fun k => .sts k (MForm.ofWord w)
  | 0x34 => match x with
    | 0 => some (.ldq (MForm.ofWord w))
    | _ => none
  | 0x35 => match x with
    | 0 => some (.ldqi (MForm.ofWord w))
    | _ => none
  | 0x36 => match x with
    | 0 => some (.stq (MForm.ofWord w))
    | _ => none
  | 0x37 => match x with
    | 0 => some (.ldsq (MForm.ofWord w))
    | _ => none
  | 0x38 => match x with
    | 0 => some (.stsq (MForm.ofWord w))
    | _ => none
  | 0x39 => match x with
    | 0 => some (.prf (MForm.ofWord w))
    | _ => none
  | 0x3A => match x with
    | 0 => some (.cpy (RForm.ofWord w))
    | _ => none
  | 0x3B => match x with
    | 0 => some (.cpym (LForm.ofWords w w2))
    | _ => none
  | 0x3C => match x with
    | 0 => some (.apd (MForm.ofWord w))
    | 1 => some (.apdRel (MForm.ofWord w))
    | _ => none
  | 0x3D => match x with
    | 0 => some (.seal (RForm.ofWord w))
    | _ => none
  | 0x3E => match x with
    | 0 => some (.qreset (RForm.ofWord w))
    | _ => none
  | 0x50 => match x with
    | 0 => some (.amoadd (MForm.ofWord w))
    | 1 => some (.amomin (MForm.ofWord w))
    | 2 => some (.amomax (MForm.ofWord w))
    | 3 => some (.amoand (MForm.ofWord w))
    | 4 => some (.amoor (MForm.ofWord w))
    | 5 => some (.amoxor (MForm.ofWord w))
    | 6 => some (.amoswp (MForm.ofWord w))
    | _ => none
  | 0x51 => match x with
    | 0 => some (.amocas (MForm.ofWord w))
    | _ => none
  | 0x52 => match x with
    | 0 => some (.amofadd (MForm.ofWord w))
    | _ => none
  | 0x53 => match x with
    | 0 => some (.fence (RForm.ofWord w))
    | _ => none
  | 0x54 => match x with
    | 0 => some (.phase (IForm.ofWord w))
    | 1 => some (.phaseSplit (IForm.ofWord w))
    | 2 => some (.phaseJoin (IForm.ofWord w))
    | _ => none
  | 0x55 => match x with
    | 0 => some (.bara (IForm.ofWord w))
    | 1 => some (.barw (IForm.ofWord w))
    | 2 => some (.bar (IForm.ofWord w))
    | _ => none
  | 0x56 => match x with
    | 0 => some (.waitseqC (IForm.ofWord w))
    | 1 => some (.waitseqM (IForm.ofWord w))
    | _ => none
  | 0x57 => match x with
    | 0 => some (.launch (RForm.ofWord w))
    | _ => none
  | 0x58 => match x with
    | 0 => some (.donate (RForm.ofWord w))
    | _ => none
  | 0x60 => match x with
    | 0 => some (.setvl (IForm.ofWord w))
    | _ => none
  | 0x61 => match x with
    | 0 => some (.vlds (MForm.ofWord w))
    | _ => none
  | 0x62 => match x with
    | 0 => some (.vsts (MForm.ofWord w))
    | _ => none
  | 0x63 => match x with
    | 0 => some (.vpop (RForm.ofWord w))
    | 1 => some (.vpush (RForm.ofWord w))
    | _ => none
  | 0x64 => match x with
    | 0 => some (.vgathc (RForm.ofWord w))
    | 1 => some (.vscatc (RForm.ofWord w))
    | _ => none
  | 0x65 => match x with
    | 0 => some (.vadd (RForm.ofWord w))
    | 1 => some (.vsub (RForm.ofWord w))
    | 2 => some (.vmul (RForm.ofWord w))
    | 3 => some (.vdiv (RForm.ofWord w))
    | 4 => some (.vmin (RForm.ofWord w))
    | 5 => some (.vmax (RForm.ofWord w))
    | _ => none
  | 0x66 => match x with
    | 0 => some (.vfma (RForm.ofWord w))
    | 1 => some (.vfms (RForm.ofWord w))
    | 2 => some (.vfnma (RForm.ofWord w))
    | _ => none
  | 0x67 => match x with
    | 0 => some (.vabs (RForm.ofWord w))
    | 1 => some (.vneg (RForm.ofWord w))
    | 2 => some (.vsqrt (RForm.ofWord w))
    | 3 => some (.vrcpe (RForm.ofWord w))
    | 4 => some (.vrsqrte (RForm.ofWord w))
    | 5 => some (.vexp2 (RForm.ofWord w))
    | 6 => some (.vlog2 (RForm.ofWord w))
    | _ => none
  | 0x68 => (VCc.ofX x).map fun k => .vcmp k (RForm.ofWord w)
  | 0x69 => match x with
    | 0 => some (.vsel (RForm.ofWord w))
    | 1 => some (.vmov (RForm.ofWord w))
    | 2 => some (.vbcast (RForm.ofWord w))
    | 3 => some (.vins (RForm.ofWord w))
    | 4 => some (.vext (RForm.ofWord w))
    | 5 => some (.vid (RForm.ofWord w))
    | _ => none
  | 0x6A => match x with
    | 0 => some (.vslide1up (RForm.ofWord w))
    | 1 => some (.vslide1dn (RForm.ofWord w))
    | 2 => some (.vslideup (RForm.ofWord w))
    | 3 => some (.vslidedn (RForm.ofWord w))
    | _ => none
  | 0x6B => match x with
    | 0 => some (.vperm (RForm.ofWord w))
    | 1 => some (.vcmprs (RForm.ofWord w))
    | 2 => some (.vexpnd (RForm.ofWord w))
    | _ => none
  | 0x6C => match x with
    | 0 => some (.vredsumO (RForm.ofWord w))
    | 1 => some (.vredsumT (RForm.ofWord w))
    | 2 => some (.vredmax (RForm.ofWord w))
    | 3 => some (.vredmin (RForm.ofWord w))
    | _ => none
  | 0x6D => match x with
    | 0 => some (.viadd (RForm.ofWord w))
    | 1 => some (.visub (RForm.ofWord w))
    | 2 => some (.vimul (RForm.ofWord w))
    | 3 => some (.viand (RForm.ofWord w))
    | 4 => some (.vior (RForm.ofWord w))
    | 5 => some (.vixor (RForm.ofWord w))
    | 6 => some (.vishl (RForm.ofWord w))
    | 7 => some (.vishr (RForm.ofWord w))
    | _ => none
  | 0x6E => match x with
    | 0 => some (.vcvt (RForm.ofWord w))
    | 1 => some (.vretag (RForm.ofWord w))
    | 2 => some (.vscale (RForm.ofWord w))
    | 3 => some (.vqnt (RForm.ofWord w))
    | 4 => some (.vdeq (RForm.ofWord w))
    | 5 => some (.vpopc (RForm.ofWord w))
    | _ => none
  | 0xA0 => match x with
    | 0 => some (.mzero (RForm.ofWord w))
    | _ => none
  | 0xA1 => match x with
    | 0 => some (.mma (RForm.ofWord w))
    | 1 => some (.mmaG (RForm.ofWord w))
    | _ => none
  | 0xA2 => match x with
    | 0 => some (.mmag (RForm.ofWord w))
    | 1 => some (.mmagG (RForm.ofWord w))
    | _ => none
  | 0xA3 => match x with
    | 0 => some (.mst (RForm.ofWord w))
    | _ => none
  | 0xA4 => match x with
    | 0 => some (.mldacc (RForm.ofWord w))
    | _ => none
  | 0xA5 => match x with
    | 0 => some (.macc (RForm.ofWord w))
    | _ => none
  | 0xA6 => match x with
    | 0 => some (.madd (RForm.ofWord w))
    | _ => none
  | 0xA7 => match x with
    | 0 => some (.mwait (RForm.ofWord w))
    | _ => none
  | 0xA8 => match x with
    | 0 => some (.mstat (RForm.ofWord w))
    | _ => none
  | 0xB0 => match x with
    | 0 => some (.tget (RForm.ofWord w))
    | 1 => some (.tset (RForm.ofWord w))
    | _ => none
  | 0xB1 => match x with
    | 0 => some (.latw (RForm.ofWord w))
    | 1 => some (.latr (RForm.ofWord w))
    | _ => none
  | 0xB2 => match x with
    | 0 => some (.cbload (RForm.ofWord w))
    | _ => none
  | 0xC0 => match x with
    | 0 => some (.syscall (IForm.ofWord w))
    | 1 => some (.bkpt (IForm.ofWord w))
    | 2 => some (.eret (IForm.ofWord w))
    | 3 => some (.wfe (IForm.ofWord w))
    | _ => none
  | 0xC1 => match x with
    | 0 => some (.tlbinv (RForm.ofWord w))
    | 1 => some (.sealfree (RForm.ofWord w))
    | _ => none
  | _ => none

/-- The instruction of a first word and the word after it; a one-word instruction ignores the second. -/
def decodeWords (w w2 : Word) : Option Instr := decodeOp (wordOp w) (wordX w) w w2

/-- Eight bytes, little-endian, as a word (R32). -/
def wordOfBytes : List Byte → Word
  | b0 :: b1 :: b2 :: b3 :: b4 :: b5 :: b6 :: b7 :: _ => b7 ++ b6 ++ b5 ++ b4 ++ b3 ++ b2 ++ b1 ++ b0
  | _ => 0

/-- A word as eight bytes, little-endian (R32). -/
def bytesOfWord (w : Word) : List Byte :=
  [w.extractLsb' 0 8, w.extractLsb' 8 8, w.extractLsb' 16 8, w.extractLsb' 24 8,
   w.extractLsb' 32 8, w.extractLsb' 40 8, w.extractLsb' 48 8, w.extractLsb' 56 8]

/-- The decoder: the instruction at the head of a list of bytes, and the bytes after it. -/
def decode (bs : List Byte) : Except DecodeError (Instr × List Byte) :=
  if bs.length < 8 then .error .tooShort
  else
    let w := wordOfBytes bs
    let rest := bs.drop 8
    if opIsLong (wordOp w) then
      match decodeWords w (wordOfBytes rest) with
      | none => .error (.namesNoInstruction (wordOp w) (wordX w))
      | some i => if rest.length < 8 then .error .tooShort else .ok (i, rest.drop 8)
    else
      match decodeWords w 0 with
      | none => .error (.namesNoInstruction (wordOp w) (wordX w))
      | some i => .ok (i, rest)

/-- The words of an instruction (R33 to R45); an event has none. -/
def encode : Instr → List Word
  | .add f => [f.toWord 0x01 0]
  | .sub f => [f.toWord 0x01 1]
  | .mul f => [f.toWord 0x01 2]
  | .mulh f => [f.toWord 0x01 3]
  | .mulhs f => [f.toWord 0x01 4]
  | .div f => [f.toWord 0x02 0]
  | .divs f => [f.toWord 0x02 1]
  | .rem f => [f.toWord 0x02 2]
  | .rems f => [f.toWord 0x02 3]
  | .andr f => [f.toWord 0x03 0]
  | .orr f => [f.toWord 0x03 1]
  | .xorr f => [f.toWord 0x03 2]
  | .andn f => [f.toWord 0x03 3]
  | .orn f => [f.toWord 0x03 4]
  | .shl f => [f.toWord 0x04 0]
  | .shr f => [f.toWord 0x04 1]
  | .sra f => [f.toWord 0x04 2]
  | .rol f => [f.toWord 0x04 3]
  | .min f => [f.toWord 0x05 0]
  | .max f => [f.toWord 0x05 1]
  | .mins f => [f.toWord 0x05 2]
  | .maxs f => [f.toWord 0x05 3]
  | .clz f => [f.toWord 0x06 0]
  | .ctz f => [f.toWord 0x06 1]
  | .popc f => [f.toWord 0x06 2]
  | .sext f => [f.toWord 0x06 3]
  | .zext f => [f.toWord 0x06 4]
  | .bfx f => [f.toWord 0x07 0]
  | .bfi f => [f.toWord 0x07 1]
  | .mov f => [f.toWord 0x08 0]
  | .sel f => [f.toWord 0x08 1]
  | .addx f => [f.toWord 0x08 2]
  | .addi f => [f.toWord 0x0A 0]
  | .li f => [f.toWord 0x0C 0]
  | .liw f => [f.toWord 0x0D 0, f.imm64]
  | .cmp k f => [f.toWord 0x09 k.x]
  | .cmpi k f => [f.toWord 0x0B k.x]
  | .pand f => [f.toWord 0x0E 0]
  | .por f => [f.toWord 0x0E 1]
  | .pxor f => [f.toWord 0x0E 2]
  | .pnot f => [f.toWord 0x0E 3]
  | .pmov f => [f.toWord 0x0E 4]
  | .br f => [f.toWord 0x10 0, f.toWord2]
  | .jmp f => [f.toWord 0x10 1, f.toWord2]
  | .call f => [f.toWord 0x10 2, f.toWord2]
  | .ret f => [f.toWord 0x10 3, f.toWord2]
  | .loop f => [f.toWord 0x10 4, f.toWord2]
  | .rdv f => [f.toWord 0x11 0]
  | .endj f => [f.toWord 0x11 1]
  | .nop f => [f.toWord 0x11 2]
  | .csrr f => [f.toWord 0x12 0]
  | .csrw f => [f.toWord 0x12 1]
  | .csrs f => [f.toWord 0x12 2]
  | .csrc f => [f.toWord 0x12 3]
  | .ld k f => [f.toWord 0x30 k.x]
  | .st k f => [f.toWord 0x31 k.x]
  | .lds k f => [f.toWord 0x32 k.x]
  | .sts k f => [f.toWord 0x33 k.x]
  | .ldq f => [f.toWord 0x34 0]
  | .ldqi f => [f.toWord 0x35 0]
  | .ldsq f => [f.toWord 0x37 0]
  | .stq f => [f.toWord 0x36 0]
  | .stsq f => [f.toWord 0x38 0]
  | .prf f => [f.toWord 0x39 0]
  | .cpy f => [f.toWord 0x3A 0]
  | .cpym f => [f.toWord 0x3B 0, f.imm64]
  | .apd f => [f.toWord 0x3C 0]
  | .apdRel f => [f.toWord 0x3C 1]
  | .seal f => [f.toWord 0x3D 0]
  | .qreset f => [f.toWord 0x3E 0]
  | .amoadd f => [f.toWord 0x50 0]
  | .amomin f => [f.toWord 0x50 1]
  | .amomax f => [f.toWord 0x50 2]
  | .amoand f => [f.toWord 0x50 3]
  | .amoor f => [f.toWord 0x50 4]
  | .amoxor f => [f.toWord 0x50 5]
  | .amoswp f => [f.toWord 0x50 6]
  | .amocas f => [f.toWord 0x51 0]
  | .amofadd f => [f.toWord 0x52 0]
  | .fence f => [f.toWord 0x53 0]
  | .phase f => [f.toWord 0x54 0]
  | .phaseSplit f => [f.toWord 0x54 1]
  | .phaseJoin f => [f.toWord 0x54 2]
  | .bara f => [f.toWord 0x55 0]
  | .barw f => [f.toWord 0x55 1]
  | .bar f => [f.toWord 0x55 2]
  | .waitseqC f => [f.toWord 0x56 0]
  | .waitseqM f => [f.toWord 0x56 1]
  | .launch f => [f.toWord 0x57 0]
  | .donate f => [f.toWord 0x58 0]
  | .setvl f => [f.toWord 0x60 0]
  | .vlds f => [f.toWord 0x61 0]
  | .vsts f => [f.toWord 0x62 0]
  | .vpop f => [f.toWord 0x63 0]
  | .vpush f => [f.toWord 0x63 1]
  | .vgathc f => [f.toWord 0x64 0]
  | .vscatc f => [f.toWord 0x64 1]
  | .vadd f => [f.toWord 0x65 0]
  | .vsub f => [f.toWord 0x65 1]
  | .vmul f => [f.toWord 0x65 2]
  | .vdiv f => [f.toWord 0x65 3]
  | .vmin f => [f.toWord 0x65 4]
  | .vmax f => [f.toWord 0x65 5]
  | .vfma f => [f.toWord 0x66 0]
  | .vfms f => [f.toWord 0x66 1]
  | .vfnma f => [f.toWord 0x66 2]
  | .vabs f => [f.toWord 0x67 0]
  | .vneg f => [f.toWord 0x67 1]
  | .vsqrt f => [f.toWord 0x67 2]
  | .vrcpe f => [f.toWord 0x67 3]
  | .vrsqrte f => [f.toWord 0x67 4]
  | .vexp2 f => [f.toWord 0x67 5]
  | .vlog2 f => [f.toWord 0x67 6]
  | .vcmp k f => [f.toWord 0x68 k.x]
  | .vpopc f => [f.toWord 0x6E 5]
  | .vsel f => [f.toWord 0x69 0]
  | .vmov f => [f.toWord 0x69 1]
  | .vbcast f => [f.toWord 0x69 2]
  | .vins f => [f.toWord 0x69 3]
  | .vext f => [f.toWord 0x69 4]
  | .vid f => [f.toWord 0x69 5]
  | .viadd f => [f.toWord 0x6D 0]
  | .visub f => [f.toWord 0x6D 1]
  | .vimul f => [f.toWord 0x6D 2]
  | .viand f => [f.toWord 0x6D 3]
  | .vior f => [f.toWord 0x6D 4]
  | .vixor f => [f.toWord 0x6D 5]
  | .vishl f => [f.toWord 0x6D 6]
  | .vishr f => [f.toWord 0x6D 7]
  | .vslide1up f => [f.toWord 0x6A 0]
  | .vslide1dn f => [f.toWord 0x6A 1]
  | .vslideup f => [f.toWord 0x6A 2]
  | .vslidedn f => [f.toWord 0x6A 3]
  | .vperm f => [f.toWord 0x6B 0]
  | .vcmprs f => [f.toWord 0x6B 1]
  | .vexpnd f => [f.toWord 0x6B 2]
  | .vredsumO f => [f.toWord 0x6C 0]
  | .vredsumT f => [f.toWord 0x6C 1]
  | .vredmax f => [f.toWord 0x6C 2]
  | .vredmin f => [f.toWord 0x6C 3]
  | .vcvt f => [f.toWord 0x6E 0]
  | .vretag f => [f.toWord 0x6E 1]
  | .vscale f => [f.toWord 0x6E 2]
  | .vqnt f => [f.toWord 0x6E 3]
  | .vdeq f => [f.toWord 0x6E 4]
  | .tget f => [f.toWord 0xB0 0]
  | .tset f => [f.toWord 0xB0 1]
  | .latw f => [f.toWord 0xB1 0]
  | .latr f => [f.toWord 0xB1 1]
  | .cbload f => [f.toWord 0xB2 0]
  | .mzero f => [f.toWord 0xA0 0]
  | .mma f => [f.toWord 0xA1 0]
  | .mmaG f => [f.toWord 0xA1 1]
  | .mmag f => [f.toWord 0xA2 0]
  | .mmagG f => [f.toWord 0xA2 1]
  | .mst f => [f.toWord 0xA3 0]
  | .mldacc f => [f.toWord 0xA4 0]
  | .macc f => [f.toWord 0xA5 0]
  | .madd f => [f.toWord 0xA6 0]
  | .mwait f => [f.toWord 0xA7 0]
  | .mstat f => [f.toWord 0xA8 0]
  | .syscall f => [f.toWord 0xC0 0]
  | .bkpt f => [f.toWord 0xC0 1]
  | .eret f => [f.toWord 0xC0 2]
  | .wfe f => [f.toWord 0xC0 3]
  | .tlbinv f => [f.toWord 0xC1 0]
  | .sealfree f => [f.toWord 0xC1 1]
  | .loadDataArrival _ _ _ => []
  | .gatherComplete _ _ => []
  | .scatterElementApply _ _ => []
  | .maccRowWrite _ _ => []
  | .cbloadComplete _ _ => []
  | .streamSlotLine _ _ => []
  | .stqHomeWrite _ => []
  | .appendLineWrite _ => []
  | .copyBeatGroup _ => []
  | .matrixKStep _ _ => []
  | .engineMzero _ => []
  | .engineMst _ => []
  | .engineMldacc _ => []
  | .engineMadd _ => []
  | .engineFaultDelivery _ _ => []
  | .faultRecordWrite _ => []
  | .violationRecordWrite => []
  | .frespRetry _ _ => []
  | .frespAbort _ _ => []
  | .frzrespResume _ => []
  | .frzrespTrap _ => []
  | .frzrespDiscard _ => []
  | .queueCycle _ => []
  | .wfeTimeout _ _ => []
  | .memberArrival _ => []
  | .coreWorkEnd _ => []
  | .porterEvaluation _ => []
  | .agePriorityChange _ _ => []
  | .headReserving _ _ => []
  | .lqpost _ _ _ _ => []
  | .lqctlWrite _ _ _ => []
  | .lqstatWrite _ _ _ => []
  | .fullerRecordTake _ _ => []
  | .fullerLineRecode _ _ => []
  | .granuleCreditGrant _ => []
  | .replicaShootdownDone _ _ => []
  | .slotStop => []
  | .contextSave _ => []
  | .contextClear _ => []
  | .slotRestore => []
  | .ttctlCommit _ => []
  | .timetableValidation => []
  | .guestEnable _ => []
  | .guestDisable _ => []
  | .gbaseGboundWrite _ _ _ => []
  | .coalescePeriodEnd _ => []
  | .pmovhiRead _ => []
  | .dbgdataWrite _ => []
  | .dbgdataRead => []
  | .dataApertureAccess _ _ => []
  | .tagApertureAccess _ _ => []
  | .hdmAccess _ => []
  | .peerRequest _ => []
  | .flitReceive _ _ => []
  | .llcBankRetire _ _ _ => []
  | .hbmRowRemap _ _ _ _ => []
  | .linkNarrow _ _ => []
  | .mctpRequest _ => []
  | .pwrctlWrite _ => []
  | .powerOn => []
  | .powerOff => []
  | .mcctlLoad _ => []
  | .microcodeLoadDone => []
  | .hbmTrain _ => []
  | .linkTrain _ _ => []
  | .selfTest _ _ _ _ => []
  | .retirementStateWrite _ _ => []
  | .mschedWrite _ _ _ => []
  | .registerWrite _ _ _ => []
  | .homeAnswer _ => []
  | .writeEntersView _ _ _ => []
  | .arithmeticClockCycle _ => []
  | .hostLinkTrain _ _ => []
  | .thermalLimiting _ _ => []

/-- The bytes of an instruction. -/
def encodeBytes (i : Instr) : List Byte := (encode i).flatMap bytesOfWord

/-- The first word of an instruction; an event has none and reads 0. -/
def firstWord (i : Instr) : Word := (encode i).headD 0

/-- Bytes of an instruction: 8, or 16 for forms L and J (R32). -/
def instrBytes (i : Instr) : Nat := 8 * (encode i).length

/-- The instruction that the decoder reads from a word whose bits are `w`, the second word being bits
127 to 64. -/
def decodeTableWord (nbits w : Nat) : Option Instr :=
  let v := w % 2 ^ nbits
  match decode (bytesOfWord (BitVec.ofNat 64 v) ++ bytesOfWord (BitVec.ofNat 64 (v / 2 ^ 64))) with
  | .ok (i, _) => some i
  | .error _ => none

end Sys2Proof
end

