-- ==== Sys2Proof/Machine/Bits.lean ====
section
/-! DEFINITION. Machine/Bits.lean: bit fields of words, lines and tags, and the bytes of a line. -/

namespace Sys2Proof.Machine

/-- The field of `n` bits from bit `lo` of a 64-bit register. -/
def fld (w : Word) (lo n : Nat) : Nat := w.toNat / 2 ^ lo % 2 ^ n

/-- Replace the field of `n` bits from bit `lo`. -/
def setFld (w : Word) (lo n v : Nat) : Word :=
  BitVec.ofNat 64 (w.toNat - fld w lo n * 2 ^ lo + v % 2 ^ n * 2 ^ lo)

/-- Bit `i` of a register. -/
def bit (w : Word) (i : Nat) : Bool := w.getLsbD i

/-- A number as a bit. -/
def b2n (b : Bool) : Nat := if b then 1 else 0

/-- A 64-bit word of a number. -/
def word (n : Nat) : Word := BitVec.ofNat 64 n

/-- A word with bits `lo` to `lo + n − 1` set. -/
def maskFld (lo n : Nat) : Word := word ((2 ^ n - 1) * 2 ^ lo)

/-- FMT of a tag, bits [15:11] (R57). -/
def tagFmt (t : Tag) : Nat := t.toNat / 2048

/-- VCLASS of a tag, bits [10:8] (R57). -/
def tagClass (t : Tag) : Nat := t.toNat / 256 % 8

/-- SCALE or SLOT of a tag, bits [7:0] (R57). -/
def tagScale (t : Tag) : Nat := t.toNat % 256

/-- A tag from its fields (R57). -/
def mkTag (fmt cls scale : Nat) : Tag := BitVec.ofNat 16 (fmt * 2048 + cls % 8 * 256 + scale % 256)

/-- `n` bytes of a line from byte `o`, little-endian. -/
def lineBytes (l : LineBits) (o n : Nat) : Nat := l.toNat / 2 ^ (8 * o) % 2 ^ (8 * n)

/-- The first 8 bytes of a line as a word (R25). -/
def lineWord (l : LineBits) (o : Nat) : Word := word (lineBytes l o 8)

/-- A line of which bytes `o` to `o + n − 1` are replaced. -/
def setLineBytes (l : LineBits) (o n v : Nat) : LineBits :=
  BitVec.ofNat 512 (l.toNat - lineBytes l o n * 2 ^ (8 * o) + v % 2 ^ (8 * n) * 2 ^ (8 * o))

/-- The byte mask of `n` bytes from byte `o` of a line. -/
def byteMask (o n : Nat) : BitVec 64 := BitVec.ofNat 64 ((2 ^ n - 1) * 2 ^ o)

/-- All 64 bytes. -/
def allBytes : BitVec 64 := BitVec.allOnes 64

/-- The bit mask of a byte mask, from byte `i` up over `n` bytes. -/
def spreadFrom (m : BitVec 64) : Nat → Nat → Nat
  | _, 0 => 0
  | i, n + 1 => (if m.getLsbD i then 0xFF * 2 ^ (8 * i) else 0) + spreadFrom m (i + 1) n

/-- The bits of a line that a byte mask covers. -/
def spreadMask (m : BitVec 64) : LineBits :=
  if m = allBytes then BitVec.allOnes 512 else BitVec.ofNat 512 (spreadFrom m 0 64)

/-- Overwrite the bytes of a line that a mask names. -/
def mergeLine (old new : LineBits) (m : BitVec 64) : LineBits :=
  (old &&& ~~~(spreadMask m)) ||| (new &&& spreadMask m)

/-- The two's-complement value of the low `n` bits of a number. -/
def signedOf (n v : Nat) : Int := if v % 2 ^ n < 2 ^ (n - 1) then (v % 2 ^ n : Nat) else (v % 2 ^ n : Nat) - (2 ^ n : Nat)

/-- A displacement field sign-extended to 64 bits (R39). -/
def sext64 {n : Nat} (v : BitVec n) : Word := v.signExtend 64

end Sys2Proof.Machine
end

