-- ==== Sys2Proof/Machine/State.lean ====
section
/-! DEFINITION. Machine/State.lean: the state of the whole LN840 as plain data, and the machine after power-on reset.

Every piece of state is listed in INVENTORY.md under "State" with the rule that names it. A sparse table
(`Tab`) reads a default at an unlisted key; the accessor of each table names that default. -/

namespace Sys2Proof.Machine

/-- Memory: (address, byte) pairs in canonical form, addresses strictly rising and no byte 0; an unlisted
address reads as 0. -/
abbrev Memory := List Host.Cell

/-- A privilege level (R330). -/
inductive Level where
  | u | s
deriving DecidableEq, Repr

/-- The causes that TCAUSE can take (R350); NEVER_FITS is an admission cause only. -/
inductive Cause where
  | illegal | streamClass | emptyRead | tagPair | tagClass | tagWidth | tagFmt | tagMix | align | bound | page
  | append | sealed | residency | queueCycle | brk | step | syscall | lane | matrix | partner
deriving DecidableEq, Repr

/-- What raised a trap: TSTAT.SRC (R353). -/
inductive TrapSrc where
  | instr | matrixEngine | copyEngine | wayfarer | call | check
deriving DecidableEq, Repr

/-- Why a stream waits at an instruction (R311, R312). -/
inductive Wait where
  /-- A full/empty bit (R20, R21). -/
  | fullEmpty
  /-- An empty queue, or a full one (R20, R24): the operand code of the queue. -/
  | queue (code : Code) (full : Bool)
  /-- A scalar push behind an earlier stream to the queue (R235). -/
  | push (code : Code)
  /-- Pin entries (R210, R235): the entries wanted. -/
  | pins (entries : Nat)
  /-- RDV (R16, R112). -/
  | rdv
  /-- WAITSEQ of the copy or the matrix engine, with its target; counted when it exceeded CNEXT or MNEXT as the wait began (R292,
  R311). -/
  | waitseq (copy : Bool) (target : Word) (counted : Bool)
  /-- A phase instruction; counted while the other stream's phase instruction is missing (R285, R311). -/
  | phase (counted : Bool)
  /-- A named barrier (R290). -/
  | barrier
  /-- An engine: a full command queue, MWAIT, MACC's tile wait (R27, R196, R199). -/
  | engine
  /-- A free line request or stream slot (R232, R235). -/
  | resource
  /-- The home's answer: line ownership, an append grant, a seal (R231). -/
  | home
  /-- Granule credit (R218): granules wanted. -/
  | credit (granules : Nat)
  /-- A PENDING pattern-book slot (R74). -/
  | book
  /-- WFE (R366). -/
  | event
  /-- END waiting for register producers (R112). -/
  | producers
  /-- Writes to be performed or published: FENCE, a release (R259, R256). -/
  | writes
  /-- A full launch ring (R293). -/
  | ring
  /-- TLBINV waiting for pins (R367). -/
  | system
  /-- SEALFREE waiting for a shootdown (R368). -/
  | sealfree
deriving DecidableEq, Repr

/-- A wait with the first word of the waiting instruction (R311). -/
structure WaitRec where
  why : Wait
  word : Word
deriving DecidableEq, Repr

/-- An unanswered page fault of a stream (R222, R224): its record number; the answer held, when the driver has
given one: RETRY (false) or ABORT (true). -/
structure PFault where
  seq : Nat
  gva : Nat
  answer : Option Bool
deriving DecidableEq, Repr

/-- One instruction stream of a core (R17, R30). -/
structure Stream where
  /-- s1 to s63; s0 is never listed and reads 0 (R17). Default 0. -/
  s : Tab Word
  /-- Scalar registers whose full/empty bit is empty (R19). -/
  sEmpty : List Nat
  /-- p1 to p15; p0 reads true (R17). Default false. -/
  p : Tab Bool
  pc : Word
  level : Level
  ended : Bool
  tcause : BitVec 8
  tval : Word
  tpc : Word
  tstat : Word
  /-- CSR 0x310 to 0x31F: the Wayfarer registers (R345). Default 0. -/
  wayf : Tab Word
  /-- The WFE event flag (R366) and the cycles the WFE has waited. -/
  evf : Bool
  wfeCycles : Nat
  /-- RDVs retired, and whether the stream stands at an RDV it has reached (R112). -/
  rdvCount : Nat
  rdvHere : Bool
  /-- Phase instructions retired, and the one issued and not retired: X and IMM (R285, R286). -/
  phCount : Nat
  phIssued : Option (Nat × Nat)
  /-- The kind of the latest phase instruction that has retired (R286). -/
  phLast : Option (Nat × Nat)
  /-- The boundary of the issued phase instruction has completed; the TVAL of the PARTNER trap that follows its retirement,
  if one does (R285, R287). -/
  phDone : Option (Option Nat)
  /-- Frozen, with the violation record number (R336). -/
  frozen : Option Nat
  pfault : Option PFault
  wait : Option WaitRec
  /-- The BAR at the pc has arrived (R290). -/
  barArrived : Bool
  /-- A PARTNER trap awaiting delivery, with its TVAL (R287). -/
  partnerTrap : Option Nat
  /-- The instruction that retired last asks for a STEP trap (R346, R352). -/
  stepPending : Bool
  /-- The S handler entry in force since the placement or restore (R339). -/
  sentry : Word
  /-- The free-space manager's refusal of the credit the stream waits for (R218). -/
  creditRefused : Bool
  /-- The stream halted for HALTREQ, not for a match (R347). -/
  haltByReq : Bool
  /-- What pmc0 to pmc7 have counted of the waits of the CSR instruction that the stream stands at (R394). Default 0. -/
  csrOwn : Tab Nat
  /-- GPAs of the pages whose shootdown a SEALFREE of the stream has asked for and not seen done (R368). -/
  freeing : List Nat
deriving DecidableEq, Repr

/-- A segment of a vector register: 64 bytes and their tag (R17). -/
structure Segment where
  bits : LineBits
  tag : Tag
deriving DecidableEq, Repr

/-- A vector register (R17 to R19). Segments default to zeros under 0x0000 (R121). -/
structure VReg where
  segs : Tab Segment
  /-- Highest-written count in bytes (R18). -/
  count : Nat
  empty : Bool
  /-- Segments that fail their parity check when read (R356); set by the detection of an error. -/
  badParity : List Nat
deriving DecidableEq, Repr

/-- A tagged-queue entry, or a line with its span mark (R17, R141). -/
structure QEntry where
  bits : LineBits
  tag : Tag
  mark : Bool
deriving DecidableEq, Repr

/-- The kind of an accumulator tile (R169). -/
inductive TileKind where
  | none | fp32 | int32
deriving DecidableEq, Repr

/-- An accumulator tile: element (r, c) at key 128 r + c, default 0; poisoned granules by index 8 r + c / 16 (R372). -/
structure Tile where
  kind : TileKind
  elems : Tab (BitVec 32)
  poison : List Nat
deriving DecidableEq, Repr

/-- A pattern-book slot (R74, R161). -/
inductive BookState where
  | unloaded | pending | full
deriving DecidableEq, Repr

/-- A pattern-book slot: entry e is bits [16e + 15:16e]; the VCLASS of the line it was loaded from (R161). -/
structure BookSlot where
  state : BookState
  vclass : BitVec 3
  entries : BitVec 256
  /-- The class and the table that the CBLOAD which made the slot PENDING has read (R160). -/
  nextClass : BitVec 3
  nextEntries : BitVec 256
deriving DecidableEq, Repr

/-- A pinned or cached first-stage translation (R210, R361): the page's GVA, its GPA, its size in bytes, and the leaf. -/
structure Xlat where
  gva : Nat
  gpa : Nat
  size : Nat
  leaf : Word
deriving DecidableEq, Repr

/-- A stream slot of LDQ, LDQI or LDSQ (R235, R237). -/
structure StreamSlot where
  queue : Code
  /-- 0 LDQ, 1 LDQI, 2 LDSQ. -/
  kind : Nat
  /-- The instruction word. -/
  instr : Word
  base : Word
  /-- The stride of LDQ and LDSQ, or the index pointer of LDQI. -/
  step : Word
  count : Nat
  next : Nat
  /-- The indices of LDQI as read at issue. -/
  idx : List Nat
  pins : List Xlat
  /-- The acquire scope when the word carries OR = 1 (R256). -/
  acq : Option Scope
  /-- Lines read and not pushed yet, by number: a later access of the path to such a line waits for no push (R254). -/
  got : List (Nat × QEntry)
deriving DecidableEq, Repr

/-- Where a line lives: HBM by HPA, host memory, a peer's memory behind an aperture, a core's scratchpad. -/
inductive Space where
  | hbm | host | peer
  | sp (core : Nat)
deriving DecidableEq, Repr

/-- A line: its space and its number (address / 64). -/
structure Loc where
  space : Space
  line : Nat
deriving DecidableEq, Repr

/-- A register producer that has been issued and has not written its destination (R19). -/
inductive Producer where
  /-- LD: register, offset in the line, bytes, sign extension, the value read at issue, whether a later access of the
  A path has fixed it (R254), and the translation, the GVA and the line's place. -/
  | ld (reg : Nat) (off size : Nat) (signed : Bool) (value : Word) (fixed : Bool) (page : Xlat) (gva : Nat) (place : Loc)
  /-- VGATHC: register, (slot, core of the member unless its work has ended, scratchpad byte) of the active slots, W, VL,
  the tags and elements as read at issue, and whether a later access of the X path has fixed them (R145). -/
  | gather (reg : Nat) (elems : List (Nat × Option Nat × Nat)) (w vl : Nat) (got : List (Nat × Tag × Nat)) (fixed : Bool)
  /-- MACC: register and the eight segments of the tile row (R196). -/
  | macc (reg : Nat) (segs : List Segment)
  /-- VDEQ on a PENDING slot: register, slot, the codes of the active slots, and what the result needs (R159). -/
  | vdeq (reg slot : Nat) (codes : List (Nat × Nat)) (tov w vl : Nat) (rm : Nat) (fz : Bool)
deriving DecidableEq, Repr

/-- A scattered element on its way to a member's scratchpad (R149). -/
structure Scatter where
  member : Nat
  addr : Nat
  bytes : Nat
  value : Word
  tag : Tag
deriving DecidableEq, Repr

/-- An engine fault that halts an engine (R197, R243): cause, TVAL, whether the stream has taken it, whether it
waits for the driver as a POOL page fault (record number). -/
structure EngineHalt where
  cause : Cause
  tval : Word
  delivered : Bool
  pool : Option Nat
  /-- Halted on a share of an MMAG: the share's BAR (R198). -/
  share : Option Nat
  /-- The tile of the held command or of the faulted share (R199). -/
  tile : Nat
  /-- X has issued the command that ends the halt of a share before the fault has reached it (R198, R355). -/
  resumed : Bool
deriving DecidableEq, Repr

/-- A copy command (R241, R242): copy addresses, lines, sequence number, pins, the pc of the instruction. -/
structure CopyCmd where
  src : Word
  dst : Word
  lines : Nat
  seqn : Word
  pc : Word
  pins : List Xlat
deriving DecidableEq, Repr

/-- A matrix command or share (R190, R361). -/
structure MatCmd where
  /-- The instruction word. -/
  word : Word
  /-- The values of A, B and C. -/
  av : Word
  bv : Word
  cv : Word
  seqn : Word
  /-- For a share: the ganged command's number in the gang (`Gang.ganged`) and the leader's index at placement. -/
  share : Option (Nat × Nat)
  /-- The CSEQ value that a chained command waits for (R244). -/
  after : Option Word
  /-- The lattice as read at issue (R168). -/
  lattice : Tab (BitVec 16)
  started : Bool
  /-- The index vector as read at the K-step at which the command started (R170, R192). -/
  index : Option (List Nat)
  /-- The A line and the B line at which K-step STEP begins, while the command runs without a stop (R167). -/
  place : Option (Nat × Nat)
  /-- The flags of its K-steps, merged into FSTAT when it completes (R118, R192). -/
  flags : BitVec 6
  /-- A share that has ended in a fault and stays at the head of the queue (R197, R199). -/
  shareOver : Bool
deriving DecidableEq, Repr

/-- Named-barrier state of one member for one barrier (R289), with the arrival completions it has seen (R290). -/
structure Barrier where
  arr : BitVec 16
  done : BitVec 16
  stat : BitVec 8
  gens : BitVec 16
deriving DecidableEq, Repr

/-- The job a core runs (R300, R361): guest queue, sequence value, gang number, and the model's own count of the times that the
queue had been enabled, which tells it from a job of an earlier enabling (R297). -/
structure JobId where
  queue : Nat
  seq : Nat
  gnum : Nat
  epoch : Nat
deriving DecidableEq, Repr

/-- One level of PHASE.SPLIT: the parent's GSIZE and GIDX, and the sub-gang joined (R287). -/
structure Split where
  gsize : Nat
  gidx : Nat
  sub : Nat
deriving DecidableEq, Repr

/-- The placement of a member (R115, R300, R305). -/
structure Place where
  job : JobId
  argp : Word
  gidx : Nat
  gsize : Nat
  /-- The index the member had when the gang was placed. -/
  gidx0 : Nat
  splits : List Split
  spBytes : Nat
  tiles : Nat
deriving DecidableEq, Repr

/-- The phase arrival of a member (R255, R285): the boundary number it has arrived at and waits for, the kind (X,
IMM) of its phase instruction, and the writes it must see at completion. -/
structure Arrival where
  number : Nat
  kind : Nat × Nat
  seen : List Nat
deriving DecidableEq, Repr

/-- The X stream's vector state (R30). -/
structure Vec where
  v : Tab VReg
  vl : BitVec 11
  vtype : BitVec 5
  vstart : BitVec 11
  vrstate : Word
  fstat : BitVec 6
deriving DecidableEq, Repr

/-- The copy engine (R28, R29, R242). -/
structure CopyEngine where
  cnext : Word
  cseq : Word
  queue : List CopyCmd
  /-- Completed beat groups of the command at the head. -/
  prog : Nat
  halt : Option EngineHalt
  frozen : Option Nat
deriving DecidableEq, Repr

/-- The matrix engine (R28, R181, R197, R199). -/
structure MatrixEngine where
  mnext : Word
  mseq : Word
  queue : List MatCmd
  /-- MPROG.STEP, and a value written to it while a command runs, for the next one that starts (R182). -/
  step : BitVec 6
  stepNext : Option (BitVec 6)
  halt : Option EngineHalt
  /-- Commands completed out of order, by number. -/
  done : List Nat
  gdone : Bool
  gstatus : BitVec 8
  gbar : BitVec 4
  acc : Tab Tile
deriving DecidableEq, Repr

/-- The parts of a core that belong to the part and not to a context (R31, R115, R179, R378). -/
structure CoreUnits where
  vlcap : BitVec 11
  /-- Physical lane groups retired, one bit each (R381). -/
  lanesOut : BitVec 16
  /-- Logical lane groups. -/
  lanes : Nat
  /-- Block units retired, one bit each (R381). -/
  unitsOut : BitVec 7
  /-- A unit quarantined by R183. -/
  quarantined : Option Nat
  /-- Place of the next product in the unit order (R179). -/
  nextUnit : Nat
  /-- The tenant whose VLCAP stands, when the core has had one (R115). -/
  tenant : Option Nat
deriving DecidableEq, Repr

/-- The state of a core at slot edges (R322). IDLE is a core that runs no job, owned by a guest or by none; SAVE is passed
within the event that writes the context; a core in OVERRUN is in STOP or CLEAR past the edge, and TTOVR names it
(R326). -/
inductive CoreMode where
  | idle | run | stop | clear | hold
deriving DecidableEq, Repr

/-- Events of the current cycle for the counters (R343, R344): event, stream, level, number. -/
structure Tally where
  event : Nat
  strm : Option StreamId
  level : Level
  n : Nat
deriving DecidableEq, Repr

/-- A core (R30). -/
structure Core where
  mode : CoreMode
  /-- The guest that owns the core. -/
  guest : Option Nat
  place : Option Place
  a : Stream
  x : Stream
  vec : Vec
  q : Tab (List QEntry)
  copy : CopyEngine
  mat : MatrixEngine
  units : CoreUnits
  /-- Scratchpad bytes, line tags (default 0x0000), span marks, and dirty 4 KiB granules (R141, R359). -/
  sp : Memory
  spTags : Tab Tag
  spMarks : List Nat
  dirty : List Nat
  book : Tab BookSlot
  /-- pmc0 to pmc7 at keys 0 to 7, pmcfg0 to pmcfg7 at keys 8 to 15 (R341, R342). -/
  pmc : Tab Word
  tally : List Tally
  /-- Counters that X has written in the current cycle (R344). -/
  pmcX : List Nat
  slots : Tab StreamSlot
  producers : List Producer
  scatters : List Scatter
  tlb : List Xlat
  /-- Lines in the near cache, and those held exclusively (R205, R233). -/
  near : List Loc
  excl : List Loc
  /-- The line of the ST or atomic that waits for exclusive ownership, or of the page-state word of a waiting APD or
  SEAL, when its request has been sent, and whether the home has answered (R231). -/
  ask : Option (Loc × Bool)
  credit : Nat
  bars : Tab Barrier
  arrival : Option Arrival
  qidle : Nat
  /-- A queue entry was moved or an instruction retired since the last cycle (R311). -/
  active : Bool
  /-- The core drains for a donation, or works for the donee on donated time (R328): the donor's guest. -/
  donated : Option Nat
deriving DecidableEq, Repr

/-- A path of a core as a party (R248). -/
structure Party where
  core : Nat
  path : Path
deriving DecidableEq, Repr

/-- The contents of a line: data, tag, and its mark (the span mark of a scratchpad line, the RC span of a line of
HBM: R141, R217). -/
structure LineImg where
  bits : LineBits
  tag : Tag
  mark : Bool
deriving DecidableEq, Repr

/-- How a write changes the line that it is applied to, in its place in line order (R93). -/
inductive WriteKind where
  /-- The bytes, the tag and the mark as the record states them. -/
  | plain
  /-- A partial-line store of RAW bytes: an UNINIT line becomes RAW with zero in its other bytes; a line that is neither VALID
  nor UNINIT stays as it is (R60, R91). -/
  | part
  /-- A partial-line store of typed data: the tag and the elements of the entry, as the element of the line that the first of
  them meets and their number; whether the page is RC; the tables of the storing core's pattern book that its conversions use
  (R60, R91). -/
  | typed (t : Tag) (first count : Nat) (rc : Bool) (tables : Tab (BitVec 256))
  /-- TSET: an UNINIT line keeps zero data; a line that is neither VALID nor UNINIT stays as it is (R163). -/
  | retag (rc : Bool)
  /-- A scattered element under the tag of its segment (R149). -/
  | scatter (tag : Tag)
  /-- A Fuller recoding to a POLICY of R92 (R220, R261). -/
  | recode (policy : Nat)
deriving DecidableEq, Repr

/-- A write in line order (R250 to R252). Published writes come first, in line order; the pending writes
follow in grant order. -/
structure WriteRec where
  id : Nat
  /-- The core that wrote, with its path; none for the host, a peer or the Fuller. -/
  writer : Option Party
  guest : Nat
  /-- The gang of the writer, for a write that a phase boundary publishes. -/
  job : Option JobId
  loc : Loc
  kind : WriteKind
  /-- Bytes written, one bit each. -/
  mask : BitVec 64
  bits : LineBits
  /-- The tag it sets, or none when the line keeps its tag. -/
  tag : Option Tag
  mark : Option Bool
  /-- The widest scope at which it is published; none while pending. -/
  pub : Option Scope
  /-- The cores of the gang at a publication at gang scope (R249). -/
  gangCores : List Nat
  /-- The paths whose view holds it. -/
  viewers : List Party
  /-- It has performed at its home (R251). -/
  performed : Bool
  /-- It belongs to the boundary at which its member has arrived (R255). -/
  arrived : Bool
  /-- It is a release at a scope, which published these writes (R256). -/
  rel : Option Scope
  carries : List Nat
  /-- Published writes that it goes before in line order although they joined the image first: a recoding that converts its image,
  or a write after which the line would refuse it (R93, R261). -/
  ahead : List Nat
  /-- The GPA through which a line that performs later is written (R386). -/
  gpa : Nat
  /-- It is a line of an append to the page of this GPA (R245). -/
  apage : Option Nat
  /-- The translation that its append has pinned (R210). -/
  pin : Option Xlat
deriving DecidableEq, Repr

/-- A page-fault record (R223). -/
structure FaultRec where
  seq : Nat
  lq : Nat
  lseq : Nat
  gnum : Nat
  gidx : Nat
  fetch : Bool
  wr : Bool
  source : Nat
  reason : Nat
  gva : Nat
  written : Bool
deriving DecidableEq, Repr

/-- A violation record (R335). -/
structure ViolRec where
  seq : Nat
  kind : Nat
  mtype : Nat
  midx : Nat
  gpa : Nat
  gva : Nat
  pc : Nat
  detail : Nat
  /-- The guest of the master, when the master is a stream or an engine. -/
  guest : Option Nat
  written : Bool
deriving DecidableEq, Repr

/-- An error record (R373), by its fields. -/
structure ErrRec where
  time : Nat
  addr : Nat
  guest : Option Nat
  elem : Nat
  unit : Nat
  place : Nat
  type : Nat
  sev : Nat
  action : Nat
deriving DecidableEq, Repr

/-- The errors of one structure, by type, place and unit (R375): times of the errors in the window, and whether it
is marked for retirement. -/
structure ErrCount where
  type : Nat
  place : Nat
  unit : Nat
  times : List Nat
  marked : Bool
  /-- An edge of the active table has come since the structure was marked (R377). -/
  edge : Bool
deriving DecidableEq, Repr

/-- A ganged product in progress (R193, R194): its number in the gang, the leader (its index at placement), the leader's
MNEXT value, the barrier signalled, the partners and those whose shares still run (indices at placement), and the
gang-relative indices of the partners whose shares have faulted. -/
structure Ganged where
  num : Nat
  leader : Nat
  seqn : Word
  bar : Nat
  partners : List Nat
  running : List Nat
  faulted : List Nat
deriving DecidableEq, Repr

/-- A gang of a launch record that has been placed (R305), with the members whose work has ended. -/
structure Gang where
  job : JobId
  gsize : Nat
  /-- Placement-time indices of members whose work has ended (R113, R288). -/
  ended : List Nat
  ganged : List Ganged
deriving DecidableEq, Repr

/-- A saved context (R322, R361): the member's index at placement, the number under which State.writes names its paths and
its scratchpad while it is off its core, its slot in the guest's save region (none while it lies in a reservation),
the stack whose ways hold it then, the core's state, and the answers it waits for. -/
structure Parked where
  idx : Nat
  park : Nat
  slot : Option Nat
  stack : Nat
  core : Core
  /-- Answers to its violations held until it is restored: SEQ and ACTION (R337). -/
  answers : List (Nat × Nat)
deriving DecidableEq, Repr

/-- A gang drained at an edge (R306), in the order of draining, with its saved contexts; whether it was drained by DONATE in
the slot that runs, before whose end it is not placed (R294). -/
structure Drained where
  job : JobId
  gsize : Nat
  members : List Parked
  donated : Bool
deriving DecidableEq, Repr

/-- A launch queue (R297, R301 to R304). -/
structure LaunchQueue where
  base : Word
  ctl : Word
  tail : Nat
  head : Nat
  done : Nat
  stat : Word
  errSeq : Nat
  /-- The head record as admitted, with the gangs placed so far. -/
  headRec : Option (BitVec 512 × Nat)
  /-- The wait w of the head in µs (R303), and when it began to reserve (R304). -/
  waited : Nat
  reserving : Option Nat
  /-- Effective priority of the head as last announced (R303). -/
  prio : Nat
  /-- Records with gangs placed and not completed: sequence, gangs ended, GCOUNT, DONEVEC (R309). -/
  running : List (Nat × Nat × Nat × Nat)
  /-- Sequence values completed and not yet covered by `done`. -/
  finished : List Nat
  /-- Advances of LQDONE of the guest's queues since a record came to stand at this head unread: the queue, the values from and to
  which it advanced, and the head's wait at that moment (R303). -/
  advances : List (Nat × Nat × Nat × Nat)
  /-- The model's own: times that the queue has been enabled (R297). -/
  epoch : Nat
deriving DecidableEq, Repr

/-- The Fullers of a guest at work on one record (R219): the stacks that have taken it, the record as it was first read,
the next line of each stack (line index in the region), the stacks that have finished their part, the lines recoded, and whether the record is refused. -/
structure FullerWork where
  taken : List Nat
  record : Nat
  next : Tab Nat
  finished : List Nat
  lines : Nat
  refused : Bool
deriving DecidableEq, Repr

/-- The answer to a management request, in the version that the request carries: a value, or an error (R389). -/
structure MgmtReply where
  version : MctpVersion
  refused : Bool
  value : Word
deriving DecidableEq, Repr

/-- A replica of a sealed line in a stack's LLC (R214). -/
structure Replica where
  stack : Nat
  guest : Nat
  line : Nat
  bits : LineBits
  tag : Tag
deriving DecidableEq, Repr

/-- A guest and its virtual function (R330). -/
structure Guest where
  en : Bool
  lattice : Tab (BitVec 16)
  /-- GBASE, GBOUND in force (units of 65,536), and pending values (R331, R332). -/
  base : Nat
  bound : Nat
  pendBase : Option Nat
  pendBound : Option Nat
  pool : Nat
  capUsed : Nat
  capArmed : Bool
  /-- GRES, GSAVE, GSAVESZ as written, and as in force since the last accepted commit (R321). -/
  gres : Word
  gsave : Word
  gsavesz : Word
  gresIn : Word
  gsaveIn : Word
  gsaveszIn : Word
  /-- Registers of the virtual function by offset, default 0 (R226, R297, R339, R384). -/
  vf : Tab Word
  lq : Tab LaunchQueue
  lastQueue : Nat
  /-- Page faults: next record number, records unanswered, and answers held for drained jobs (R223, R224). -/
  faultSeq : Nat
  faults : List FaultRec
  /-- The records taken and not complete, from the one at FWHEAD on (R219). -/
  fuller : List FullerWork
  gangs : List Gang
  drained : List Drained
  /-- Overflow FIFO, oldest first, and whether an entry has been dropped since (R344). -/
  overflow : List (Word × Word)
  overflowLost : Bool
  /-- MSI-X table and pending bits by vector (R338): unmasked vectors, pending vectors; the coalescing period that
  runs: its end in µs and the events counted (R340). -/
  unmasked : List Nat
  pending : List Nat
  period : Option (Nat × Nat)
  frozen : Option Nat
  /-- SEALFREE shootdowns in progress (R368). -/
  shooting : List Xlat
  /-- GPAs of the pages that SEALFREE has freed and that have not been sealed since (R216, R368). -/
  freed : List Nat
  /-- An event of R302 has occurred since the Porter last evaluated the guest. -/
  due : Bool
deriving DecidableEq, Repr

/-- The active Timetable (R315 to R319): rows as written, last row, start of the frame in µs, row in force. -/
structure Timetable where
  rows : Memory
  lastRow : Nat
  frameStart : Nat
  row : Nat
deriving DecidableEq, Repr

/-- A message sent to the host or to a peer's side: function and vector (R338), in the order sent. -/
structure Msg where
  fn : FnId
  vector : Nat
deriving DecidableEq, Repr

/-- An error that a check of R370 detects, in a structure and correctable or not. -/
inductive Upset where
  /-- A line of HBM. -/
  | hbm (line : Nat) (correctable : Bool)
  /-- A line that a stack's LLC holds, met in its bank or on the vertical bus under it. -/
  | llc (stack line : Nat) (correctable bus : Bool)
  /-- A line of a saved context that a guest's ways hold, by the context's number and the line's place in it, met in its bank or on
  the vertical bus under it. -/
  | save (guest park line : Nat) (correctable bus : Bool)
  /-- A line of HBM that a core's near cache holds. -/
  | near (core line : Nat) (correctable : Bool)
  /-- A scratchpad line of a core. -/
  | scratch (core line : Nat) (correctable : Bool)
  /-- A granule of an accumulator tile of a core: 8 r + c / 16. -/
  | acc (core tile granule : Nat) (correctable : Bool)
  /-- A segment of a vector register, found when it is read (R356). -/
  | segment (core reg seg : Nat)
deriving DecidableEq, Repr

/-- A host access that waits for a stack which serves save traffic only: the row of the table that it is (R325). -/
abbrev HeldAccess := Instr

/-- What the next step is: a stream issues, an event of the table happens, time passes, or a structure that only
caches drops an entry. -/
inductive Action where
  /-- Stream `strm` of a core takes its next instruction boundary. -/
  | issue (core : Nat) (strm : StreamId)
  /-- The X stream of a core that drains has an instruction in progress, which stops after `parts` + 1 of its segments or
  lines (R72, R323). -/
  | stopWithin (core parts : Nat)
  /-- A row of the table that is an event. -/
  | event (i : Instr)
  /-- The package time base advances (R315). -/
  | time (us : Nat)
  /-- A host access that waits, by its place among them, is tried again (R298, R325). -/
  | retryHeld (n : Nat)
  /-- The host reads 8 bytes of a register of a function (R4, R384). -/
  | hostRead (fn : FnId) (offset : Nat)
  /-- A core's cached translations of a page, its copy of a line, or a replica is dropped under replacement (R30, R214). -/
  | dropTlb (core gva : Nat)
  | dropLine (core : Nat) (loc : Loc)
  | dropLlc (stack line : Nat)
  /-- The other end of a link asks for a flit again, which is resent from the replay buffer (R370, R388). -/
  | replay (link : Nat)
  /-- A structure meets an error that its check detects (R370). -/
  | upset (u : Upset)
deriving DecidableEq, Repr

/-- The state of the LN840. -/
structure State where
  /-- The model's own: what happens next (log 1). -/
  agenda : List Action
  /-- The model's own: steps taken with an empty agenda, by which the model chooses among what can happen (log 1). -/
  sched : Nat
  /-- The model's own: the stream whose instruction is being executed. -/
  turn : Nat × StreamId
  /-- The model's own: the segments or lines after which a drain stops the vector instruction that is being executed (R323);
  none while it runs whole, and between steps. -/
  cut : Option Nat
  cores : Tab Core
  guests : Tab Guest
  /-- Physical-function registers by offset; an unlisted one holds its reset value. -/
  pf : Tab Word
  ttShadow : Memory
  ttActive : Option Timetable
  /-- The accepted shadow that waits for a frame end: rows, last row, time of acceptance (R319). -/
  ttNext : Option (Memory × Nat × Nat)
  /-- While COMMIT is 1: GRES, GSAVESZ and GSAVE of each guest as they stood at the commit (R319, R321). -/
  ttCommit : List (Nat × Word × Word × Word)
  microcode : Memory
  mem : Memory
  /-- Tags of HBM lines by HPA / 64, default 0x0100, and the lines stored with the RC span (R57, R217). -/
  tags : Tab Tag
  spans : List Nat
  /-- Granules of its guest's pool that an HBM line holds, by HPA / 64; 0 for a line never written since its allocation or
  freed by SEALFREE (R217, R368). -/
  granules : Tab Nat
  hostMem : Memory
  peerMem : Memory
  peerTags : Tab Tag
  writes : List WriteRec
  nextWrite : Nat
  replicas : List Replica
  /-- Lines in each stack's LLC: stack, guest, HPA / 64 (R205). -/
  llc : List (Nat × Nat × Nat)
  /-- Those of them that have been written since they were filled (R343). -/
  llcDirty : List (Nat × Nat × Nat)
  timeUs : Nat
  viols : List ViolRec
  violSeq : Nat
  errSeq : Nat
  errCounts : List ErrCount
  /-- HBM rows remapped: HBM stack and row (R380, R381). -/
  rowsRemapped : List (Nat × Nat)
  /-- Links: the record number of a frozen peer, the lines asked for and not yet answered (link, number of the peer's line), and
  failed receptions of the flit being retried (R336, R370, R387). -/
  peerFrozen : Tab Nat
  peerOut : List (Nat × Nat)
  linkRetry : Tab Nat
  /-- Values written to aperture entries and recombination schedules that wait for an edge (R332, R386, R391), by offset. -/
  pendPf : Tab Word
  /-- The host link once trained: PCIe generation and width (R382). -/
  hostLink : Option (Nat × Nat)
  /-- Main power is applied (R381, R391). -/
  powered : Bool
  /-- Host accesses that wait for the end of a drain window (R325). -/
  hostHeld : List HeldAccess
  /-- Messages sent, oldest first, and the answers to host reads and management requests. -/
  sent : List Msg
  replies : List Word
  /-- Answers to management, oldest first (R389). -/
  managed : List MgmtReply
deriving DecidableEq, Repr

/-- A stop of the machine for which the spec gives no effect. -/
inductive Fault where
  /-- An access to an HPA outside the 768 GiB of HBM4 (R11). Raised by the operations that reach HBM. Safe: the
  model stops where the spec names no outcome. -/
  | outsideHbm (hpa : Nat)
deriving DecidableEq, Repr

/-- A refusal of the model. -/
inductive Refusal where
  /-- An arm of exec whose instruction has no meaning yet. Safe: nothing is claimed of it. -/
  | notModelled (mnemonic : String)
deriving DecidableEq, Repr

/-- A stream at job start, before its entry point is set (R30). -/
def Stream.reset : Stream where
  s := []
  sEmpty := []
  p := []
  pc := 0
  level := .u
  ended := false
  tcause := 0
  tval := 0
  tpc := 0
  tstat := 0
  wayf := []
  evf := false
  wfeCycles := 0
  rdvCount := 0
  rdvHere := false
  phCount := 0
  phIssued := none
  phLast := none
  phDone := none
  frozen := none
  pfault := none
  wait := none
  barArrived := false
  partnerTrap := none
  stepPending := false
  sentry := 0
  creditRefused := false
  haltByReq := false
  csrOwn := []
  freeing := []

/-- The vector state at job start (R30). -/
def Vec.reset : Vec where
  v := []
  vl := 0
  vtype := 0
  vstart := 0
  vrstate := 0
  fstat := 0

/-- The copy engine at job start (R28, R30). -/
def CopyEngine.reset : CopyEngine where
  cnext := 0
  cseq := 0
  queue := []
  prog := 0
  halt := none
  frozen := none

/-- The matrix engine at job start (R28, R30). -/
def MatrixEngine.reset : MatrixEngine where
  mnext := 0
  mseq := 0
  queue := []
  step := 0
  stepNext := none
  halt := none
  done := []
  gdone := false
  gstatus := 0
  gbar := 0
  acc := []

/-- The units of a core at power-on: VLCAP 1,024, sixteen lane groups and seven block units (R115). -/
def CoreUnits.reset : CoreUnits where
  vlcap := 1024
  lanesOut := 0
  lanes := 16
  unitsOut := 0
  quarantined := none
  nextUnit := 0
  tenant := none

/-- An idle core with everything at its job-start value (R30, R316). -/
def Core.reset : Core where
  mode := .idle
  guest := none
  place := none
  a := Stream.reset
  x := Stream.reset
  vec := Vec.reset
  q := []
  copy := CopyEngine.reset
  mat := MatrixEngine.reset
  units := CoreUnits.reset
  sp := []
  spTags := []
  spMarks := []
  dirty := []
  book := []
  pmc := []
  tally := []
  pmcX := []
  slots := []
  producers := []
  scatters := []
  tlb := []
  near := []
  excl := []
  ask := none
  credit := 0
  bars := []
  arrival := none
  qidle := 0
  active := false
  donated := none

/-- A launch queue at reset (R297). -/
def LaunchQueue.reset : LaunchQueue where
  base := 0
  ctl := 0
  tail := 0
  head := 0
  done := 0
  stat := 0
  errSeq := 0
  headRec := none
  waited := 0
  reserving := none
  prio := 0
  running := []
  finished := []
  advances := []
  epoch := 0

/-- A record that no Fuller has taken (R219). -/
def FullerWork.reset : FullerWork where
  taken := []
  record := 0
  next := []
  finished := []
  lines := 0
  refused := false

/-- GRES at reset: 48 tiles and 0x40_0000 scratchpad bytes (R321). -/
def gresReset : Word := 0x30400000

/-- A guest at reset: disabled, registers at the values of R226, R297, R321, R331 and R339. -/
def Guest.reset : Guest where
  en := false
  lattice := []
  base := 0
  bound := 0
  pendBase := none
  pendBound := none
  pool := 0
  capUsed := 0
  capArmed := true
  gres := gresReset
  gsave := 0
  gsavesz := 0
  gresIn := gresReset
  gsaveIn := 0
  gsaveszIn := 0
  vf := []
  lq := []
  lastQueue := 3
  faultSeq := 0
  faults := []
  fuller := []
  gangs := []
  drained := []
  overflow := []
  overflowLost := false
  unmasked := []
  pending := []
  period := none
  frozen := none
  shooting := []
  freed := []
  due := false

/-- The LN840 after main power is applied and reset is released (R391): every core idle, no Timetable active, every
register at its reset value, memory with nothing listed. -/
def State.reset : State where
  agenda := []
  sched := 0
  turn := (0, .a)
  cut := none
  cores := []
  guests := []
  pf := []
  ttShadow := []
  ttActive := none
  ttNext := none
  ttCommit := []
  microcode := []
  mem := []
  tags := []
  spans := []
  granules := []
  hostMem := []
  peerMem := []
  peerTags := []
  writes := []
  nextWrite := 0
  replicas := []
  llc := []
  llcDirty := []
  timeUs := 0
  viols := []
  violSeq := 0
  errSeq := 0
  errCounts := []
  rowsRemapped := []
  peerFrozen := []
  peerOut := []
  linkRetry := []
  pendPf := []
  hostLink := none
  powered := true
  hostHeld := []
  sent := []
  replies := []
  managed := []

end Sys2Proof.Machine
end

