-- ==== Sys2Proof/Machine/Tab.lean ====
section
/-! DEFINITION. Machine/Tab.lean: reading and writing keyed lists, and memory as a canonical list of bytes. -/

namespace Sys2Proof.Machine

/-- The value at a key, or the default. -/
def tabGet {α : Type} (d : α) : Tab α → Nat → α
  | [], _ => d
  | (j, v) :: r, k => if j = k then v else tabGet d r k

/-- The value at a key, when the key is listed. -/
def tabFind {α : Type} : Tab α → Nat → Option α
  | [], _ => none
  | (j, v) :: r, k => if j = k then some v else tabFind r k

/-- Set the value at a key, keys kept rising. -/
def tabPut {α : Type} : Tab α → Nat → α → Tab α
  | [], k, v => [(k, v)]
  | (j, w) :: r, k, v =>
    if k < j then (k, v) :: (j, w) :: r else if j = k then (k, v) :: r else (j, w) :: tabPut r k v

/-- Remove a key. -/
def tabErase {α : Type} (t : Tab α) (k : Nat) : Tab α := t.filter (fun e => e.1 != k)

/-- The byte at an address; an unlisted one is 0. -/
def memByte (m : List Host.Cell) (a : Nat) : Byte := tabGet 0 m a

/-- Insert a byte that is not 0, or replace the one there. -/
def memInsert : List Host.Cell → Nat → Byte → List Host.Cell
  | [], k, v => [(k, v)]
  | (j, w) :: r, k, v =>
    if k < j then (k, v) :: (j, w) :: r else if j = k then (k, v) :: r else (j, w) :: memInsert r k v

/-- Remove the byte at an address. -/
def memDrop : List Host.Cell → Nat → List Host.Cell
  | [], _ => []
  | (j, w) :: r, k => if j = k then memDrop r k else (j, w) :: memDrop r k

/-- Write a byte; a byte 0 is not listed. -/
def memWriteByte (m : List Host.Cell) (a : Nat) (b : Byte) : List Host.Cell :=
  if b = 0 then memDrop m a else memInsert m a b

/-- The addresses rise strictly from a bound, and no byte listed is 0. -/
def memWfFrom : Nat → List Host.Cell → Bool
  | _, [] => true
  | lo, (a, b) :: r => decide (lo ≤ a) && b != 0 && memWfFrom (a + 1) r

/-- The canonical form of memory: strictly rising addresses and no byte 0. -/
def Memory.wf (m : List Host.Cell) : Bool := memWfFrom 0 m

/-- The bytes listed in a range of addresses. -/
def memRange (m : List Host.Cell) (a n : Nat) : List Host.Cell :=
  m.filter (fun e => decide (a ≤ e.1) && decide (e.1 < a + n))

/-- `n` bytes from an address, little-endian (R3). -/
def bytesNat (m : List Host.Cell) (a : Nat) : Nat → Nat
  | 0 => 0
  | n + 1 => (memByte m a).toNat + 256 * bytesNat m (a + 1) n

/-- `n` bytes from an address as a number, little-endian (R3). -/
def memRead (m : List Host.Cell) (a n : Nat) : Nat := bytesNat (memRange m a n) a n

/-- Write `n` bytes from an address, little-endian (R3). -/
def memWrite (m : List Host.Cell) (a : Nat) : Nat → Nat → List Host.Cell
  | 0, _ => m
  | n + 1, v => memWrite (memWriteByte m a (BitVec.ofNat 8 v)) (a + 1) n (v / 256)

/-- Set or clear membership of a number in a list without repeats. -/
def listAdd {α : Type} [DecidableEq α] (l : List α) (x : α) : List α := if x ∈ l then l else l ++ [x]

/-- Remove a value from a list. -/
def listDel {α : Type} [DecidableEq α] (l : List α) (x : α) : List α := l.filter (fun y => y ≠ x)

/-- Replace the element at an index. -/
def listSet {α : Type} : List α → Nat → α → List α
  | [], _, _ => []
  | _ :: r, 0, v => v :: r
  | x :: r, n + 1, v => x :: listSet r n v

end Sys2Proof.Machine
end

