-- ==== Sys2Proof/Machine/Ops.lean ====
section
/-! DEFINITION. Machine/Ops.lean: the accessors of State, the levels, taking a trap, page faults and violations,
retiring, and the gate that every instruction passes (R47, R352). -/

namespace Sys2Proof.Machine

/-! ### Accessors -/

/-- A core by its index (R12). -/
def State.core (s : State) (c : Nat) : Core := tabGet Core.reset s.cores c

/-- Set a core. -/
def State.setCore (s : State) (c : Nat) (k : Core) : State := { s with cores := tabPut s.cores c k }

/-- Change a core. -/
def State.modCore (s : State) (c : Nat) (f : Core → Core) : State := s.setCore c (f (s.core c))

/-- A stream of a core. -/
def Core.stream (k : Core) : StreamId → Stream
  | .a => k.a
  | .x => k.x

/-- Set a stream of a core. -/
def Core.setStream (k : Core) (t : StreamId) (st : Stream) : Core :=
  match t with
  | .a => { k with a := st }
  | .x => { k with x := st }

/-- The other stream of the core. -/
def otherStream : StreamId → StreamId
  | .a => .x
  | .x => .a

/-- The path of a stream (R248). -/
def pathOf : StreamId → Path
  | .a => .a
  | .x => .x

/-- A stream of a core of the machine. -/
def State.streamAt (s : State) (c : Nat) (t : StreamId) : Stream := (s.core c).stream t

/-- Change a stream of a core. -/
def State.modStream (s : State) (c : Nat) (t : StreamId) (f : Stream → Stream) : State :=
  s.setCore c ((s.core c).setStream t (f (s.streamAt c t)))

/-- The core whose instruction is executed. -/
def State.cur (s : State) : Core := s.core s.turn.1

/-- The stream whose instruction is executed. -/
def State.strm (s : State) : Stream := s.streamAt s.turn.1 s.turn.2

/-- Change the core whose instruction is executed. -/
def State.modCur (s : State) (f : Core → Core) : State := s.modCore s.turn.1 f

/-- Change the stream whose instruction is executed. -/
def State.modStrm (s : State) (f : Stream → Stream) : State := s.modStream s.turn.1 s.turn.2 f

/-- A guest by its number (R330). -/
def State.guest (s : State) (g : Nat) : Guest := tabGet Guest.reset s.guests g

/-- Set a guest. -/
def State.setGuest (s : State) (g : Nat) (x : Guest) : State := { s with guests := tabPut s.guests g x }

/-- Change a guest. -/
def State.modGuest (s : State) (g : Nat) (f : Guest → Guest) : State := s.setGuest g (f (s.guest g))

/-- The guest that owns a core; an unowned core reads guest 0. -/
def State.guestOf (s : State) (c : Nat) : Nat := ((s.core c).guest).getD 0

/-- A register of a virtual function by offset. -/
def Guest.reg (g : Guest) (off : Nat) : Word := tabGet 0 g.vf off

/-- Set a register of a virtual function. -/
def Guest.setReg (g : Guest) (off : Nat) (v : Word) : Guest := { g with vf := tabPut g.vf off v }

/-- The placement of a core, with an all-zero one for a core that runs nothing. -/
def Core.placeD (k : Core) : Place :=
  k.place.getD ⟨⟨0, 0, 0, 0⟩, 0, 0, 1, 0, [], 0, 0⟩

/-! ### Wayfarer control bits (R345) -/

/-- WCTL of a stream. -/
def Stream.wctl (st : Stream) : Word := tabGet 0 st.wayf 0

/-- WSTAT of a stream. -/
def Stream.wstat (st : Stream) : Word := tabGet 0 st.wayf 1

/-- HALTED, WSTAT bit 15 (R347). -/
def Stream.halted (st : Stream) : Bool := bit st.wstat 15

/-- Set bits of WSTAT. -/
def Stream.orWstat (st : Stream) (m : Word) : Stream := { st with wayf := tabPut st.wayf 1 (st.wstat ||| m) }

/-- Clear SKIP1 when the stream was at U (R345). -/
def Stream.clearSkip (st : Stream) (l : Level) : Stream :=
  if l = .u then { st with wayf := tabPut st.wayf 0 (setFld st.wctl 2 1 0) } else st

/-- Are matches made for an instruction of this stream: EN set, level U, SKIP1 clear (R346)? -/
def Stream.matching (st : Stream) : Bool := bit st.wctl 0 && decide (st.level = .u) && !bit st.wctl 2

/-! ### Counter events (R343) -/

/-- Note events of the current cycle. -/
def Core.note (k : Core) (ev : Nat) (t : Option StreamId) (l : Level) (n : Nat) : Core :=
  if n = 0 then k else { k with tally := k.tally ++ [⟨ev, t, l, n⟩] }

/-! ### Traps (R350, R354) -/

/-- The code of a cause (R350). -/
def Cause.code : Cause → Nat
  | .illegal => 1 | .streamClass => 2 | .emptyRead => 3 | .tagPair => 4 | .tagClass => 5 | .tagWidth => 6
  | .tagFmt => 7 | .tagMix => 8 | .align => 9 | .bound => 10 | .page => 11 | .append => 12 | .sealed => 13
  | .residency => 14 | .queueCycle => 15 | .brk => 17 | .step => 18 | .syscall => 19 | .lane => 20
  | .matrix => 21 | .partner => 22

/-- The code of TSTAT.SRC (R353). -/
def TrapSrc.code : TrapSrc → Nat
  | .instr => 0 | .matrixEngine => 1 | .copyEngine => 2 | .wayfarer => 3 | .call => 4 | .check => 5

/-- TSTAT at trap entry: SRC, PL, and in X the saved VL, VTYPE and VSTART; DEFER stays (R353, R354). -/
def trapStat (t : StreamId) (old : Word) (l : Level) (v : Vec) (src : TrapSrc) : Word :=
  let base := (old &&& maskFld 10 1) ||| word (src.code * 2 ^ 12 + b2n (decide (l = .s)) * 2 ^ 11)
  match t with
  | .a => base
  | .x => base ||| word (v.vstart.toNat * 2 ^ 48 + v.vl.toNat * 2 ^ 32 + v.vtype.toNat * 2 ^ 24)

/-- Bits [47:3] of an address (R353). -/
def pcField (w : Word) : Word := w &&& maskFld 3 45

/-- TakeTrap (R354): the one entry into the handler of a stream. The trap counts at the level of the stream
(R343), and SKIP1 clears, as the instruction traps (R345). -/
def takeTrap (c : Nat) (t : StreamId) (cause : Cause) (tval tpc : Word) (src : TrapSrc) (s : State) : State :=
  let k := s.core c
  let st := k.stream t
  let st' : Stream := { st.clearSkip st.level with
    tcause := BitVec.ofNat 8 cause.code
    tval := tval
    tpc := pcField tpc
    tstat := trapStat t st.tstat st.level k.vec src
    level := .s
    pc := pcField st.sentry
    wait := none
    rdvHere := false
    creditRefused := false
    csrOwn := [] }
  s.setCore c ((k.setStream t st').note 3 (some t) st.level 1)

/-- A trap that is taken before the instruction at the pc, which has not executed: SKIP1 stays for it (rows 1 to 3 of R352, R345,
R354). -/
def trapBefore (c : Nat) (t : StreamId) (cause : Cause) (tval : Word) (src : TrapSrc) (s : State) : State :=
  let st := s.streamAt c t
  (takeTrap c t cause tval st.pc src s).modStream c t (fun x => { x with wayf := st.wayf })

/-! ### Violations (R334 to R336) and page faults (R222, R223) -/

/-- Add a violation record; it is written when the ring has room; SEQ has 32 bits (R335). -/
def State.addViolation (s : State) (kind mtype midx gpa gva pc detail : Nat) (g : Option Nat) : State :=
  { s with viols := s.viols ++ [⟨s.violSeq, kind, mtype, midx, gpa, gva, pc, detail, g, false⟩]
           violSeq := (s.violSeq + 1) % 2 ^ 32 }

/-- MTYPE of a stream (R335). -/
def streamMtype : StreamId → Nat
  | .a => 0
  | .x => 1

/-- A stream freezes at its instruction, which has no effect (R336). -/
def freezeStream (c : Nat) (t : StreamId) (kind gpa gva detail : Nat) (s : State) : State :=
  let seq := s.violSeq
  let pc := (s.streamAt c t).pc
  (s.addViolation kind (streamMtype t) c gpa gva pc.toNat detail (s.core c).guest).modStream c t
    (fun st => { st with frozen := some seq, wait := none })

/-- Add a fault record of a core; it is written when the queue has room; SEQ has 32 bits (R223). -/
def State.addFault (s : State) (c : Nat) (fetch wr : Bool) (source reason gva : Nat) : State :=
  let g := s.guestOf c
  let pl := (s.core c).placeD
  s.modGuest g (fun x => { x with
    faults := x.faults ++ [⟨x.faultSeq, pl.job.queue, pl.job.seq, pl.job.gnum, pl.gidx, fetch, wr, source, reason,
      gva, false⟩]
    faultSeq := (x.faultSeq + 1) % 2 ^ 32 })

/-- A stream halts at its instruction for a page fault (R222). -/
def pageFault (c : Nat) (t : StreamId) (fetch wr : Bool) (reason gva : Nat) (s : State) : State :=
  let seq := (s.guest (s.guestOf c)).faultSeq
  (s.addFault c fetch wr (streamMtype t) reason gva).modStream c t
    (fun st => { st with pfault := some ⟨seq, gva, none⟩, wait := none, creditRefused := false })

/-! ### The ends of an instruction's own checks -/

/-- Why an instruction does not retire. -/
inductive Stop where
  /-- It traps at its own address with SRC 0. -/
  | trap (cause : Cause) (tval : Word)
  /-- It traps with another TPC or SRC. -/
  | trapAt (cause : Cause) (tval tpc : Word) (src : TrapSrc)
  /-- It waits; the stream stays at its boundary. -/
  | wait (why : Wait)
  /-- It takes a page fault (R222). -/
  | page (fetch wr : Bool) (reason gva : Nat)
  /-- It violates (R334). -/
  | violation (kind gpa gva detail : Nat)
  /-- A Wayfarer match with ACT = 1 halts the stream (R346). -/
  | halt
  /-- It reaches an HPA that no HBM backs (R11). -/
  | absent (hpa : Nat)
  /-- A drain stops it between two of its segments or lines, with VSTART recording the place (R72, R323). -/
  | drain
deriving DecidableEq, Repr

/-- The checks and effects of an instruction: a state passed along, or a stop with the state it leaves. -/
abbrev Exec := EStateM Stop State

/-- The outcome of a step of the model. -/
abbrev Out := Host.Outcome State Fault Refusal

/-- A check that does not change the state. -/
def Exec.ofExcept {α : Type} (r : Except Stop α) : Exec α :=
  match r with
  | .ok a => pure a
  | .error e => throw e

/-- Trap unless a condition holds. -/
def need (ok : Bool) (cause : Cause) (tval : Word) : Exec Unit :=
  if ok then pure () else throw (.trap cause tval)

/-- Wait unless a condition holds. -/
def waitFor (ok : Bool) (why : Wait) : Exec Unit :=
  if ok then pure () else throw (.wait why)

/-! ### Retiring, stopping, and the gate -/

/-- An instruction of a stream of a core that began under `st0` retires, and the stream goes to `pc`: INSTR counts (R343), a STEP
trap is asked for (R346), SKIP1 clears (R345), and at U level the record of a BAR's arrival clears (R290). -/
def Core.retire (t : StreamId) (st0 : Stream) (pc : Word) (k : Core) : Core :=
  let st := k.stream t
  let st' : Stream := { st.clearSkip st0.level with
    pc := pc
    wait := none
    creditRefused := false
    csrOwn := []
    barArrived := st.barArrived && decide (st0.level = .s)
    stepPending := st0.matching && bit st0.wctl 1 }
  let k' := (k.setStream t st').note 2 (some t) st0.level 1
  { k' with active := true }

/-- An instruction of the current stream that began under `st0` retires. -/
def State.retire (st0 : Stream) (pc : Word) (s : State) : State := s.modCur (Core.retire s.turn.2 st0 pc)

/-- The stop of an instruction of the current stream, applied to the state it leaves. -/
def applyStop (word1 : Word) (stop : Stop) (s : State) : Out :=
  let c := s.turn.1
  let t := s.turn.2
  let pc := s.strm.pc
  match stop with
  | .trap cause tval => .next (takeTrap c t cause tval pc .instr s)
  | .trapAt cause tval tpc src => .next (takeTrap c t cause tval tpc src s)
  | .wait why => .next (s.modStrm (fun st => { st with wait := some ⟨why, word1⟩ }))
  | .page fetch wr reason gva => .next (pageFault c t fetch wr reason gva s)
  | .violation kind gpa gva detail => .next (freezeStream c t kind gpa gva detail s)
  | .halt => .next (s.modStrm (fun st => { st.orWstat 0x8000 with wait := none, haltByReq := false }))
  | .absent hpa => .fault (.outsideHbm hpa)
  | .drain => .next { s.modStrm (fun st => { st with wait := none }) with cut := none }

/-- The predicate of an instruction on a stream (R33, R17). -/
def Stream.predTrue (st : Stream) (p : Pred) : Bool :=
  (if p.p = 0 then true else tabGet false st.p p.p.toNat) != p.n

/-- The address after an instruction (R32). -/
def Stream.nextPc (st : Stream) (i : Instr) : Word := st.pc + word (instrBytes i)

/-- The gate of every instruction (R47 steps 2 to 6): the predicate, the stream class, the fields, the level, then
the instruction's own checks and effects, which answer the next pc. DESIGN CHOICE (log 43): a CPYM both of whose words fail step 4
(R45) traps with its first word. -/
def issueTo (i : Instr) (body : Exec Word) (s : State) : Out :=
  let st := s.strm
  if st.predTrue (predOf i) = false then .next (s.retire st (st.nextPc i))
  else if (streamClass i).admits s.turn.2 = false then applyStop (firstWord i) (.trap .streamClass (firstWord i)) s
  else if fieldsOk s.turn.2 i = false then applyStop (firstWord i) (.trap .illegal (firstWord i)) s
  else if (isSLevel i && decide (st.level = .u)) = true then
    applyStop (firstWord i) (.violation 3 0 0 (firstWord i).toNat) s
  else
    match body s with
    | .ok pc s' => .next (s'.retire st pc)
    | .error stop s' => applyStop (firstWord i) stop s'

/-- The gate of an instruction that goes on to the next one. -/
def issue (i : Instr) (body : Exec Unit) (s : State) : Out :=
  issueTo i (do body; return (s.strm.nextPc i)) s

/-- An event of the machine that happens whole. -/
def happen (ev : Exec Unit) (s : State) : Out :=
  match ev s with
  | .ok _ s' => .next s'
  | .error (.absent hpa) _ => .fault (.outsideHbm hpa)
  | .error _ _ => .next s

end Sys2Proof.Machine
end

