-- ==== Sys2Proof/Machine/Flags.lean ====
section
/-! DEFINITION. Machine/Flags.lean: the sticky flags of FSTAT (R67). -/

namespace Sys2Proof.Machine

/-- NV, bit 0 of FSTAT (R67). -/
def flagNV : BitVec 6 := 0x01
/-- OF, bit 1 of FSTAT (R67). -/
def flagOF : BitVec 6 := 0x02
/-- UF, bit 2 of FSTAT (R67). -/
def flagUF : BitVec 6 := 0x04
/-- NX, bit 3 of FSTAT (R67). -/
def flagNX : BitVec 6 := 0x08
/-- DZ, bit 4 of FSTAT (R67). -/
def flagDZ : BitVec 6 := 0x10
/-- TW, bit 5 of FSTAT (R67). -/
def flagTW : BitVec 6 := 0x20

/-- Merge flags into FSTAT (R67). -/
def Core.orFstat (k : Core) (f : BitVec 6) : Core := { k with vec := { k.vec with fstat := k.vec.fstat ||| f } }

/-- The flag of an integer division on a stream: DZ when the divisor is 0, in X alone (R99). -/
def divFlags (t : StreamId) (b : Word) : BitVec 6 := if t = .x ∧ b = 0 then flagDZ else 0

end Sys2Proof.Machine
end

