-- ==== Sys2Proof/Machine/Wayfarer.lean ====
section
/-! DEFINITION. Machine/Wayfarer.lean: the matches of the debugger (R345, R346).

A match sets its WSTAT bit; the lowest-numbered match decides between BREAK and a halt and gives TVAL
(log 12). -/

namespace Sys2Proof.Machine

/-- A Wayfarer register of the stream by its offset from CSR 0x310. -/
def Stream.wreg (st : Stream) (i : Nat) : Word := tabGet 0 st.wayf i

/-- The outcome of a list of matches (WSTAT bit, ACT, TVAL): none, a BREAK trap, or a halt (R346). -/
def takeMatches (ms : List (Nat × Bool × Word)) : Exec Unit := do
  match ms with
  | [] => pure ()
  | (_, act, tval) :: _ =>
    let s ← get
    set (s.modStrm (fun st => st.orWstat (word (ms.foldl (fun n m => n + 2 ^ m.1) 0))))
    if act then throw .halt else throw (.trapAt .brk tval s.strm.pc .wayfarer)

/-- Does a MODE field name the direction of an access (R345)? -/
def modeMatches (mode : Nat) (write : Bool) : Bool := mode == 2 || mode == b2n write

/-- Does breakpoint `i` match an instruction address? -/
def bpMatches (st : Stream) (pc : Word) (i : Nat) : Bool :=
  let r := st.wreg (2 + i)
  bit r 63 && (pcField r == pcField pc) && pc.toNat < 2 ^ 48

/-- The breakpoints that match the address of the instruction fetched (R346). -/
def breakMatches (st : Stream) : List (Nat × Bool × Word) :=
  if st.matching then
    ((List.range 4).filter (bpMatches st st.pc)).map (fun i => (i, bit (st.wreg (2 + i)) 62, st.pc))
  else []

/-- Does address watch `i` match bytes `[a, a + n)` of a space (0 GVA, 1 scratchpad)? -/
def wwMatches (st : Stream) (space : Nat) (write : Bool) (a n : Nat) (i : Nat) : Bool :=
  let c := st.wreg (10 + i)
  let len := 2 ^ fld c 0 6
  let lo := fld (st.wreg (6 + i)) 0 48 / len * len
  bit c 63 && modeMatches (fld c 60 2) write && (fld c 59 1 == space) && (fld c 0 6 ≤ 47) &&
    decide (a < lo + len) && decide (lo < a + n)

/-- The address watches of the current stream over an access of its own, in the directions that the access has (R346). -/
def watchDirs (space : Nat) (dirs : List Bool) (a n : Nat) : Exec Unit := do
  let s ← get
  let st := s.strm
  if st.matching then
    takeMatches (((List.range 4).filter (fun i => dirs.any (fun w => wwMatches st space w a n i))).map (fun i =>
      let c := st.wreg (10 + i)
      (4 + i, bit c 62, word (Nat.max a (fld (st.wreg (6 + i)) 0 48 / 2 ^ fld c 0 6 * 2 ^ fld c 0 6)))))
  else pure ()

/-- The address watches over a read or a write (R346). -/
def watchAddr (space : Nat) (write : Bool) (a n : Nat) : Exec Unit := watchDirs space [write] a n

/-- Does tag watch `i` match a tag? -/
def wtMatches (st : Stream) (write : Bool) (t : Tag) (i : Nat) : Bool :=
  let r := st.wreg (14 + i)
  let v := fld r 0 8
  bit r 63 && modeMatches (fld r 60 2) write && (bit r 23 || fld r 18 5 == tagFmt t) &&
    (bit r 17 || fld r 14 3 == tagClass t) &&
    (match fld r 58 2 with
      | 0 => true
      | 1 => decide (tagScale t < v)
      | 2 => decide (v ≤ tagScale t)
      | _ => tagScale t == v)

/-- TVAL of a tag cause: tag, operand code, segment (R73, R351). -/
def tagTval (t : Tag) (code : Code) (seg : Nat) : Word :=
  word (t.toNat + code.toNat * 2 ^ 16 + seg % 16 * 2 ^ 24)

/-- The tag watches of the current stream over a tag it reads or writes (R346). -/
def watchTag (write : Bool) (t : Tag) (code : Code) (seg : Nat) : Exec Unit := do
  let s ← get
  let st := s.strm
  if st.matching then
    takeMatches (((List.range 2).filter (wtMatches st write t)).map (fun i =>
      (8 + i, bit (st.wreg (14 + i)) 62, tagTval t code seg)))
  else pure ()

end Sys2Proof.Machine
end

