-- ==== Sys2Proof/Machine/Operands.lean ====
section
/-! DEFINITION. Machine/Operands.lean: scalar sources and destinations, predicates and tagged queues
(R17 to R25, R40, R100, R101, R235). -/

namespace Sys2Proof.Machine

/-- The number of the queue that an operand code names (R40). -/
def queueNo (c : Code) : Nat := c.toNat - 0xC0

/-- The entries of a queue, oldest first. -/
def Core.queue (k : Core) (c : Code) : List QEntry := tabGet [] k.q (queueNo c)

/-- Set the entries of a queue. -/
def Core.setQueue (k : Core) (c : Code) (l : List QEntry) : Core := { k with q := tabPut k.q (queueNo c) l }

/-- The stream that reads a queue (R23). -/
def queueReader (c : Code) : StreamId := if codeIsQAX c then .x else .a

/-- The event flag of a stream is set (R366). -/
def Core.setEvf (k : Core) (t : StreamId) : Core := k.setStream t { k.stream t with evf := true }

/-- Pop the oldest entry of a queue; the stream that writes the queue sees an event (R24, R366). -/
def Core.pop (k : Core) (c : Code) : Core :=
  { (k.setQueue c ((k.queue c).drop 1)).setEvf (otherStream (queueReader c)) with active := true }

/-- Push an entry; the stream that reads the queue sees an event (R24, R366). -/
def Core.push (k : Core) (c : Code) (e : QEntry) : Core :=
  { (k.setQueue c (k.queue c ++ [e])).setEvf (queueReader c) with active := true }

/-- Is a queue full (R17, R24)? -/
def Core.queueFull (k : Core) (c : Code) : Bool := decide (Config.queueEntries ≤ (k.queue c).length)

/-- The live stream slots that feed a queue (R235). -/
def Core.slotsOf (k : Core) (c : Code) : Tab StreamSlot := k.slots.filter (fun e => e.2.queue == c)

/-- A scalar register; s0 reads 0 (R17). -/
def Stream.reg (st : Stream) (c : Code) : Word := if c = 0 then 0 else tabGet 0 st.s c.toNat

/-- Write a scalar register; a write to s0 is discarded (R17). -/
def Stream.setReg (st : Stream) (c : Code) (v : Word) : Stream :=
  if c = 0 then st else { st with s := tabPut st.s c.toNat v }

/-- Is a scalar register empty (R19)? s0 never is. -/
def Stream.regEmpty (st : Stream) (c : Code) : Bool := c != 0 && decide (c.toNat ∈ st.sEmpty)

/-- A predicate; p0 reads true (R17). -/
def Stream.pred (st : Stream) (c : Code) : Bool :=
  if c = 0xD0 then true else tabGet false st.p (c.toNat - 0xD0)

/-- Write a predicate; a write to p0 is discarded (R17). -/
def Stream.setPred (st : Stream) (c : Code) (v : Bool) : Stream :=
  if c = 0xD0 then st else { st with p := tabPut st.p (c.toNat - 0xD0) v }

/-- A scalar source: its operand code and its E bit. -/
structure Src where
  code : Code
  e : Bool
deriving DecidableEq, Repr

/-- Is a source empty: an empty register, or an empty queue (R20, R24)? -/
def Core.srcEmpty (k : Core) (t : StreamId) (c : Code) : Bool :=
  if codeIsQ c then (k.queue c).isEmpty else (k.stream t).regEmpty c

/-- The value of a source: a register, or bytes 0 to 7 of the oldest entry of a queue (R25). -/
def Core.srcValue (k : Core) (t : StreamId) (c : Code) : Word :=
  if codeIsQ c then
    match k.queue c with
    | [] => 0
    | e :: _ => lineWord e.bits 0
  else (k.stream t).reg c

/-- The wait of an empty source. -/
def waitOf (c : Code) : Wait := if codeIsQ c then .queue c false else .fullEmpty

/-- Row 1 of R100: an empty source with E = 1 traps EMPTY_READ. -/
def sourcesE (k : Core) (t : StreamId) : List Src → Except Stop Unit
  | [] => .ok ()
  | x :: r => if x.e && k.srcEmpty t x.code then .error (.trap .emptyRead (word x.code.toNat)) else sourcesE k t r

/-- Row 2 of R100: the instruction waits for every source with E = 0. -/
def sourcesWait (k : Core) (t : StreamId) : List Src → Except Stop Unit
  | [] => .ok ()
  | x :: r => if k.srcEmpty t x.code then .error (.wait (waitOf x.code)) else sourcesWait k t r

/-- Row 3 of R100 for one source: the tag watch, then the VCLASS of a queue's oldest entry (R25, R346). -/
def sourceClass (x : Src) : Exec Unit := do
  let k := (← get).cur
  if codeIsQ x.code then
    match k.queue x.code with
    | [] => pure ()
    | e :: _ =>
      watchTag false e.tag x.code 0
      need (tagClass e.tag == 0) .tagClass (tagTval e.tag x.code 0)
  else pure ()

/-- Rows 1 to 3 of R100: the sources tested and awaited, and their values. -/
def readSources (l : List Src) : Exec (List Word) := do
  let s ← get
  Exec.ofExcept (sourcesE s.cur s.turn.2 l)
  Exec.ofExcept (sourcesWait s.cur s.turn.2 l)
  l.forM sourceClass
  return l.map (fun x => s.cur.srcValue s.turn.2 x.code)

/-- Row 5 of R100: the wait while the destination register is empty, or its queue is full or still fed by an
earlier stream (R21, R24, R235). -/
def destReady (k : Core) (t : StreamId) (c : Code) : Except Stop Unit :=
  if codeIsQ c then
    if (k.slotsOf c).isEmpty = false then .error (.wait (.push c))
    else if k.queueFull c then .error (.wait (.queue c true))
    else .ok ()
  else if (k.stream t).regEmpty c then .error (.wait .fullEmpty)
  else .ok ()

/-- The queues that a list of sources pops, each once (R24). -/
def popCodes (l : List Src) : List Code := ((l.map Src.code).filter codeIsQ).eraseDups

/-- Pop each queue among the sources once (R24). -/
def Core.popAll (k : Core) (l : List Src) : Core := (popCodes l).foldl Core.pop k

/-- The line that a scalar result makes in a queue (R25). -/
def scalarEntry (v : Word) : QEntry := ⟨v.setWidth 512, Config.tagRaw, false⟩

/-- Write a scalar result to a register or push it to a queue (R25, R101). -/
def Core.putScalar (k : Core) (t : StreamId) (c : Code) (v : Word) : Core :=
  if codeIsQ c then k.push c (scalarEntry v) else k.setStream t ((k.stream t).setReg c v)

/-- Wait for the destination (row 5 of R100). -/
def destWait (c : Code) : Exec Unit := do
  let s ← get
  Exec.ofExcept (destReady s.cur s.turn.2 c)

/-- Row 6 of R100: the sources are popped and the result is written. -/
def finishScalar (l : List Src) (d : Code) (v : Word) : Exec Unit :=
  modify (fun s => s.modCur (fun k => (k.popAll l).putScalar s.turn.2 d v))

/-- A scalar instruction with sources `l`, a destination and a result (R100). -/
def scalarOp (i : Instr) (l : List Src) (d : Code) (f : List Word → Word) (s : State) : Out :=
  issue i (do
    let vs ← readSources l
    destWait d
    finishScalar l d (f vs)) s

/-- A scalar instruction that writes a predicate (R108). -/
def predOp (i : Instr) (l : List Src) (d : Code) (f : List Word → Bool) (s : State) : Out :=
  issue i (do
    let vs ← readSources l
    modify (fun s => s.modCur (fun k =>
      let k' := k.popAll l
      k'.setStream s.turn.2 ((k'.stream s.turn.2).setPred d (f vs))))) s

/-- The first word of a list, or 0. -/
def w0 (l : List Word) : Word := l.getD 0 0
/-- The second word of a list, or 0. -/
def w1 (l : List Word) : Word := l.getD 1 0
/-- The third word of a list, or 0. -/
def w2 (l : List Word) : Word := l.getD 2 0

/-- Source A of form R. -/
def srcA (f : RForm) : Src := ⟨f.a, f.ea⟩
/-- Source B of form R. -/
def srcB (f : RForm) : Src := ⟨f.b, f.eb⟩
/-- Source C of form R. -/
def srcC (f : RForm) : Src := ⟨f.c, f.ec⟩

end Sys2Proof.Machine
end

