-- ==== Sys2Proof/Machine/Scalar.lean ====
section
/-! DEFINITION. Machine/Scalar.lean: the scalar, predicate and control-flow instructions of opcodes 0x01 to 0x11
(R100 to R112). -/

namespace Sys2Proof.Machine

/-- A two-operand instruction of R103. -/
def binOp (i : Instr) (f : RForm) (op : Word → Word → Word) (s : State) : Out :=
  scalarOp i [srcA f, srcB f] f.d (fun l => op (w0 l) (w1 l)) s

/-- ADD (R103). -/
def execAdd (f : RForm) (s : State) : Out := binOp (.add f) f (fun a b => a + b) s
/-- SUB (R103). -/
def execSub (f : RForm) (s : State) : Out := binOp (.sub f) f (fun a b => a - b) s
/-- MUL (R103). -/
def execMul (f : RForm) (s : State) : Out := binOp (.mul f) f (fun a b => a * b) s

/-- Bits [127:64] of the unsigned product (R98). -/
def mulHigh (a b : Word) : Word := (a.setWidth 128 * b.setWidth 128).extractLsb' 64 64
/-- Bits [127:64] of the signed product (R98). -/
def mulHighSigned (a b : Word) : Word := (a.signExtend 128 * b.signExtend 128).extractLsb' 64 64

/-- MULH (R103). -/
def execMulh (f : RForm) (s : State) : Out := binOp (.mulh f) f mulHigh s
/-- MULHS (R103). -/
def execMulhs (f : RForm) (s : State) : Out := binOp (.mulhs f) f mulHighSigned s

/-- The unsigned quotient; all ones by a zero divisor (R99). -/
def quotU (a b : Word) : Word := if b = 0 then BitVec.allOnes 64 else a / b
/-- The signed quotient truncated toward zero; −1 by a zero divisor (R99). -/
def quotS (a b : Word) : Word := if b = 0 then BitVec.allOnes 64 else a.sdiv b
/-- The unsigned remainder; the dividend by a zero divisor (R99). -/
def remU (a b : Word) : Word := if b = 0 then a else a % b
/-- The signed remainder, with the sign of the dividend; the dividend by a zero divisor (R99). -/
def remS (a b : Word) : Word := if b = 0 then a else a.srem b

/-- A division instruction: the result, and DZ in X for a zero divisor (R99, R102, R103). -/
def divOp (i : Instr) (f : RForm) (op : Word → Word → Word) (s : State) : Out :=
  issue i (do
    let vs ← readSources [srcA f, srcB f]
    destWait f.d
    finishScalar [srcA f, srcB f] f.d (op (w0 vs) (w1 vs))
    modify (fun s => s.modCur (fun k => k.orFstat (divFlags s.turn.2 (w1 vs))))) s

/-- DIV (R99, R103). -/
def execDiv (f : RForm) (s : State) : Out := divOp (.div f) f quotU s
/-- DIVS (R99, R103). -/
def execDivs (f : RForm) (s : State) : Out := divOp (.divs f) f quotS s
/-- REM (R99, R103). -/
def execRem (f : RForm) (s : State) : Out := divOp (.rem f) f remU s
/-- REMS (R99, R103). -/
def execRems (f : RForm) (s : State) : Out := divOp (.rems f) f remS s

/-- AND (R103). -/
def execAnd (f : RForm) (s : State) : Out := binOp (.andr f) f (fun a b => a &&& b) s
/-- OR (R103). -/
def execOr (f : RForm) (s : State) : Out := binOp (.orr f) f (fun a b => a ||| b) s
/-- XOR (R103). -/
def execXor (f : RForm) (s : State) : Out := binOp (.xorr f) f (fun a b => a ^^^ b) s
/-- ANDN (R103). -/
def execAndn (f : RForm) (s : State) : Out := binOp (.andn f) f (fun a b => a &&& ~~~b) s
/-- ORN (R103). -/
def execOrn (f : RForm) (s : State) : Out := binOp (.orn f) f (fun a b => a ||| ~~~b) s

/-- A shift amount modulo 64 (R98). -/
def shamt (b : Word) : Nat := b.toNat % 64

/-- SHL (R103). -/
def execShl (f : RForm) (s : State) : Out := binOp (.shl f) f (fun a b => a <<< shamt b) s
/-- SHR (R103). -/
def execShr (f : RForm) (s : State) : Out := binOp (.shr f) f (fun a b => a >>> shamt b) s
/-- SRA (R103). -/
def execSra (f : RForm) (s : State) : Out := binOp (.sra f) f (fun a b => a.sshiftRight (shamt b)) s
/-- ROL (R103). -/
def execRol (f : RForm) (s : State) : Out := binOp (.rol f) f (fun a b => a.rotateLeft (shamt b)) s
/-- MIN (R103). -/
def execMin (f : RForm) (s : State) : Out := binOp (.min f) f (fun a b => if a ≤ b then a else b) s
/-- MAX (R103). -/
def execMax (f : RForm) (s : State) : Out := binOp (.max f) f (fun a b => if a ≤ b then b else a) s
/-- MINS (R103). -/
def execMins (f : RForm) (s : State) : Out := binOp (.mins f) f (fun a b => if a.sle b then a else b) s
/-- MAXS (R103). -/
def execMaxs (f : RForm) (s : State) : Out := binOp (.maxs f) f (fun a b => if a.sle b then b else a) s

/-- Zero bits above the highest one bit, of the low `n` bits (R104). -/
def clzFrom (a : Word) : Nat → Nat
  | 0 => 0
  | n + 1 => if a.getLsbD n then 0 else clzFrom a n + 1

/-- Zero bits below the lowest one bit, from bit `i` over `n` bits (R104). -/
def ctzFrom (a : Word) (i : Nat) : Nat → Nat
  | 0 => 0
  | n + 1 => if a.getLsbD i then 0 else ctzFrom a (i + 1) n + 1

/-- One bits among the low `n` bits (R104). -/
def popFrom (a : Word) : Nat → Nat
  | 0 => 0
  | n + 1 => b2n (a.getLsbD n) + popFrom a n

/-- A one-operand count of R104. -/
def unOp (i : Instr) (f : RForm) (op : Word → Word) (s : State) : Out :=
  scalarOp i [srcA f] f.d (fun l => op (w0 l)) s

/-- CLZ (R104). -/
def execClz (f : RForm) (s : State) : Out := unOp (.clz f) f (fun a => word (clzFrom a 64)) s
/-- CTZ (R104). -/
def execCtz (f : RForm) (s : State) : Out := unOp (.ctz f) f (fun a => word (ctzFrom a 0 64)) s
/-- POPC (R104). -/
def execPopc (f : RForm) (s : State) : Out := unOp (.popc f) f (fun a => word (popFrom a 64)) s

/-- SEXT's result: bit n − 1 copied upward, n = b[5:0]; n = 0 leaves a unchanged (R104). -/
def sextRes (a b : Word) : Word :=
  let n := b.toNat % 64
  if n = 0 then a else (a <<< (64 - n)).sshiftRight (64 - n)

/-- ZEXT's result: bits [63:n] zero, n = b[5:0]; n = 0 leaves a unchanged (R104). -/
def zextRes (a b : Word) : Word :=
  let n := b.toNat % 64
  if n = 0 then a else word (a.toNat % 2 ^ n)

/-- SEXT (R104). -/
def execSext (f : RForm) (s : State) : Out := binOp (.sext f) f sextRes s
/-- ZEXT (R104). -/
def execZext (f : RForm) (s : State) : Out := binOp (.zext f) f zextRes s

/-- The position of a bit field (R105). -/
def bfPos (b : Word) : Nat := b.toNat % 64
/-- The length of a bit field, which ends at bit 63 at most (R105). -/
def bfLen (b c : Word) : Nat := Nat.min (c.toNat % 128) (64 - bfPos b)

/-- BFX's result (R105). -/
def bfxRes (a b c : Word) : Word := word (a.toNat / 2 ^ bfPos b % 2 ^ bfLen b c)

/-- BFI's result from the old D (R105). -/
def bfiRes (d a b c : Word) : Word :=
  let m := maskFld (bfPos b) (bfLen b c)
  (d &&& ~~~m) ||| ((a <<< bfPos b) &&& m)

/-- BFX (R105). -/
def execBfx (f : RForm) (s : State) : Out :=
  scalarOp (.bfx f) [srcA f, srcB f, srcC f] f.d (fun l => bfxRes (w0 l) (w1 l) (w2 l)) s

/-- BFI (R105): D is read as a register first. -/
def execBfi (f : RForm) (s : State) : Out :=
  scalarOp (.bfi f) [srcA f, srcB f, srcC f, ⟨f.d, false⟩] f.d
    (fun l => bfiRes (l.getD 3 0) (w0 l) (w1 l) (w2 l)) s

/-- MOV (R106). -/
def execMov (f : RForm) (s : State) : Out := unOp (.mov f) f (fun a => a) s

/-- SEL (R106): both sources are read and popped. -/
def execSel (f : RForm) (s : State) : Out :=
  scalarOp (.sel f) [srcA f, srcB f] f.d (fun l => if s.strm.pred f.c then w0 l else w1 l) s

/-- ADDX (R106). -/
def execAddx (f : RForm) (s : State) : Out :=
  scalarOp (.addx f) [srcA f, srcB f, srcC f] f.d (fun l => w0 l + w1 l <<< shamt (w2 l)) s

/-- ADDI (R107). -/
def execAddi (f : IForm) (s : State) : Out :=
  scalarOp (.addi f) [⟨f.a, f.ea⟩] f.d (fun l => w0 l + sext64 f.imm) s
/-- LI (R107). -/
def execLi (f : IForm) (s : State) : Out := scalarOp (.li f) [] f.d (fun _ => sext64 f.imm) s
/-- LIW (R107). -/
def execLiw (f : LForm) (s : State) : Out := scalarOp (.liw f) [] f.d (fun _ => f.imm64) s

/-- The condition of CMP and CMPI (R43). -/
def ccHolds (cc : Cc) (a b : Word) : Bool :=
  match cc with
  | .eq => a == b
  | .ne => a != b
  | .lt => a.slt b
  | .ge => b.sle a
  | .ltu => decide (a < b)
  | .geu => decide (b ≤ a)
  | .gt => b.slt a
  | .le => a.sle b

/-- CMP (R108). -/
def execCmp (cc : Cc) (f : RForm) (s : State) : Out :=
  predOp (.cmp cc f) [srcA f, srcB f] f.d (fun l => ccHolds cc (w0 l) (w1 l)) s
/-- CMPI (R108). -/
def execCmpi (cc : Cc) (f : IForm) (s : State) : Out :=
  predOp (.cmpi cc f) [⟨f.a, f.ea⟩] f.d (fun l => ccHolds cc (w0 l) (sext64 f.imm)) s

/-- PAND (R109). -/
def execPand (f : RForm) (s : State) : Out :=
  predOp (.pand f) [] f.d (fun _ => s.strm.pred f.a && s.strm.pred f.b) s
/-- POR (R109). -/
def execPor (f : RForm) (s : State) : Out :=
  predOp (.por f) [] f.d (fun _ => s.strm.pred f.a || s.strm.pred f.b) s
/-- PXOR (R109). -/
def execPxor (f : RForm) (s : State) : Out :=
  predOp (.pxor f) [] f.d (fun _ => s.strm.pred f.a != s.strm.pred f.b) s
/-- PNOT (R109). -/
def execPnot (f : RForm) (s : State) : Out := predOp (.pnot f) [] f.d (fun _ => !s.strm.pred f.a) s
/-- PMOV (R109). -/
def execPmov (f : RForm) (s : State) : Out := predOp (.pmov f) [] f.d (fun _ => s.strm.pred f.a) s

/-- A branch target (R38). -/
def branchTarget (base : Word) (f : JForm) : Word := base + 8 * sext64 f.offset

/-- The two checks of a branch target (R38). -/
def checkTarget (t : Word) : Exec Unit := do
  need (t.toNat % 8 == 0) .align t
  need (decide (t.toNat < 2 ^ 48)) .bound t

/-- BR (R110). -/
def execBr (f : JForm) (s : State) : Out :=
  issueTo (.br f) (do
    let t := branchTarget s.strm.pc f
    checkTarget t
    return t) s

/-- JMP (R110). -/
def execJmp (f : JForm) (s : State) : Out :=
  issueTo (.jmp f) (do
    let vs ← readSources [⟨f.t, false⟩]
    let t := branchTarget (w0 vs) f
    checkTarget t
    return t) s

/-- CALL (R110): the base is read before the link is written. -/
def execCall (f : JForm) (s : State) : Out :=
  issueTo (.call f) (do
    let vs ← readSources [⟨f.t, false⟩]
    let t := branchTarget (if f.t = 0 then s.strm.pc else w0 vs) f
    checkTarget t
    destWait f.d
    finishScalar [] f.d (s.strm.pc + 16)
    return t) s

/-- RET (R110). -/
def execRet (f : JForm) (s : State) : Out :=
  issueTo (.ret f) (do
    let vs ← readSources [⟨f.t, false⟩]
    checkTarget (w0 vs)
    return (w0 vs)) s

/-- LOOP (R110). -/
def execLoop (f : JForm) (s : State) : Out :=
  issueTo (.loop f) (do
    let vs ← readSources [⟨f.cnt, false⟩]
    let t := branchTarget s.strm.pc f
    checkTarget t
    finishScalar [] f.cnt (w0 vs - 1)
    return (if w0 vs - 1 = 0 then s.strm.pc + 16 else t)) s

/-- May a stream pass its RDV: the other stream stands at the paired one, or has passed it (R16, R112)? -/
def rdvMet (me other : Stream) : Bool :=
  decide (me.rdvCount < other.rdvCount) || (other.rdvHere && decide (other.rdvCount = me.rdvCount))

/-- RDV (R16, R112): the stream stands at the rendezvous until the other does; the n-th RDVs pair. -/
def execRdv (f : RForm) (s : State) : Out :=
  issue (.rdv f) (do
    modify (fun s => s.modStrm (fun st => { st with rdvHere := true }))
    let k := (← get).cur
    waitFor (rdvMet (k.stream s.turn.2) (k.stream (otherStream s.turn.2))) .rdv
    modify (fun s => s.modStrm (fun st => { st with rdvHere := false, rdvCount := st.rdvCount + 1 }))) s

/-- NOP (R112). -/
def execNop (f : RForm) (s : State) : Out := issue (.nop f) (pure ()) s

end Sys2Proof.Machine
end

