-- ==== Sys2Proof/Machine/Address.lean ====
section
/-! DEFINITION. Machine/Address.lean: the address of a form M instruction and the update of its base (R39). -/

namespace Sys2Proof.Machine

/-- The displacement of form M in bytes (R39). -/
def mDisp (f : MForm) (unit : Nat) : Word := sext64 f.disp * word unit

/-- The address that PI selects from the base and the index (R39). -/
def mAddr (f : MForm) (unit : Nat) (base index : Word) : Word :=
  base + index + (if f.pi = 1 then 0 else mDisp f unit)

/-- The base register after the instruction retires: PI = 0 leaves it (R39). -/
def mUpdate (f : MForm) (unit : Nat) (base : Word) : Exec Unit :=
  if f.pi = 0 then pure ()
  else modify (fun s => s.modStrm (fun st => st.setReg f.a (base + mDisp f unit)))

/-- The base register of form M. -/
def mSrcA (f : MForm) : Src := ⟨f.a, f.ea⟩
/-- The B operand of form M. -/
def mSrcB (f : MForm) : Src := ⟨f.b, f.eb⟩

end Sys2Proof.Machine
end

