-- ==== Sys2Proof/Machine/Interrupts.lean ====
section
/-! DEFINITION. Machine/Interrupts.lean: raising MSI-X vectors of a virtual function and of the physical function
(R338, R340, R383). -/

namespace Sys2Proof.Machine

/-- May a function send messages now: enabled and not frozen (R336, R338)? -/
def Guest.maySend (x : Guest) : Bool := x.en && x.frozen.isNone

/-- The pending vectors that are not masked, in ascending order (R340). -/
def Guest.ready (x : Guest) : List Nat := (List.range 64).filter (fun v => v ∈ x.pending && v ∈ x.unmasked)

/-- Send one message for each pending unmasked vector in ascending order, and end the period (R340). -/
def sendPending (g : Nat) (s : State) : State :=
  let x := s.guest g
  { s.setGuest g { x with pending := x.pending.filter (fun v => v ∉ x.unmasked), period := none } with
    sent := s.sent ++ x.ready.map (fun v => ⟨.vf g, v⟩) }

/-- ICOAL.HOLD (R339). -/
def Guest.hold (x : Guest) : Nat := fld (x.reg 0x800) 0 10
/-- ICOAL.COUNT; 0 counts as 1 (R339). -/
def Guest.coalCount (x : Guest) : Nat := Nat.max 1 (fld (x.reg 0x800) 16 8)

/-- An event on a vector of a virtual function; vector 0 is none, and a vector beyond the table's 64 entries
names no entry (R338, R340). -/
def raiseVf (g v : Nat) (s : State) : State :=
  if v = 0 ∨ 64 ≤ v then s
  else
    let x := s.guest g
    let x' := { x with pending := listAdd x.pending v }
    if x.maySend = false ∨ v ∉ x.unmasked then s.setGuest g x'
    else if x.hold = 0 then sendPending g (s.setGuest g x')
    else
      let p := match x.period with
        | none => (s.timeUs + x.hold, 1)
        | some (e, n) => (e, n + 1)
      let s' := s.setGuest g { x' with period := some p }
      if x.coalCount ≤ p.2 then sendPending g s' else s'

/-- The control half of an entry of the physical function's MSI-X table; bit 32 is its mask, 1 at reset (log 20). -/
def pfVector (s : State) (v : Nat) : Word := tabGet 0x100000000 s.pf (0x90000 + 16 * v + 8)

/-- Set or clear a pending bit of the physical function (R383). -/
def setPfPending (v : Nat) (b : Bool) (s : State) : State :=
  let off := 0x91000 + 8 * (v / 64)
  { s with pf := tabPut s.pf off (setFld (tabGet 0 s.pf off) (v % 64) 1 (b2n b)) }

/-- An event on a vector of the physical function; vector 0 is none (R383). -/
def raisePf (v : Nat) (s : State) : State :=
  if v = 0 then s
  else if bit (pfVector s v) 32 then setPfPending v true s
  else { s with sent := s.sent ++ [⟨.pf, v⟩] }

end Sys2Proof.Machine
end

