-- ==== Sys2Proof/Machine/Numeric.lean ====
section
/-! DEFINITION. Machine/Numeric.lean: element formats, exact values, rounding and the operations on exact values
(R61 to R66, R79 to R82, R88, R98).

A finite value is a sign, a natural number and a power of two, so that every decoded element and every sum and
product is exact. A quotient, a root or a transcendental result that no such pair gives is represented by a
number between the same neighbours at more than 500 further bits (log 8). -/

namespace Sys2Proof.Machine

/-! ### Formats (R62, R63) -/

/-- FMT codes (R62). -/
def fmtRaw : Nat := 0
def fmtFp32 : Nat := 1
def fmtBf16 : Nat := 2
def fmtFp16 : Nat := 3
def fmtE4m3 : Nat := 4
def fmtE5m2 : Nat := 5
def fmtE2m1 : Nat := 6
def fmtInt8 : Nat := 7
def fmtInt32 : Nat := 8
def fmtCb4 : Nat := 9

/-- Width in bits of an element; RAW and reserved formats have none (R62). -/
def fmtWidth (f : Nat) : Nat :=
  match f with
  | 1 => 32 | 2 => 16 | 3 => 16 | 4 => 8 | 5 => 8 | 6 => 4 | 7 => 8 | 8 => 32 | 9 => 4 | _ => 0

/-- Is it one of the formats 1 to 9, which hold elements? -/
def fmtHasElems (f : Nat) : Bool := decide (1 ≤ f) && decide (f ≤ 9)

/-- Does R61 scale the format: every numeric format but CB4 and INT32? -/
def fmtScaled (f : Nat) : Bool := decide (1 ≤ f) && decide (f ≤ 7)

/-- Is the format an integer format? -/
def fmtIsInt (f : Nat) : Bool := f == 7 || f == 8

/-- Elements of an ordinary line (R68). -/
def lineElems (f : Nat) : Nat := if fmtWidth f = 0 then 0 else 512 / fmtWidth f

/-- A binary floating-point format: width, significand bits t, bias, the encoding of the largest finite magnitude,
of infinity (when there is one), of the canonical NaN, and of the quiet bit (R62, R63). -/
structure FloatFmt where
  w : Nat
  t : Nat
  bias : Nat
  maxBits : Nat
  inf : Option Nat
  nan : Option Nat
deriving DecidableEq, Repr

/-- The parameters of a floating format; E2M1 stands for every other code (R62, R63). -/
def floatFmt (f : Nat) : FloatFmt :=
  match f with
  | 1 => ⟨32, 23, 127, 0x7F7FFFFF, some 0x7F800000, some 0x7FC00000⟩
  | 2 => ⟨16, 7, 127, 0x7F7F, some 0x7F80, some 0x7FC0⟩
  | 3 => ⟨16, 10, 15, 0x7BFF, some 0x7C00, some 0x7E00⟩
  | 4 => ⟨8, 3, 7, 0x7E, none, some 0x7F⟩
  | 5 => ⟨8, 2, 15, 0x7B, some 0x7C, some 0x7E⟩
  | _ => ⟨4, 1, 1, 0x7, none, none⟩

/-- The emax column of R62. -/
def fmtEmax (f : Nat) : Int :=
  match f with
  | 1 => 127 | 2 => 127 | 3 => 15 | 4 => 8 | 5 => 15 | 6 => 2 | 7 => 6 | _ => 0

/-- The rounding modes (R65). -/
inductive Rm where
  | rne | rtz | rdn | rup
deriving DecidableEq, Repr

/-- VTYPE.RM, or RMO − 1 (R41, R65). -/
def rmOf (n : Nat) : Rm :=
  match n % 4 with
  | 0 => .rne | 1 => .rtz | 2 => .rdn | _ => .rup

/-! ### Exact values (R79) -/

/-- A value: a NaN, an infinity, or ±m × 2^e. -/
inductive Val where
  | nan (signalling : Bool)
  | inf (neg : Bool)
  | fin (neg : Bool) (m : Nat) (e : Int)
deriving DecidableEq, Repr

/-- A zero of a sign. -/
def Val.zero (neg : Bool) : Val := .fin neg 0 0

/-- An integer as a value; 0 is +0. -/
def Val.ofInt (i : Int) : Val := .fin (decide (i < 0)) i.natAbs 0

/-- Is it a NaN? -/
def Val.isNan : Val → Bool
  | .nan _ => true
  | _ => false

/-- Is it a signalling NaN? -/
def Val.isSnan : Val → Bool
  | .nan true => true
  | _ => false

/-- Is it finite and not zero? -/
def Val.finNonzero : Val → Bool
  | .fin _ m _ => m != 0
  | _ => false

/-- Is it a zero? -/
def Val.isZero : Val → Bool
  | .fin _ m _ => m == 0
  | _ => false

/-- The sign bit of a value; a NaN has none. -/
def Val.neg : Val → Bool
  | .nan _ => false
  | .inf s => s
  | .fin s _ _ => s

/-- The value with its sign inverted; a NaN stays. -/
def Val.negate : Val → Val
  | .nan q => .nan q
  | .inf s => .inf (!s)
  | .fin s m e => .fin (!s) m e

/-- The magnitude; a NaN stays. -/
def Val.abs : Val → Val
  | .nan q => .nan q
  | .inf _ => .inf false
  | .fin _ m e => .fin false m e

/-- floor(log2 |v|) of a finite value that is not zero. -/
def log2Of (m : Nat) (e : Int) : Int := (Nat.log2 m : Int) + e

/-- Multiply by 2^n. -/
def Val.shift (v : Val) (n : Int) : Val :=
  match v with
  | .fin s m e => if m = 0 then v else .fin s m (e + n)
  | _ => v

/-- The encoding of a floating format read as an unscaled value (R62, R63), with FZ on its input side (R66). -/
def decodeFloat (f : Nat) (bits : Nat) (fz : Bool) : Val :=
  let p := floatFmt f
  let neg := decide (2 ^ (p.w - 1) ≤ bits % 2 ^ p.w)
  let mag := bits % 2 ^ (p.w - 1)
  if p.inf = some mag then .inf neg
  else if p.nan.isSome && decide (p.maxBits < mag) then
    .nan (if f = 4 then false else mag / 2 ^ (p.t - 1) % 2 == 0)
  else
    let ex := mag / 2 ^ p.t
    let m := mag % 2 ^ p.t
    if ex = 0 then
      if fz && f != fmtE2m1 then .zero neg else .fin neg m (1 - (p.bias : Int) - p.t)
    else .fin neg (2 ^ p.t + m) ((ex : Int) - p.bias - p.t)

/-- Decode (R79): an element of `tag`, CB4 through the entries of the pattern book. -/
def decodeElem (book : Nat → Nat → Nat) (bits : Nat) (tag : Tag) (fz : Bool) : Val :=
  let f := tagFmt tag
  let k : Int := (tagScale tag : Int) - 127
  if f = fmtCb4 then decodeFloat fmtBf16 (book (tagScale tag) (bits % 16)) fz
  else if fmtIsInt f then (Val.ofInt (signedOf (fmtWidth f) bits)).shift k
  else (decodeFloat f bits fz).shift k

/-! ### Rounding (R65, R81) -/

/-- m / 2^d rounded to an integer, of a number with a sign; and whether it was inexact (R65). -/
def roundShift (m d : Nat) (neg : Bool) (rm : Rm) : Nat × Bool :=
  let q := m / 2 ^ d
  let r := m % 2 ^ d
  let up := match rm with
    | .rne => decide (2 ^ d < 2 * r) || (2 * r == 2 ^ d && q % 2 == 1)
    | .rtz => false
    | .rdn => neg && r != 0
    | .rup => !neg && r != 0
  (if up then q + 1 else q, r != 0)

/-- m × 2^e in units of 2^q, rounded. -/
def roundUnits (m : Nat) (e q : Int) (neg : Bool) (rm : Rm) : Nat × Bool :=
  if q ≤ e then (m * 2 ^ (e - q).toNat, false) else roundShift m (q - e).toNat neg rm

/-- A magnitude with a sign bit above it. -/
def withSign (w : Nat) (neg : Bool) (mag : Nat) : Nat := if neg then 2 ^ (w - 1) + mag else mag

/-- Bits and flags. -/
abbrev Rounded := Nat × BitVec 6

/-- The result of an overflow (R64). -/
def overflowBits (f : Nat) (neg : Bool) (rm : Rm) : Nat :=
  let p := floatFmt f
  let big := match p.inf with
    | none => p.maxBits
    | some i =>
      match rm with
      | .rne => i
      | .rtz => p.maxBits
      | .rdn => if neg then i else p.maxBits
      | .rup => if neg then p.maxBits else i
  withSign p.w neg big

/-- A finite value that is not zero into a floating format, already divided by the scale (R81). -/
def roundFloat (f : Nat) (neg : Bool) (m : Nat) (e : Int) (rm : Rm) (fz : Bool) : Rounded :=
  let p := floatFmt f
  let emin : Int := 1 - (p.bias : Int)
  let l := log2Of m e
  if fz && f != fmtE2m1 && decide (l < emin) then (withSign p.w neg 0, flagUF ||| flagNX)
  else
    let qmin := emin - p.t
    let q := if l - p.t < qmin then qmin else l - p.t
    let (n, inexact) := roundUnits m e q neg rm
    let mag := (q - qmin).toNat * 2 ^ p.t + n
    if p.maxBits < mag then (overflowBits f neg rm, flagOF ||| flagNX)
    else (withSign p.w neg mag,
      if inexact then (if l < emin then flagNX ||| flagUF else flagNX) else 0)

/-- The bounds of an integer format as two's complement (R64). -/
def intBound (f : Nat) (neg : Bool) : Nat :=
  let w := fmtWidth f
  if neg then 2 ^ (w - 1) else 2 ^ (w - 1) - 1

/-- A finite value into an integer format, already divided by the scale (R64, R81). -/
def roundInt (f : Nat) (neg : Bool) (m : Nat) (e : Int) (rm : Rm) : Rounded :=
  let w := fmtWidth f
  let (n, inexact) := roundUnits m e 0 neg rm
  if (if neg then 2 ^ (w - 1) < n else 2 ^ (w - 1) ≤ n) then (intBound f neg, flagNV)
  else ((if neg then 2 ^ w - n else n) % 2 ^ w, if inexact then flagNX else 0)

/-- "NaN in" of R64: the canonical NaN, or 0 with NV. -/
def nanResult (f : Nat) : Rounded :=
  if fmtIsInt f then (0, flagNV)
  else match (floatFmt f).nan with
    | some n => (n, 0)
    | none => (0, flagNV)

/-- "±∞ in" of R64. -/
def infResult (f : Nat) (neg : Bool) : Rounded :=
  if fmtIsInt f then (intBound f neg, flagNV)
  else match (floatFmt f).inf with
    | some i => (withSign (floatFmt f).w neg i, 0)
    | none => (withSign (floatFmt f).w neg (floatFmt f).maxBits, flagOF)

/-- RoundTo (R81) into any format but CB4. -/
def roundTo (x : Val) (f k : Nat) (rm : Rm) (fz : Bool) : Rounded :=
  match x with
  | .nan _ => nanResult f
  | .inf s => infResult f s
  | .fin s m e =>
    if m = 0 then (if fmtIsInt f then 0 else withSign (floatFmt f).w s 0, 0)
    else
      let e' := e - ((k : Int) - 127)
      if fmtIsInt f then roundInt f s m e' rm else roundFloat f s m e' rm fz

/-! ### Order and nearness of values -/

/-- ±m × 2^e as an integer multiple of 2^q, for q ≤ e. -/
def scaledInt (neg : Bool) (m : Nat) (e q : Int) : Int :=
  let n : Int := (m * 2 ^ (e - q).toNat : Nat)
  if neg then -n else n

/-- Is a finite value below another, numerically? -/
def finLt (s1 : Bool) (m1 : Nat) (e1 : Int) (s2 : Bool) (m2 : Nat) (e2 : Int) : Bool :=
  let q := if e1 < e2 then e1 else e2
  decide (scaledInt s1 m1 e1 q < scaledInt s2 m2 e2 q)

/-- Is a value below another, numerically (a NaN never is, and +0 = −0)? -/
def Val.lt : Val → Val → Bool
  | .nan _, _ => false
  | _, .nan _ => false
  | .inf s, .inf t => s && !t
  | .inf s, .fin _ _ _ => s
  | .fin _ _ _, .inf t => !t
  | .fin s1 m1 e1, .fin s2 m2 e2 => finLt s1 m1 e1 s2 m2 e2

/-- Are two values equal, numerically? -/
def Val.eqv (a b : Val) : Bool := !a.isNan && !b.isNan && !a.lt b && !b.lt a

/-- |a − b| of two finite values, in units of a power of two. -/
def finDist (s1 : Bool) (m1 : Nat) (e1 : Int) (s2 : Bool) (m2 : Nat) (e2 q : Int) : Nat :=
  (scaledInt s1 m1 e1 q - scaledInt s2 m2 e2 q).natAbs

/-- The exponent below which no entry of BF16, nor a given one, has a bit. -/
def lowExp (e : Int) : Int := if e < -200 then e else -200

/-- The distance of a finite value to another value, none when the other is not finite. -/
def distTo (s : Bool) (m : Nat) (e : Int) (v : Val) : Option Nat :=
  match v with
  | .fin s2 m2 e2 => some (finDist s m e s2 m2 e2 (lowExp e))
  | _ => none

/-- The lowest index among `l` (numbered from `i`) with the least key, where there is a key. -/
def leastIdx : List (Option Nat) → Nat → Option (Nat × Nat) → Option (Nat × Nat)
  | [], _, best => best
  | none :: r, i, best => leastIdx r (i + 1) best
  | some d :: r, i, none => leastIdx r (i + 1) (some (i, d))
  | some d :: r, i, some (j, b) => leastIdx r (i + 1) (if d < b then some (i, d) else some (j, b))

/-- The index of the first value that passes a test, numbered from `i`. -/
def firstIdx (p : Val → Bool) : List Val → Nat → Option Nat
  | [], _ => none
  | v :: r, i => if p v then some i else firstIdx p r (i + 1)

/-- The greatest (or least) value that is not a NaN. -/
def extreme (greatest : Bool) : List Val → Option Val → Option Val
  | [], b => b
  | v :: r, b =>
    if v.isNan then extreme greatest r b
    else match b with
      | none => extreme greatest r (some v)
      | some x => extreme greatest r (if (if greatest then x.lt v else v.lt x) then some v else b)

/-- The 16 entries of a slot as values, with FZ = 0 (R82). -/
def bookVals (book : Nat → Nat → Nat) (slot : Nat) : List Val :=
  (List.range 16).map (fun c => decodeFloat fmtBf16 (book slot c) false)

/-- RoundTo into CB4 (R82). A zero that meets an entry which is a zero of the other sign is exact and sets no NX (log 27). DESIGN CHOICE
(log 27): a NaN under a slot whose entries are all NaN sets NV, by the last row of the table. -/
def roundCb4 (x : Val) (es : List Val) : Rounded :=
  if es.all Val.isNan then (0, flagNV)
  else
    match x with
    | .nan _ =>
      match firstIdx Val.isNan es 0 with
      | some i => (i, 0)
      | none => (0, flagNV)
    | .inf s =>
      match firstIdx (fun v => v == .inf s) es 0 with
      | some i => (i, 0)
      | none =>
        match extreme (!s) es none with
        | some b => ((firstIdx (fun v => v.eqv b) es 0).getD 0, flagOF)
        | none => (0, flagNV)
    | .fin s m e =>
      match leastIdx (es.map (distTo s m e)) 0 none with
      | some (i, d) => (i, if d = 0 then 0 else flagNX)
      | none =>
        match firstIdx (fun v => v == .inf s) es 0 with
        | some i => (i, flagOF ||| flagNX)
        | none => ((firstIdx (fun v => v == .inf (!s)) es 0).getD 0, flagOF ||| flagNX)

/-- RoundTo into any format: for CB4 the scale argument is the slot (R81, R82). -/
def roundAny (book : Nat → Nat → Nat) (x : Val) (f k : Nat) (rm : Rm) (fz : Bool) : Rounded :=
  if f = fmtCb4 then roundCb4 x (bookVals book k) else roundTo x f k rm fz

/-! ### Scale selection (R88) -/

/-- The greatest floor(log2 |v|) over the finite values that are not zero. -/
def maxLog2 : List Val → Option Int → Option Int
  | [], b => b
  | .fin _ m e :: r, b =>
    if m = 0 then maxLog2 r b
    else match b with
      | none => maxLog2 r (some (log2Of m e))
      | some x => maxLog2 r (some (if x < log2Of m e then log2Of m e else x))
  | _ :: r, b => maxLog2 r b

/-- ScaleFor (R88). -/
def scaleFor (vs : List Val) (rf : Nat) : Nat :=
  if rf = fmtFp32 ∨ rf = fmtBf16 ∨ rf = fmtFp16 ∨ rf = fmtInt32 then 127
  else
    match maxLog2 vs none with
    | none => 127
    | some l =>
      let x : Int := 127 + l - fmtEmax rf
      if x < 0 then 0 else if 254 < x then 254 else x.toNat

/-! ### Operations on exact values (R80) -/

/-- NV for a signalling NaN among the inputs (R63). -/
def snanFlags (vs : List Val) : BitVec 6 := if vs.any Val.isSnan then flagNV else 0

/-- The sum of two finite values; an exact zero of opposite signs is −0 in RDN alone (R65). -/
def finAdd (s1 : Bool) (m1 : Nat) (e1 : Int) (s2 : Bool) (m2 : Nat) (e2 : Int) (rm : Rm) : Val :=
  if m1 = 0 ∧ m2 = 0 then .zero (if s1 = s2 then s1 else decide (rm = .rdn))
  else if m1 = 0 then .fin s2 m2 e2
  else if m2 = 0 then .fin s1 m1 e1
  else
    let q := if e1 < e2 then e1 else e2
    let i := scaledInt s1 m1 e1 q + scaledInt s2 m2 e2 q
    if i = 0 then .zero (decide (rm = .rdn)) else .fin (decide (i < 0)) i.natAbs q

/-- a + b (R80). -/
def valAdd (rm : Rm) (a b : Val) : Val × BitVec 6 :=
  match a, b with
  | .nan _, _ => (.nan false, snanFlags [a, b])
  | _, .nan _ => (.nan false, snanFlags [a, b])
  | .inf s, .inf t => if s = t then (.inf s, 0) else (.nan false, flagNV)
  | .inf s, .fin _ _ _ => (.inf s, 0)
  | .fin _ _ _, .inf t => (.inf t, 0)
  | .fin s1 m1 e1, .fin s2 m2 e2 => (finAdd s1 m1 e1 s2 m2 e2 rm, 0)

/-- a − b (R80). -/
def valSub (rm : Rm) (a b : Val) : Val × BitVec 6 := valAdd rm a b.negate

/-- a × b (R80). -/
def valMul (a b : Val) : Val × BitVec 6 :=
  match a, b with
  | .nan _, _ => (.nan false, snanFlags [a, b])
  | _, .nan _ => (.nan false, snanFlags [a, b])
  | .inf s, .inf t => (.inf (s != t), 0)
  | .inf s, .fin t m _ => if m = 0 then (.nan false, flagNV) else (.inf (s != t), 0)
  | .fin s m _, .inf t => if m = 0 then (.nan false, flagNV) else (.inf (s != t), 0)
  | .fin s1 m1 e1, .fin s2 m2 e2 =>
    if m1 = 0 ∨ m2 = 0 then (.zero (s1 != s2), 0) else (.fin (s1 != s2) (m1 * m2) (e1 + e2), 0)

/-- a × b + c with no rounding between; 0 × ∞ sets NV even when c is a NaN (R80, R84, R128). -/
def valFma (rm : Rm) (a b c : Val) : Val × BitVec 6 :=
  if a.isNan || b.isNan then (.nan false, snanFlags [a, b, c])
  else
    let (p, f1) := valMul a b
    if p.isNan then (p, f1) else valAdd rm p c

/-- Fractional bits kept of a quotient. -/
def divBits : Nat := 1100

/-- The quotient of two finite values that are not zero: exact, or between its neighbours. -/
def finDiv (s1 : Bool) (m1 : Nat) (e1 : Int) (s2 : Bool) (m2 : Nat) (e2 : Int) : Val :=
  let n := m1 * 2 ^ divBits
  let q := n / m2
  if n % m2 = 0 then .fin (s1 != s2) q (e1 - e2 - divBits)
  else .fin (s1 != s2) (2 * q + 1) (e1 - e2 - divBits - 1)

/-- a ÷ b (R80). -/
def valDiv (a b : Val) : Val × BitVec 6 :=
  match a, b with
  | .nan _, _ => (.nan false, snanFlags [a, b])
  | _, .nan _ => (.nan false, snanFlags [a, b])
  | .inf _, .inf _ => (.nan false, flagNV)
  | .inf s, .fin t _ _ => (.inf (s != t), 0)
  | .fin s _ _, .inf t => (.zero (s != t), 0)
  | .fin s1 m1 e1, .fin s2 m2 e2 =>
    if m2 = 0 then (if m1 = 0 then (.nan false, flagNV) else (.inf (s1 != s2), flagDZ))
    else if m1 = 0 then (.zero (s1 != s2), 0)
    else (finDiv s1 m1 e1 s2 m2 e2, 0)

/-- floor(√n), bit by bit from 2^b downward; `r` is the root so far. -/
def isqrtFrom (n : Nat) : Nat → Nat → Nat
  | 0, r => r
  | b + 1, r =>
    let c := r + 2 ^ b
    isqrtFrom n b (if c * c ≤ n then c else r)

/-- floor(√n). -/
def isqrt (n : Nat) : Nat := isqrtFrom n (Nat.log2 n / 2 + 1) 0

/-- The root of a positive finite value: exact, or between its neighbours. -/
def finSqrt (m : Nat) (e : Int) : Val :=
  let (m', e') := if e % 2 = 0 then (m, e) else (2 * m, e - 1)
  let n := m' * 2 ^ 1400
  let r := isqrt n
  if r * r = n then .fin false r (e' / 2 - 700) else .fin false (2 * r + 1) (e' / 2 - 701)

/-- √a (R80). -/
def valSqrt (a : Val) : Val × BitVec 6 :=
  match a with
  | .nan q => (.nan false, if q then flagNV else 0)
  | .inf s => if s then (.nan false, flagNV) else (.inf false, 0)
  | .fin s m e =>
    if m = 0 then (.zero s, 0) else if s then (.nan false, flagNV) else (finSqrt m e, 0)

/-! ### Integer results (R98) -/

/-- An exact value that is an integer, as an integer; other values read 0. -/
def Val.toInt : Val → Int
  | .fin s m e =>
    let n : Int := if 0 ≤ e then (m * 2 ^ e.toNat : Nat) else (m / 2 ^ (-e).toNat : Nat)
    if s then -n else n
  | _ => 0

/-- IntegerResult (R98): the integer modulo 2^32, then modulo 2^8 for INT8, or rounded into a floating format with
SCALE 127, or into CB4 through a slot (R87). -/
def integerResult (book : Nat → Nat → Nat) (i : Int) (rf k : Nat) (rm : Rm) (fz : Bool) : Rounded :=
  let n := (i % 2 ^ 32).toNat
  if rf = fmtInt32 then (n, 0)
  else if rf = fmtInt8 then (n % 256, 0)
  else if rf = fmtCb4 then roundCb4 (Val.ofInt (signedOf 32 n)) (bookVals book k)
  else roundTo (Val.ofInt (signedOf 32 n)) rf 127 rm fz

/-! ### The promotion lattice (R83 to R85) -/

/-- The reset lattice, row by row (R85). -/
def resetRows : List (List (BitVec 16)) :=
  [[0x8000, 0x8000, 0x8000, 0x8000, 0x8000, 0x8000, 0x8000, 0x8000, 0x8000, 0x8000],
   [0x8000, 0x0420, 0x0420, 0x0420, 0x0420, 0x0420, 0x0420, 0x0420, 0x0420, 0x0420],
   [0x8000, 0x0420, 0x0820, 0x0820, 0x0820, 0x0820, 0x0820, 0x0820, 0x0420, 0x0820],
   [0x8000, 0x0420, 0x0820, 0x0C20, 0x0C20, 0x0C20, 0x0C20, 0x0C20, 0x0420, 0x0820],
   [0x8000, 0x0420, 0x0820, 0x0C20, 0x1020, 0x8000, 0x1020, 0x0820, 0x0420, 0x0820],
   [0x8000, 0x0420, 0x0820, 0x0C20, 0x8000, 0x1420, 0x1420, 0x0820, 0x0420, 0x0820],
   [0x8000, 0x0420, 0x0820, 0x0C20, 0x1020, 0x1420, 0x1820, 0x0820, 0x0420, 0x0820],
   [0x8000, 0x0420, 0x0820, 0x0C20, 0x0820, 0x0820, 0x0820, 0x1C30, 0x0420, 0x0820],
   [0x8000, 0x0420, 0x0420, 0x0420, 0x0420, 0x0420, 0x0420, 0x0420, 0x2100, 0x0420],
   [0x8000, 0x0420, 0x0820, 0x0820, 0x0820, 0x0820, 0x0820, 0x0820, 0x0420, 0x0820]]

/-- An entry of the reset lattice; other pairs forbid (R85). -/
def resetEntry (fa fb : Nat) : BitVec 16 := (resetRows.getD fa []).getD fb 0x8000

/-- An entry of a lattice that holds the entries LATW has written since the reset (R83, R85). -/
def latticeEntry (l : List (Nat × BitVec 16)) (fa fb : Nat) : BitVec 16 :=
  match l.find? (fun e => e.1 == fa * 16 + fb) with
  | some e => e.2
  | none => resetEntry fa fb

/-- FORBID, bit 15. -/
def leForbid (e : BitVec 16) : Bool := e.getLsbD 15
/-- RF, bits [14:10]. -/
def leRf (e : BitVec 16) : Nat := e.toNat / 1024 % 32
/-- CF, bits [9:5]. -/
def leCf (e : BitVec 16) : Nat := e.toNat / 32 % 32
/-- MI, bit 4. -/
def leMi (e : BitVec 16) : Bool := e.getLsbD 4

/-- An index is valid: both formats are 0 to 9 (R83). -/
def latIdxOk (w : Word) : Bool := decide (w.toNat / 16 % 16 ≤ 9) && decide (w.toNat % 16 ≤ 9)

/-- An entry is valid for a pair (R83). -/
def latEntryOk (fa fb : Nat) (v : Word) : Bool :=
  let e : BitVec 16 := v.setWidth 16
  decide (v.toNat < 2 ^ 16) && decide (e.toNat % 16 = 0) &&
    (if leForbid e then e == 0x8000
     else decide (1 ≤ leRf e) && decide (leRf e ≤ 8) && (leCf e == 1 || leCf e == 8) &&
      (leCf e != 8 || (fmtIsInt fa && fmtIsInt fb && fmtIsInt (leRf e))) &&
      (!leMi e || (fmtIsInt fa && fmtIsInt fb)))

/-- The lookup of the sources of one segment (R84): FORBID, integer arithmetic, RF, and which source completes a
forbidden pair (R73). -/
structure Look where
  forbid : Bool
  int : Bool
  rf : Nat
  bad : Nat
deriving DecidableEq, Repr

/-- LatticeLookup (R84). -/
def latticeLookup (l : List (Nat × BitVec 16)) (fs : List Nat) : Look :=
  match fs with
  | [fa] =>
    let e := latticeEntry l fa fa
    ⟨leForbid e, leCf e == 8, leRf e, 0⟩
  | [fa, fb] =>
    let e := latticeEntry l fa fb
    ⟨leForbid e, leCf e == 8, leRf e, 1⟩
  | fa :: fb :: fc :: _ =>
    let e1 := latticeEntry l fa fb
    let e2 := latticeEntry l (leRf e1) fc
    ⟨leForbid e1 || leForbid e2, leCf e1 == 8 && leCf e2 == 8, leRf e2, if leForbid e1 then 1 else 2⟩
  | [] => ⟨true, false, 0, 0⟩

end Sys2Proof.Machine
end

