-- ==== Sys2Proof/Machine/LineForm.lean ====
section
/-! DEFINITION. Machine/LineForm.lean: the elements of a line and their conversion (R69, R70, R91, R92), the line that a
Fuller makes (R220), and what one write makes of the line beneath it (R60, R91, R93, R149, R163, R220). -/

namespace Sys2Proof.Machine

/-! ### Slots, formats and the pattern book -/

/-- Slot `j` of a segment under a width. -/
def slotOf (w : Nat) (b : LineBits) (j : Nat) : Nat := b.toNat / 2 ^ (w * j) % 2 ^ w

/-- The slots of a segment as one number. -/
def packSlots (w : Nat) (l : List Nat) : LineBits :=
  BitVec.ofNat 512 (l.foldr (fun x n => x % 2 ^ w + 2 ^ w * n) 0)

/-- Is an FMT and SCALE decodable (R73 step 2)? -/
def fmtOk (t : Tag) : Bool :=
  fmtHasElems (tagFmt t) && !(fmtScaled (tagFmt t) && tagScale t == 255) && !(tagFmt t == fmtInt32 && tagScale t != 127)

/-- A slot of the pattern book. -/
def Core.bookSlot (k : Core) (i : Nat) : BookSlot := tabGet ⟨.unloaded, 0, 0, 0, 0⟩ k.book i

/-- The entries of the book, as Decode reads them (R75). -/
def bookOf (k : Core) (slot c : Nat) : Nat := (k.bookSlot slot).entries.toNat / 2 ^ (16 * c) % 2 ^ 16

/-! ### Whole lines -/

/-- May an RC line hold a format (R69)? -/
def rcFormat (f : Nat) : Bool := (f ≥ 2 && f ≤ 7) || f == 9

/-- A line of which only the first `n` bits are kept. -/
def keepBits (n : Nat) (b : LineBits) : LineBits := BitVec.ofNat 512 (b.toNat % 2 ^ n)

/-- The bits that a line of a format occupies on an RC page; the others are not stored (R69). -/
def rcSpan (rc : Bool) (t : Tag) (b : LineBits) : LineBits :=
  if rc && fmtWidth (tagFmt t) != 0 then keepBits (32 * fmtWidth (tagFmt t)) b else b

/-- The elements of a line as exact values, FZ = 0. -/
def lineVals (book : Nat → Nat → Nat) (t : Tag) (n : Nat) (b : LineBits) : List Val :=
  (List.range n).map (fun j => decodeElem book (slotOf (fmtWidth (tagFmt t)) b j) t false)

/-- The `n` elements of a line converted to a format as R92 states, RNE and FZ = 0 with no flag; CB4 through slot 255. -/
def convertLine (book : Nat → Nat → Nat) (f n : Nat) (t : Tag) (b : LineBits) : LineBits × Tag :=
  let vs := lineVals book t n b
  let k := if f = fmtCb4 then 255 else scaleFor vs f
  (packSlots (fmtWidth f) (vs.map (fun v => (roundAny book v f k .rne false).1)), mkTag f 0 k)

/-- The format of a store-format policy (R92). -/
def policyFmt : Nat → Nat
  | 1 => fmtBf16
  | 2 => fmtE4m3
  | 3 => fmtE2m1
  | _ => fmtCb4

/-- The width of a line's elements; RAW and the reserved formats count as `w` (R141). -/
def lineWidth (t : Tag) (w : Nat) : Nat := if fmtWidth (tagFmt t) = 0 then w else fmtWidth (tagFmt t)

/-- Elements of a line (R141). -/
def lineElemsOf (t : Tag) (mark : Bool) (w : Nat) : Nat := if mark then 32 else 512 / lineWidth t w

/-! ### Parts of lines -/

/-- An element rounded into a line's format, saturating (R91). -/
def saturate (book : Nat → Nat → Nat) (v : Val) (f k : Nat) : Nat :=
  if f = fmtCb4 then (roundCb4 v (bookVals book k)).1
  else
    let (b, fl) := match v with
      | .inf s => if fmtIsInt f then (intBound f s, 0) else (overflowBits f s .rtz, 0)
      | _ => roundTo v f k .rne false
    if fl &&& flagOF ≠ 0 then overflowBits f v.neg .rtz else b

/-- The bytes of a line that elements `i` to `i + n − 1` of width `w` touch. -/
def elemBytes (w i n : Nat) : BitVec 64 :=
  if n = 0 then 0 else byteMask (i * w / 8) ((i + n) * w / 8 - i * w / 8 + (if (i + n) * w % 8 = 0 then 0 else 1))

/-- Elements of a line replaced from element `i` up. -/
def putElems (w : Nat) (b : LineBits) (i : Nat) : List Nat → LineBits
  | [] => b
  | v :: r => putElems w (BitVec.ofNat 512 (b.toNat - slotOf w b i * 2 ^ (w * i) + v % 2 ^ w * 2 ^ (w * i))) (i + 1) r

/-! ### The Fuller -/

/-- The Fuller's CB4 table: FCB0 to FCB3 as slot 255 (R220, R226). -/
def fullerTable (x : Guest) : BitVec 256 :=
  (x.reg 0x478 ++ x.reg 0x470 ++ x.reg 0x468 ++ x.reg 0x460 : BitVec (64 + 64 + 64 + 64)).cast (by decide)

/-- The entries of a CB4 table, whatever the slot. -/
def tableBook (t : BitVec 256) (_ c : Nat) : Nat := t.toNat / 2 ^ (16 * c) % 2 ^ 16

/-- Does a line change under a POLICY (R220)? -/
def recodes (policy : Nat) (i : LineImg) : Bool :=
  i.mark && decide (tagClass i.tag = 0) && decide (tagFmt i.tag ≠ policyFmt policy) && fmtOk i.tag &&
    (tagFmt i.tag != fmtCb4 || tagScale i.tag == 255)

/-- A line recoded as R92 converts a full-line store (R220). -/
def recodeImg (table : BitVec 256) (policy : Nat) (i : LineImg) : LineImg :=
  let (b, t) := convertLine (tableBook table) (policyFmt policy) 32 i.tag i.bits
  ⟨rcSpan true t b, t, true⟩

/-! ### Writes in their order (R93) -/

/-- Bytes of an RC line of a format that are stored (R69). -/
def spanBytes (t : Tag) : Nat := if fmtWidth (tagFmt t) = 0 then 64 else Nat.min 64 (4 * fmtWidth (tagFmt t))

/-- Does a line take a store of RAW bytes, made through an RC page or not: a VALID line, or an UNINIT one of a page that is not RC
(R60)? -/
def takesRaw (rc : Bool) (i : LineImg) : Bool := tagClass i.tag == 0 || (tagClass i.tag == 1 && !rc)

/-- A partial-line store of RAW bytes in its place in line order (R60, R91): it makes an UNINIT line RAW, with zero in the
other bytes; a VALID line keeps its tag, and through an RC page the bytes beyond the line's span are discarded; any other line
stays as it is. DESIGN CHOICE (log 46): a line of HBM that is stored through a page that is not RC has no RC span from then on. -/
def applyPart (i : LineImg) (bits : LineBits) (mask : BitVec 64) (mark : Option Bool) : LineImg :=
  let rc := mark == some true
  if takesRaw rc i = false then i
  else if tagClass i.tag = 1 then ⟨mergeLine 0 bits mask, Config.tagRaw, false⟩
  else ⟨mergeLine i.bits bits (if rc then mask &&& byteMask 0 (spanBytes i.tag) else mask), i.tag, i.mark && mark.getD true⟩

/-- The pattern book that a typed store converts through: the tables it has read, and the rest of the core's book (R91). -/
def storedBook (tables : Tab (BitVec 256)) (book : Nat → Nat → Nat) (slot c : Nat) : Nat :=
  match tabFind tables slot with
  | some t => tableBook t slot c
  | none => book slot c

/-- Does a line take a store of typed data: UNINIT, or VALID in a format that holds the elements (R60, R91)? -/
def takesTyped (t : Tag) (first count : Nat) (rc : Bool) (i : LineImg) : Bool :=
  if tagClass i.tag = 1 then !rc || (rcFormat (tagFmt t) && decide (first + count ≤ 32))
  else decide (tagClass i.tag = 0) && fmtOk i.tag &&
    (if rc then decide (first + count ≤ 32) else fmtWidth (tagFmt t) == fmtWidth (tagFmt i.tag))

/-- A partial-line store of typed data in its place in line order (R60, R91): an UNINIT line takes the elements as they are,
under their FMT and SCALE, with zero in the others; into a VALID line each element is converted once, by the format and SCALE
that the line has there. A line that refuses the data stays as it is (log 46). -/
def applyTyped (book : Nat → Nat → Nat) (t : Tag) (first count : Nat) (rc : Bool) (i : LineImg) (bits : LineBits)
    (mark : Option Bool) : LineImg :=
  let w := fmtWidth (tagFmt t)
  if takesTyped t first count rc i = false then i
  else if tagClass i.tag = 1 then
    ⟨putElems w 0 first ((List.range count).map (slotOf w bits)), mkTag (tagFmt t) 0 (tagScale t), mark.getD i.mark⟩
  else
    let es := (lineVals book t count bits).map (fun x => saturate book x (tagFmt i.tag) (tagScale i.tag))
    ⟨putElems (fmtWidth (tagFmt i.tag)) i.bits first es, i.tag, i.mark && mark.getD true⟩

/-- TSET in its place in line order (R69, R163): the data stay, an UNINIT line has zero data, and the bytes beyond an RC
line's new span read as zero; a POISON, REVOKED or reserved line stays as it is. -/
def applyRetag (rc : Bool) (i : LineImg) (t : Tag) (mark : Option Bool) : LineImg :=
  if tagClass i.tag = 1 then ⟨0, t, mark.getD i.mark⟩
  else if tagClass i.tag ≠ 0 then i
  else ⟨rcSpan rc t i.bits, t, mark.getD i.mark⟩

/-- A scattered element in its place in line order (R149). A line whose tag it changes has its span mark clear (R141); DESIGN
CHOICE (log 28): a line of the same tag keeps its mark, since the element does not produce that line. -/
def applyElem (tc : Tag) (i : LineImg) (bits : LineBits) (mask : BitVec 64) : LineImg :=
  if tagClass tc ≠ 0 then ⟨mergeLine i.bits bits mask, tc, false⟩
  else if tagClass i.tag = 1 then ⟨mergeLine 0 bits mask, tc, false⟩
  else if tagClass i.tag ≠ 0 then i
  else if i.tag = tc then ⟨mergeLine i.bits bits mask, i.tag, i.mark⟩
  else ⟨mergeLine i.bits bits mask, Config.tagRaw, false⟩

/-- A recoding in its place in line order (R220, R261). -/
def applyRecode (table : BitVec 256) (policy : Nat) (i : LineImg) : LineImg :=
  if recodes policy i then recodeImg table policy i else i

/-- A change that a write makes to a line: the bytes, the tag that a whole write or a TSET sets, and how it meets the
line in its place in line order. -/
structure Change where
  mask : BitVec 64
  bits : LineBits
  tag : Option Tag
  kind : WriteKind
deriving DecidableEq, Repr

/-- A line after a change, with the mark that a whole write sets; no bytes beyond an RC line's span are stored (R69). `book` is
the writer's pattern book, which a typed store converts through (R91). -/
def applyChange (book : Nat → Nat → Nat) (ch : Change) (mark : Option Bool) (i : LineImg) : LineImg :=
  match ch.kind with
  | .plain =>
    let t := ch.tag.getD i.tag
    let m := mark.getD i.mark
    ⟨rcSpan m t (mergeLine i.bits ch.bits ch.mask), t, m⟩
  | .part => applyPart i ch.bits ch.mask mark
  | .typed t first count rc tables => applyTyped (storedBook tables book) t first count rc i ch.bits mark
  | .retag rc => applyRetag rc i (ch.tag.getD i.tag) mark
  | .scatter tc => applyElem tc i ch.bits ch.mask
  | .recode policy => applyRecode (ch.bits.setWidth 256) policy i

/-- A write applied to a line. -/
def applyRec (book : Nat → Nat → Nat) (i : LineImg) (r : WriteRec) : LineImg :=
  applyChange book ⟨r.mask, r.bits, r.tag, r.kind⟩ r.mark i

end Sys2Proof.Machine
end

