-- ==== Sys2Proof/Machine/Views.lean ====
section
/-! DEFINITION. Machine/Views.lean: the writes to a line in line order, publication, views, and what a party reads
(R248 to R263).

State.writes holds the published writes in the order in which they joined the image and then the pending writes in grant order.
That is their line order, but for a write that goes before others (WriteRec.ahead). A write that is published at system scope and
stands in every view is folded into the line itself. -/

namespace Sys2Proof.Machine

/-- The rank of a scope in core ⊂ gang ⊂ guest ⊂ system (R249). -/
def scopeRank : Scope → Nat
  | .core => 0 | .gang => 1 | .guest => 2 | .system => 3

/-- The scope that SC names (R41, R249). -/
def scopeOfSc (n : Nat) : Scope :=
  match n with
  | 0 => .gang | 1 => .core | 2 => .guest | _ => .system

/-! ### Lines -/

/-- A line as every party sees it that has no later write in view (R250, R203). -/
def baseImg (s : State) (l : Loc) : LineImg :=
  match l.space with
  | .hbm => ⟨BitVec.ofNat 512 (memRead s.mem (64 * l.line) 64), tabGet Config.tagUninit s.tags l.line,
      decide (l.line ∈ s.spans)⟩
  | .host => ⟨BitVec.ofNat 512 (memRead s.hostMem (64 * l.line) 64), Config.tagRaw, false⟩
  | .peer => ⟨BitVec.ofNat 512 (memRead s.peerMem (64 * l.line) 64), tabGet Config.tagRaw s.peerTags l.line, false⟩
  | .sp c =>
    let k := s.core c
    ⟨BitVec.ofNat 512 (memRead k.sp (64 * l.line) 64), tabGet Config.tagRaw k.spTags l.line,
      decide (l.line ∈ k.spMarks)⟩

/-- Set membership in a list. -/
def setMark (l : List Nat) (n : Nat) (b : Bool) : List Nat := if b then listAdd l n else listDel l n

/-- Set a line (R203, R206). Host lines carry no tag. -/
def setBase (l : Loc) (i : LineImg) (s : State) : State :=
  match l.space with
  | .hbm => { s with mem := memWrite s.mem (64 * l.line) 64 i.bits.toNat, tags := tabPut s.tags l.line i.tag,
                     spans := setMark s.spans l.line i.mark }
  | .host => { s with hostMem := memWrite s.hostMem (64 * l.line) 64 i.bits.toNat }
  | .peer => { s with peerMem := memWrite s.peerMem (64 * l.line) 64 i.bits.toNat, peerTags := tabPut s.peerTags l.line i.tag }
  | .sp c => s.modCore c (fun k => { k with
      sp := memWrite k.sp (64 * l.line) 64 i.bits.toNat
      spTags := tabPut k.spTags l.line i.tag
      spMarks := setMark k.spMarks l.line i.mark
      dirty := listAdd k.dirty (l.line / 64) })

/-- The pattern book of the core that made a write. -/
def writerBook (s : State) (r : WriteRec) : Nat → Nat → Nat :=
  match r.writer with
  | some p => bookOf (s.core p.core)
  | none => fun _ _ => 0

/-- A write in its place in a line order: last, or before the first of the writes that it goes before. -/
def WriteRec.place (l : List WriteRec) (r : WriteRec) : List WriteRec :=
  let before := fun (x : WriteRec) => r.ahead.all (fun i => i != x.id)
  l.takeWhile before ++ r :: l.dropWhile before

/-- Writes in line order (R250, R261). -/
def lineOrder (l : List WriteRec) : List WriteRec := l.foldl WriteRec.place []

/-- The writes to a line, in line order. -/
def lineWrites (s : State) (l : Loc) : List WriteRec := lineOrder (s.writes.filter (fun r => decide (r.loc = l)))

/-- The image of a line under the writes that a test selects, in line order (R253). -/
def imageOf (s : State) (sel : WriteRec → Bool) (l : Loc) : LineImg :=
  ((lineWrites s l).filter sel).foldl (fun i r => applyRec (writerBook s r) i r) (baseImg s l)

/-- What a path reads: the published writes in its view, then its own core's pending writes (R253). -/
def viewImg (s : State) (p : Party) (l : Loc) : LineImg := imageOf s (fun r => decide (p ∈ r.viewers)) l

/-- Is a write published at a scope or wider? -/
def WriteRec.pubAt (r : WriteRec) (sc : Scope) : Bool :=
  match r.pub with
  | none => false
  | some x => decide (scopeRank sc ≤ scopeRank x)

/-- The published image at the home, for walks, the host through the guest's function and the Fuller (R250). -/
def homeImg (s : State) (l : Loc) : LineImg := imageOf s (fun r => r.pubAt .guest) l

/-- The published image for the host's own agents and peers (R249). -/
def systemImg (s : State) (l : Loc) : LineImg := imageOf s (fun r => r.pubAt .system) l

/-- Every write to the line applied, pending ones in grant order: the line after all of them. -/
def latestImg (s : State) (l : Loc) : LineImg := imageOf s (fun r => r.performed) l

/-! ### Gangs and parties -/

/-- The paths of a core (R248). -/
def corePaths : List Path := [.a, .x, .c, .m]

/-- The paths of a core as parties. -/
def partiesOf (c : Nat) : List Party := corePaths.map (fun p => ⟨c, p⟩)

/-- The sub-gang of a placement, as the sub-gangs joined at each split (R287). -/
def Place.path (p : Place) : List Nat := p.splits.map Split.sub

/-- Do two cores run members of one gang as it stands (R249, R287)? -/
def sameGang (a b : Core) : Bool :=
  match a.place, b.place with
  | some p, some q => decide (a.guest = b.guest) && decide (p.job = q.job) && decide (p.path = q.path)
  | _, _ => false

/-- Do two cores run members of one gang as it was placed? -/
def sameJobGang (a b : Core) : Bool :=
  match a.place, b.place with
  | some p, some q => decide (a.guest = b.guest) && decide (p.job = q.job)
  | _, _ => false

/-- The cores that run members of a core's gang as it stands (R249). -/
def gangCores (s : State) (c : Nat) : List Nat :=
  (s.cores.filter (fun e => sameGang (s.core c) e.2)).map (·.1)

/-- The members of a core's gang as it stands, those on cores and those that have been saved, by the numbers under which
State.writes names them (R249, R262). -/
def gangReach (s : State) (c : Nat) : List Nat :=
  gangCores s c ++ ((s.guest (s.guestOf c)).drained.flatMap (fun d =>
    (d.members.filter (fun m => sameGang (s.core c) m.core)).map Parked.park))

/-- The cores that run members of a core's gang as it was placed. -/
def jobCores (s : State) (c : Nat) : List Nat :=
  (s.cores.filter (fun e => sameJobGang (s.core c) e.2)).map (·.1)

/-- Does the scope at which a write is published contain a path (R249)? At core scope the paths need R258, but for
the C path of a core whose atomic it is (R257). -/
def reachesParty (s : State) (r : WriteRec) (p : Party) : Bool :=
  match r.pub with
  | none => false
  | some .core => false
  | some .gang => decide (p.core ∈ r.gangCores)
  | some .guest => decide ((s.core p.core).guest = some r.guest)
  | some .system => true

/-! ### Publication and views -/

/-- Published writes first, pending ones after, each part in its order. -/
def partitionWrites (l : List WriteRec) : List WriteRec :=
  l.filter (fun r => r.pub.isSome) ++ l.filter (fun r => r.pub.isNone)

/-- The wider of a publication and a scope. -/
def widen (old : Option Scope) (sc : Scope) : Option Scope :=
  match old with
  | none => some sc
  | some x => if scopeRank x < scopeRank sc then some sc else some x

/-- Add parties to the views that hold a write. -/
def WriteRec.addViewers (r : WriteRec) (ps : List Party) : WriteRec :=
  { r with viewers := ps.foldl listAdd r.viewers }

/-- The writes to a line that come after one in line order, and that one. -/
def fromWrite (s : State) (r : WriteRec) : List WriteRec := (lineWrites s r.loc).dropWhile (fun x => x.id != r.id)

/-- Every view is closed downward in line order (R252): a path that holds a published write, its own included, holds the
writes to the line published before it, where their scope contains the path. -/
def closeViews (s : State) : State :=
  { s with writes := s.writes.map (fun r =>
      if r.pub = none then r
      else r.addViewers (((((fromWrite s r).filter (fun x => x.pub.isSome)).map WriteRec.viewers).flatten).filter (reachesParty s r))) }

/-- Do two writes come from one core? -/
def WriteRec.sameCore (r x : WriteRec) : Bool := decide (r.writer.map Party.core = x.writer.map Party.core)

/-- Does a line take a write: RAW bytes need a VALID line or an UNINIT one of no RC page, typed data a format that holds its
elements (R60, R91)? -/
def WriteRec.takenBy (r : WriteRec) (i : LineImg) : Bool :=
  match r.kind with
  | .part => takesRaw (r.mark == some true) i
  | .typed t first count rc _ => takesTyped t first count rc i
  | _ => true

/-- The line that a pending write meets: the published writes, and the earlier pending ones of its core. -/
def imageUnder (s : State) (r : WriteRec) : LineImg :=
  imageOf s (fun x => x.performed && x.id != r.id && (x.pub.isSome || (x.sameCore r && decide (x.id < r.id)))) r.loc

/-- Does a pending write go before `x`, which has just joined the image of its line: a recoding converts every pending image with
the published one (R261), and a store of another core that the line would refuse after `x` was merged before it, which is the one
order of R93 that there is (log 46)? -/
def goesBefore (s : State) (x r : WriteRec) : Bool :=
  decide (r.loc = x.loc) && r.performed && r.pub.isNone && !r.sameCore x &&
    (match x.kind with
     | .recode _ => true
     | _ => !r.takenBy (imageUnder s r))

/-- A write has joined the image of its line (R93, R250, R261). -/
def joinImage (id : Nat) (s : State) : State :=
  match s.writes.find? (fun r => r.id == id) with
  | none => s
  | some x => { s with writes := s.writes.map (fun r => if goesBefore s x r then { r with ahead := r.ahead ++ [id] } else r) }

/-- Publish the performed writes that a test selects at a scope: they join the image in grant order (R250, R251, R252). -/
def publish (sel : WriteRec → Bool) (sc : Scope) (cores : List Nat) (s : State) : State :=
  let new := (s.writes.filter (fun r => sel r && r.performed && r.pub.isNone)).map WriteRec.id
  closeViews (new.foldl (fun s i => joinImage i s) { s with writes := partitionWrites (s.writes.map (fun r =>
      if sel r && r.performed then { r with pub := widen r.pub sc, gangCores := if sc = .gang then cores else r.gangCores }
      else r)) })

/-- The writes that a release at a scope carries are published at it; at core scope a write is published when it performs, and
joins no image (R250, R251, R256). -/
def publishCarried (sel : WriteRec → Bool) (sc : Scope) (cores : List Nat) (s : State) : State :=
  if sc = .core then s else publish sel sc cores s

/-- The writes that a test selects enter the views of parties. -/
def enterViews (sel : WriteRec → Bool) (ps : List Party) (s : State) : State :=
  { s with writes := s.writes.map (fun r => if sel r then r.addViewers ps else r) }

/-- The test that brings a set of writes into a view, closed downward in line order: with a write, every write
to its line published earlier at a scope that contains the path (R252). -/
def closedSel (s : State) (p : Party) (ids : List Nat) (r : WriteRec) : Bool :=
  decide (r.id ∈ ids) || (reachesParty s r p && ((fromWrite s r).any (fun x => decide (x.id ∈ ids))))

/-- Writes enter one path's view (R252). -/
def enterClosed (p : Party) (ids : List Nat) (s : State) : State := enterViews (closedSel s p ids) [p] s

/-- May a write that no rule has brought to a path enter its view all the same? Between the paths of one core a write to the own
scratchpad may be seen before any fence (R186, R269, R270, log 29), but one of the M path only after a fence (R201), and an element
scattered to a member before any boundary (R150). -/
def mayReach (r : WriteRec) (p : Party) : Bool :=
  match r.writer with
  | none => false
  | some w => decide (r.loc.space = .sp p.core) && ((decide (w.core = p.core) && decide (w.path ≠ .m)) || (match r.kind with
    | .scatter _ => true
    | _ => false))

/-- A write enters a view early, with every write to its line before it that may (R252). -/
def enterEarly (p : Party) (id : Nat) (s : State) : State :=
  match s.writes.find? (fun r => r.id == id) with
  | none => s
  | some r =>
    let upto := (lineWrites s r.loc).takeWhile (fun x => x.id != id) ++ [r]
    enterClosed p ((upto.filter (fun x => x.performed && (reachesParty s x p || mayReach x p))).map WriteRec.id) s

/-- Every write published at a scope or wider enters the views of parties that its publication reaches, with what
stands before it in line order (R252, R259). -/
def enterPublished (sc : Scope) (ps : List Party) (s : State) : State :=
  ps.foldl (fun s p =>
    enterClosed p ((s.writes.filter (fun r => r.pubAt sc && reachesParty s r p)).map WriteRec.id) s) s

/-- The cores on which a job of a guest, or any job of it, is placed. -/
def liveParties (s : State) (r : WriteRec) : List Party :=
  let cs := s.cores.filter (fun e => e.2.place.isSome &&
    (match r.loc.space with
     | .sp c => sameJobGang (s.core c) e.2
     | .hbm => decide (e.2.guest = some r.guest)
     | _ => true))
  (cs.map (fun e => partiesOf e.1)).flatten

/-- Is a line in a scratchpad? -/
def Loc.isSp (l : Loc) : Bool :=
  match l.space with
  | .sp _ => true
  | _ => false

/-- Does a location stand for the scratchpad of a drained member, by its parking number? -/
def Loc.isParked (l : Loc) : Bool :=
  match l.space with
  | .sp c => decide (Config.cores ≤ c)
  | _ => false

/-- May a write be folded into its line: published to every party that can read the line, in every view, and, when it
is a release, with nothing that it has published still outside a view (R256)? -/
def foldable (s : State) (r : WriteRec) : Bool :=
  !r.loc.isParked && (r.pubAt .system || (r.loc.isSp && r.pubAt .gang)) && (liveParties s r).all (fun p => decide (p ∈ r.viewers)) &&
    r.carries.all (fun i => s.writes.all (fun x => x.id != i))

/-- Fold the writes at the head of their line's order into the lines; the numbers of those that have been folded. -/
def compactFrom (s : State) : List WriteRec → List Loc → State × List Nat
  | [], _ => (s, [])
  | r :: rest, blocked =>
    if foldable s r && decide (r.loc ∉ blocked) then
      let (s', done) := compactFrom (setBase r.loc (applyRec (writerBook s r) (baseImg s r.loc) r) s) rest blocked
      (s', r.id :: done)
    else compactFrom s rest (r.loc :: blocked)

/-- Fold what every party already sees. -/
def compact (s : State) : State :=
  let (s', done) := compactFrom s (lineOrder s.writes) []
  { s' with writes := s.writes.filter (fun r => decide (r.id ∉ done)) }

/-! ### Performing a write -/

/-- A write record of a path of a core. -/
def newWrite (s : State) (c : Nat) (p : Path) (l : Loc) (mask : BitVec 64) (bits : LineBits) (tag : Option Tag)
    (mark : Option Bool) : WriteRec where
  id := s.nextWrite
  writer := some ⟨c, p⟩
  guest := s.guestOf c
  job := (s.core c).place.map Place.job
  loc := l
  kind := .plain
  mask := mask
  bits := bits
  tag := tag
  mark := mark
  pub := none
  gangCores := []
  viewers := [⟨c, p⟩]
  performed := true
  arrived := false
  rel := none
  carries := []
  ahead := []
  gpa := 0
  apage := none
  pin := none

/-- Put a write into the line order. -/
def addWrite (r : WriteRec) (s : State) : State :=
  { s with writes := partitionWrites (s.writes ++ [r]), nextWrite := s.nextWrite + 1 }

/-- Put a write that is published as it performs into the line order (R250, R252). -/
def addJoined (r : WriteRec) (s : State) : State := closeViews (joinImage r.id (addWrite r s))

/-- The performed writes in a path's view. -/
def inView (p : Party) (r : WriteRec) : Bool := decide (p ∈ r.viewers) && r.performed

/-- A write that carries a release at a scope, or is published at one, as it performs, with everything in the writer's view when it
releases (R251, R256, R257). At core scope it stays pending (R250). -/
def addPublished (r : WriteRec) (p : Party) (sc : Scope) (release : Bool) (s : State) : State :=
  let gc := gangReach s p.core
  let ids := if release then (s.writes.filter (inView p)).map WriteRec.id else []
  let s' := if release then publishCarried (inView p) sc gc s else s
  let r := { r with gangCores := gc, rel := if release then some sc else none, carries := ids }
  if sc = .core then addWrite r s' else addJoined { r with pub := some sc } s'

/-- The record of a change. -/
def WriteRec.ofChange (r : WriteRec) (ch : Change) : WriteRec :=
  { r with mask := ch.mask, bits := ch.bits, tag := ch.tag, kind := ch.kind }

/-- A change by the host, a peer or the device itself, published at system scope as it performs (R251, R263). -/
def outsideChange (g : Nat) (l : Loc) (ch : Change) (mark : Option Bool) (s : State) : State :=
  addJoined { (newWrite s 0 .f l 0 0 none mark).ofChange ch with
    writer := none, guest := g, job := none, pub := some .system, viewers := [] } s

/-- A write of bytes, and of a tag when one is given, by the host, a peer or the device itself. -/
def outsideWrite (g : Nat) (l : Loc) (mask : BitVec 64) (bits : LineBits) (tag : Option Tag) (mark : Option Bool)
    (s : State) : State := outsideChange g l ⟨mask, bits, tag, .plain⟩ mark s

/-- The writes, the latest first, of which a read of some bytes of a line returns bytes. -/
def lastWriters : List WriteRec → BitVec 64 → List WriteRec
  | [], _ => []
  | r :: l, m => if r.mask &&& m = 0 then lastWriters l m else r :: lastWriters l (m &&& ~~~r.mask)

/-- The writes that a read of some bytes of a line by a path returns (R253). -/
def returned (s : State) (p : Party) (l : Loc) (mask : BitVec 64) : List WriteRec :=
  lastWriters ((lineWrites s l).filter (fun r => decide (p ∈ r.viewers))).reverse mask

/-- The writes that an acquire read of a line by a path at a scope brings in: what the releases among the writes
it returns have published (R256). -/
def acquired (s : State) (p : Party) (l : Loc) (mask : BitVec 64) (sc : Scope) : List Nat :=
  (((returned s p l mask).filter (fun r =>
    match r.rel with
    | some x => decide (scopeRank sc ≤ scopeRank x)
    | none => false)).map WriteRec.carries).flatten

/-- The effect of an acquire read (R256). -/
def acquireRead (p : Party) (l : Loc) (mask : BitVec 64) (sc : Scope) (s : State) : State :=
  enterClosed p (acquired s p l mask sc) s

end Sys2Proof.Machine
end

