-- ==== Sys2Proof/Machine/Errors.lean ====
section
/-! DEFINITION. Machine/Errors.lean: registers of the physical function with their reset values, error records,
counting windows and the declaration of a lasting error (R369 to R377). -/

namespace Sys2Proof.Machine

/-- Offset of ETHRt (R376). -/
def ethrOff (t : Nat) : Nat := 0x70080 + 8 * t
/-- Offset of RTABt (R377). -/
def rtabOff (t : Nat) : Nat := 0x70100 + 8 * t
/-- Offset of MSCHEDm of a core (R391). -/
def mschedOff (c m : Nat) : Nat := 0xA0000 + 0x40 * c + 8 * m

/-- The reset value of MSCHEDm: Ui = i, and 7 for the entry of the retired unit m (R179). -/
def mschedReset (m : Nat) : Word :=
  word ((List.range 7).foldl (fun n i => n + (if i = m then 7 else i) * 2 ^ (3 * i)) 0)

/-- The reset value of a register of the physical function (R376, R390, R179); the others are 0. -/
def pfReset (off : Nat) : Word :=
  if 0x70088 ≤ off ∧ off < 0x700C8 then 0x3C0003
  else if off = 0x98000 then 2800
  else if off = 0x98008 then BitVec.allOnes 64
  else if 0xA0000 ≤ off ∧ off < 0xA1000 then mschedReset (off / 8 % 8)
  else 0

/-- A register of the physical function. -/
def State.pfReg (s : State) (off : Nat) : Word := tabGet (pfReset off) s.pf off

/-- Set a register of the physical function. -/
def State.setPf (s : State) (off : Nat) (v : Word) : State := { s with pf := tabPut s.pf off v }

/-- A dropped access sets HAE with its place and its reason, in VFSTAT or PFSTAT (R384). -/
def hostError (fn : FnId) (bar off reason : Nat) (s : State) : State :=
  let v := word (off / 65536 % 2 ^ 48 * 65536 + bar * 4096 + reason * 256 + 1)
  match fn with
  | .pf => s.setPf 0 v
  | .vf g => s.modGuest g (fun x => x.setReg 0 v)

/-- The size of a ring from its LOGSZ field, none when the field is out of range (R409). -/
def ringSize (logsz lim : Nat) : Option Nat := if 4 ≤ logsz ∧ logsz ≤ lim then some (2 ^ logsz) else none

/-- The LN840 writes bytes of one line of host memory itself: one write, published at system scope (R263). -/
def hostWrite (a n v : Nat) (s : State) : State :=
  outsideWrite 0 ⟨.host, a / 64⟩ (byteMask (a % 64) n) (setLineBytes 0 (a % 64) n v) none none s

/-- The 32 bytes of an error record (R373). -/
def errRecBits (seq : Nat) (r : ErrRec) : Nat :=
  seq % 2 ^ 32 * 2 ^ 224 + r.time % 2 ^ 48 * 2 ^ 176 + r.addr % 2 ^ 48 * 2 ^ 128 +
    (match r.guest with | some g => 2 ^ 127 + g % 128 * 2 ^ 120 | none => 0) +
    r.elem % 2 ^ 11 * 2 ^ 96 + r.unit % 256 * 2 ^ 88 + r.place % 256 * 2 ^ 80 + r.type % 16 * 2 ^ 76 +
    r.sev % 16 * 2 ^ 72 + r.action % 256 * 2 ^ 64

/-- Write an error record to the ring in host memory, or count it in EQLOST; the vector is raised for a corrected
error only when EQCTL bit 16 asks for it (R373, R374). -/
def writeError (r : ErrRec) (s : State) : State :=
  let ctl := s.pfReg 0x70008
  let tail := (s.pfReg 0x70010).toNat
  let head := (s.pfReg 0x70018).toNat
  match ringSize (fld ctl 0 5) 16 with
  | none => s.setPf 0x70020 (s.pfReg 0x70020 + 1)
  | some n =>
    if n ≤ tail - head then s.setPf 0x70020 (s.pfReg 0x70020 + 1)
    else
      let base := fld (s.pfReg 0x70000) 5 59 * 32
      let s1 := (hostWrite (base + 32 * (tail % n)) 32 (errRecBits s.errSeq r) s).setPf 0x70010 (word (tail + 1))
      let s2 := { s1 with errSeq := s.errSeq + 1 }
      if r.sev = 0 ∧ bit ctl 16 = false then s2 else raisePf (fld ctl 8 8) s2

/-- The counter of one structure (R375). -/
def errCounter (s : State) (type place unit : Nat) : ErrCount :=
  (s.errCounts.find? (fun e => e.type == type && e.place == place && e.unit == unit)).getD ⟨type, place, unit, [], false, false⟩

/-- Set the counter of a structure. -/
def setErrCounter (e : ErrCount) (s : State) : State :=
  { s with errCounts := s.errCounts.filter (fun x => !(x.type == e.type && x.place == e.place && x.unit == e.unit)) ++ [e] }

/-- N of ETHRt (R376). -/
def ethrN (s : State) (t : Nat) : Nat := Nat.max 1 (fld (s.pfReg (ethrOff t)) 0 4)
/-- W of ETHRt in µs (R376). -/
def ethrW (s : State) (t : Nat) : Nat := Nat.max 1 (fld (s.pfReg (ethrOff t)) 16 16) * 1000000

/-- The last `n` of a list. -/
def lastN {α : Type} (n : Nat) (l : List α) : List α := l.drop (l.length - n)

/-- Count an error of a structure, whose number among those of its type and place is `key`; the N-th within W seconds declares it
lasting (R375, R377). -/
def countErrorAt (key : Nat) (r : ErrRec) (s : State) : State :=
  let e := errCounter s r.type r.place key
  if e.marked then s
  else
    let ts := lastN (ethrN s r.type) (e.times ++ [s.timeUs])
    if ts.length = ethrN s r.type ∧ s.timeUs - ts.headD 0 ≤ ethrW s r.type then
      setErrCounter { e with times := [], marked := decide (fld (s.pfReg (rtabOff r.type)) 0 2 = 1), edge := false }
        (writeError { r with sev := 2, action := 0 } s)
    else setErrCounter { e with times := ts } s

/-- A detected error: its record, then its count (R373, R375). -/
def detectError (r : ErrRec) (s : State) : State := countErrorAt r.unit r (writeError { r with time := s.timeUs } s)

/-- The physical lane group that takes segment `g`: the working groups in ascending order, which take the segments of the
missing ones in further passes (R122, R378). -/
def physLane (u : CoreUnits) (g : Nat) : Nat :=
  ((List.range 16).filter (fun i => !u.lanesOut.getLsbD i)).getD (g % u.lanes) g

/-- The parity error of a segment of a vector register (R356, R370). -/
def laneError (c g elem : Nat) (s : State) : State :=
  detectError ⟨s.timeUs, 0, (s.core c).guest, elem, physLane (s.core c).units g, c, 1, 1, 4⟩ s

end Sys2Proof.Machine
end

