-- ==== Sys2Proof/Machine/Counters.lean ====
section
/-! DEFINITION. Machine/Counters.lean: the performance counters of a core (R341 to R344, R394) and the fabric counters
of the host (R388). -/

namespace Sys2Proof.Machine

/-- pmcN at key N, pmcfgN at key 8 + N. -/
def Core.pmcReg (k : Core) (n : Nat) : Word := tabGet 0 k.pmc n

/-- Set pmcN or pmcfgN. -/
def Core.setPmc (k : Core) (n : Nat) (v : Word) : Core := { k with pmc := tabPut k.pmc n v }

/-- Is an event a stream event, filtered by SRC and level (R343)? -/
def isStreamEvent (ev : Nat) : Bool := ev == 2 || ev == 3 || ev == 8 || ev == 9 || ev == 0xA

/-- Does a counter count an entry of the tally (R342, R343)? -/
def pmcCounts (cfg : Word) (t : Tally) : Bool :=
  bit cfg 63 && fld cfg 0 8 == t.event && t.event != 0 &&
    (!isStreamEvent t.event ||
      ((match fld cfg 16 2, t.strm with
        | 0, _ => true
        | 1, some .a => true
        | 2, some .x => true
        | _, _ => false) &&
       (match t.level with
        | .u => bit cfg 18
        | .s => bit cfg 19)))

/-- An entry of the overflow FIFO: PMOVLO and PMOVHI without LOST (R339). -/
def overflowEntry (k : Core) (n : Nat) : Word × Word :=
  let p := k.placeD
  (word (2 ^ 63 + p.job.queue % 4 * 2 ^ 56 + p.job.seq % 2 ^ 56),
   word (n * 2 ^ 40 + p.gidx % 64 * 2 ^ 32 + p.job.gnum % 2 ^ 32))

/-- Append to the overflow FIFO of a guest and raise PMCVEC; a full FIFO drops the entry, and the next one written
carries LOST (R344). -/
def logOverflow (c n : Nat) (s : State) : State :=
  let g := s.guestOf c
  let x := s.guest g
  let e := overflowEntry (s.core c) n
  let e := if x.overflowLost then (e.1, e.2 ||| 0x4000000000000000) else e
  raiseVf g (fld (x.reg 0x808) 0 8) (s.setGuest g (
    if Config.overflowEntries ≤ x.overflow.length then { x with overflowLost := true }
    else { x with overflow := x.overflow ++ [e], overflowLost := false }))

/-- One counter takes the events of the tally (R344). -/
def countOne (c n : Nat) (s : State) : State :=
  let k := s.core c
  let cfg := k.pmcReg (8 + n)
  let m := ((k.tally.filter (pmcCounts cfg)).map (·.n)).sum
  let v := (k.pmcReg n).toNat + m
  if m = 0 then s
  else if v < 2 ^ 48 then s.modCore c (fun k => k.setPmc n (word v))
  else
    let s := s.modCore c (fun k => (k.setPmc n (word (v % 2 ^ 48))).setPmc (8 + n) (setFld cfg 61 1 1))
    if bit cfg 62 then logOverflow c n s else s

/-- The events noted so far enter the counters (R344). -/
def countTally (c : Nat) (s : State) : State :=
  let s := (List.range 8).foldl (fun s n => countOne c n s) s
  s.modCore c (fun k => { k with tally := [] })

/-- The noted events that a test selects enter the counters; the others stay noted. -/
def countSome (sel : Tally → Bool) (c : Nat) (s : State) : State :=
  let rest := (s.core c).tally.filter (fun e => !sel e)
  (countTally c (s.modCore c (fun k => { k with tally := k.tally.filter sel }))).modCore c (fun k => { k with tally := rest })

/-! ### Fabric counters (R388) -/

/-- Offset of HFCFGk (R388). -/
def hfcfgOff (k : Nat) : Nat := 0x94000 + 16 * k

/-- One fabric counter takes `n` events of a link. -/
def fabricOne (ev link n i : Nat) (s : State) : State :=
  let cfg := s.pfReg (hfcfgOff i)
  if bit cfg 63 && fld cfg 0 8 == ev && (bit cfg 15 || fld cfg 8 4 == link) && n != 0 then
    let v := (s.pfReg (hfcfgOff i + 8)).toNat + n
    if v < 2 ^ 48 then s.setPf (hfcfgOff i + 8) (word v)
    else
      let s := (s.setPf (hfcfgOff i + 8) (word (v % 2 ^ 48))).setPf (hfcfgOff i) (setFld cfg 61 1 1)
      if bit cfg 62 then raisePf (fld cfg 16 8) s else s
  else s

/-- Fabric events of a link. -/
def fabricCount (ev link n : Nat) (s : State) : State :=
  (List.range 8).foldl (fun s i => fabricOne ev link n i s) s

end Sys2Proof.Machine
end

