-- ==== Sys2Proof/Machine/Cluster.lean ====
section
/-! DEFINITION. Machine/Cluster.lean: scratchpad lines and cluster addresses (R141, R142, R400), and scattered elements
on their way (R145, R149). -/

namespace Sys2Proof.Machine

/-- The place of the scratchpad byte `a` of a core. -/
def spLoc (c a : Nat) : Loc := ⟨.sp c, a % Config.spBytes / 64⟩

/-- The member that a cluster address names (R142). -/
def clusterMember (k : Core) (a : Nat) : Nat := k.placeD.gidx / 8 * 8 + a / 2 ^ 22 % 8

/-- Is a cluster address within bounds (R142)? -/
def clusterOk (k : Core) (a : Nat) : Bool := decide (a < 2 ^ 25) && decide (clusterMember k a < k.placeD.gsize)

/-- The core that runs the member of an index in a core's gang, when its work there has not ended (R142, R400). -/
def memberCore (s : State) (c idx : Nat) : Option Nat :=
  (s.cores.find? (fun e => sameGang (s.core c) e.2 && decide (e.2.placeD.gidx = idx))).map (·.1)

/-- The core that a cluster address reaches. -/
def clusterCore (s : State) (c a : Nat) : Option Nat := memberCore s c (clusterMember (s.core c) a)

/-- The line that a cluster access of a path reads: zero under 0x0000 when the member's work has ended (R400). -/
def clusterLine (s : State) (p : Party) (member : Option Nat) (a : Nat) : LineImg :=
  match member with
  | some m => viewImg s p (spLoc m a)
  | none => ⟨0, Config.tagRaw, false⟩

/-- The change that a scattered element makes to its line (R149). -/
def scatterChange (e : Scatter) : Change :=
  ⟨byteMask (e.addr % 64) e.bytes, setLineBytes 0 (e.addr % 64) e.bytes e.value.toNat, none, .scatter e.tag⟩

/-- Apply one scattered element of a core as one write of its X path (R149); a member whose work has ended discards
it (R400). -/
def applyScatter (c : Nat) (e : Scatter) (s : State) : State :=
  if sameJobGang (s.core c) (s.core e.member) = false then s
  else addWrite ((newWrite s c .x (spLoc e.member e.addr) 0 0 none none).ofChange (scatterChange e)) s

/-- The elements of a list up to the last that touches a line of a member, and the rest in order; elements of other
members stay. -/
def splitScatters (member : Nat) (touches : Scatter → Bool) (l : List Scatter) : List Scatter × List Scatter :=
  let mine := l.filter (fun e => e.member = member)
  let last := (mine.reverse.dropWhile (fun e => !touches e)).length
  (mine.take last, l.filter (fun e => e.member ≠ member) ++ mine.drop last)

/-- The place that an element of a gather comes from, when its member's work has not ended: the core of the member, while that
core still runs a member of the gang (R148, R400). -/
def gatherPlace (s : State) (c : Nat) (e : Nat × Option Nat × Nat) : Option Loc :=
  e.2.1.bind (fun m => if sameJobGang (s.core c) (s.core m) then some (spLoc m e.2.2) else none)

/-- One element of a gather as the X path of a core sees it now: slot, tag of its line, bits (R148). -/
def gatherElem (s : State) (c w : Nat) (e : Nat × Option Nat × Nat) : Nat × Tag × Nat :=
  match gatherPlace s c e with
  | none => (e.1, Config.tagRaw, 0)
  | some l =>
    let i := viewImg s ⟨c, .x⟩ l
    (e.1, i.tag, lineBytes i.bits (e.2.2 % 64) (w / 8))

/-- A gather on its way reads its elements now and keeps them: a later access of the X path comes after it (R145). -/
def fixGather (s : State) (c : Nat) (sel : Loc → Bool) (p : Producer) : Producer :=
  match p with
  | .gather reg es w vl got false =>
    if es.any (fun e => (gatherPlace s c e).any sel) then .gather reg es w vl (es.map (gatherElem s c w)) true
    else .gather reg es w vl got false
  | p => p

/-- The gathers of a core that touch a line which a test selects are fixed (R145, R148). -/
def fixGathers (c : Nat) (sel : Loc → Bool) (s : State) : State :=
  s.modCore c (fun k => { k with producers := k.producers.map (fixGather s c sel) })

/-- Every gather of every core that reads the scratchpad of a core is fixed, before that scratchpad leaves it (R148). -/
def fixGathersFrom (c : Nat) (s : State) : State :=
  (s.cores.map (·.1)).foldl (fun s m => fixGathers m (fun l => l.space == .sp c) s) s

/-- Apply the core's own scattered elements that an access of its X path to lines must see, in their order (R145). -/
def settleScatters (c : Nat) (locs : List Loc) (s : State) : State :=
  ((s.core c).scatters.map (·.member)).eraseDups.foldl (fun s m =>
    let (now, later) := splitScatters m (fun e => decide (spLoc e.member e.addr ∈ locs)) (s.core c).scatters
    now.foldl (fun s e => applyScatter c e s) (s.modCore c (fun k => { k with scatters := later }))) s

/-- An access of the X path of a core to lines comes after its earlier gathers and scatters there (R145). -/
def comeAfter (c : Nat) (ls : List Loc) (s : State) : State := settleScatters c ls (fixGathers c (fun l => ls.contains l) s)

/-- Apply every scattered element of a core (R149, R255). -/
def settleAll (c : Nat) (s : State) : State :=
  (s.core c).scatters.foldl (fun s e => applyScatter c e s) (s.modCore c (fun k => { k with scatters := [] }))

/-- SCATTER_ELEMENT_APPLY (R149): the next element of a core for a member. -/
def execScatterElementApply (core member : Nat) (s : State) : Out :=
  match (s.core core).scatters.find? (fun e => e.member == member) with
  | none => .next s
  | some e =>
    .next (applyScatter core e (s.modCore core (fun k => { k with scatters := k.scatters.erase e })))

end Sys2Proof.Machine
end

