-- ==== Sys2Proof/Machine/Pool.lean ====
section
/-! DEFINITION. Machine/Pool.lean: the granule pool of a guest (R217, R218, R226), and writes by parties outside the
cores.

A write's granules are settled as the instruction that makes it retires or the outside write performs (log 21). -/

namespace Sys2Proof.Machine

/-- Granules of a line that has been written (R217): 4, 2 or 1 with the RC span, 4 otherwise. -/
def granulesOf (i : LineImg) : Nat :=
  if i.mark then
    match fmtWidth (tagFmt i.tag) with
    | 8 => 2
    | 4 => 1
    | _ => 4
  else 4

/-- A line with every write to it applied, performed or not. -/
def wholeImg (s : State) (l : Loc) : LineImg := imageOf s (fun _ => true) l

/-- CAPFREE (R226). -/
def capFree (x : Guest) : Nat := x.pool - x.capUsed

/-- Set CAPUSED; the vector of FQCTL is raised when CAPFREE falls below CAPLOW after having stood above it (R226). -/
def setCapUsed (g n : Nat) (s : State) : State :=
  let x := { s.guest g with capUsed := n }
  let low := (x.reg 0x490).toNat
  if capFree x < low then
    if x.capArmed then raiseVf g (fld (x.reg 0x418) 8 8) (s.setGuest g { x with capArmed := false })
    else s.setGuest g x
  else s.setGuest g { x with capArmed := x.capArmed || decide (low < capFree x) }

/-- Granules taken from a guest's pool, or returned to it. -/
def poolTake (g n : Nat) (s : State) : State := if n = 0 then s else setCapUsed g ((s.guest g).capUsed + n) s
def poolReturn (g n : Nat) (s : State) : State := if n = 0 then s else setCapUsed g ((s.guest g).capUsed - n) s

/-- Granules that a line of HBM holds (R217). -/
def State.held (s : State) (l : Loc) : Nat := tabGet 0 s.granules l.line

/-- A line holds a number of granules from now on; the guest's pool gives them or takes them back (R217). -/
def holdGranules (g : Nat) (l : Loc) (n : Nat) (s : State) : State :=
  let a := s.held l
  let s := { s with granules := tabPut s.granules l.line n }
  if a < n then poolTake g (n - a) s else poolReturn g (a - n) s

/-- A core's write makes a line: new granules come out of the core's credit, freed ones go back to the pool (R217,
R218). -/
def settleGranules (c : Nat) (l : Loc) (new : LineImg) (s : State) : State :=
  if l.space = .hbm then
    let a := s.held l
    let b := granulesOf new
    let s := { s with granules := tabPut s.granules l.line b }
    if a < b then s.modCore c (fun k => { k with credit := k.credit - (b - a) }) else poolReturn (s.guestOf c) (a - b) s
  else s

/-- The credit that a write to a line needs at issue: four granules for a line of HBM that holds fewer than four
(R218). -/
def creditFor (s : State) (l : Loc) : Nat := if l.space = .hbm && decide (s.held l < 4) then 4 else 0

/-- Credit taken from the pool for a core, when the pool holds it (R218). -/
def grantCredit (c n : Nat) (s : State) : Option State :=
  let g := s.guestOf c
  let want := n - (s.core c).credit
  if capFree (s.guest g) < want then none
  else some ((poolTake g want s).modCore c (fun k => { k with credit := k.credit + want }))

/-- Unused credit of a core returns to the pool (R218). -/
def returnCredit (c : Nat) (s : State) : State :=
  (poolReturn (s.guestOf c) (s.core c).credit s).modCore c (fun k => { k with credit := 0 })

/-- A change by the host, a peer or the device itself, with the granules it changes in the pool of the guest (R217,
R263). A tag alone that leaves a line UNINIT leaves it none: nothing has been written to it since its page was allocated (R398). -/
def externalChange (g : Nat) (l : Loc) (ch : Change) (mark : Option Bool) (s : State) : State :=
  let bare := decide (ch.mask = 0)
  let s := outsideChange g l ch mark s
  let i := wholeImg s l
  if l.space = .hbm then holdGranules g l (if bare && tagClass i.tag == 1 then 0 else granulesOf i) s else s

/-- A write of bytes, and of a tag when one is given, by the host, a peer or the device itself, with its granules. -/
def externalWrite (g : Nat) (l : Loc) (mask : BitVec 64) (bits : LineBits) (tag : Option Tag) (mark : Option Bool)
    (s : State) : State := externalChange g l ⟨mask, bits, tag, .plain⟩ mark s

end Sys2Proof.Machine
end

