-- ==== Sys2Proof/Machine/Rows.lean ====
section
/-! DEFINITION. Machine/Rows.lean: the rows of the Timetable, their times, and the drain windows of a stack (R315 to R318,
R325). -/

namespace Sys2Proof.Machine

/-! ### Fields of a row (R317, R318) -/

/-- Bytes of row `r` of a table. -/
def rowRead (rows : Memory) (r off n : Nat) : Nat := memRead rows (4096 * r + off) n

/-- NTENM1 + 1. -/
def rowTenants (rows : Memory) (r : Nat) : Nat := rowRead rows r 0 8 / 2 ^ 32 % 64 + 1

/-- DUR in µs. -/
def rowDur (rows : Memory) (r : Nat) : Nat := rowRead rows r 0 8 % 2 ^ 20

/-- DRAIN in µs; 0 selects 8 (R317). -/
def rowDrain (rows : Memory) (r : Nat) : Nat :=
  let d := rowRead rows r 0 8 / 2 ^ 20 % 32
  if d = 0 then 8 else d

/-- The core map entry of a core. -/
def rowMap (rows : Memory) (r c : Nat) : Nat := rowRead rows r (16 + c) 1

/-- Bytes 0 to 7 of a tenant entry. -/
def tenant (rows : Memory) (r i : Nat) : Word := word (rowRead rows r (128 + 48 * i) 8)

/-- GUEST, WAYS, TGROUP, DV and DONEE of a tenant entry (R318). -/
def tenGuest (e : Word) : Nat := fld e 0 7
def tenWays (e : Word) : Nat := fld e 16 16
def tenGroup (e : Word) : Nat := fld e 32 6
def tenDonee (e : Word) : Option Nat := if bit e 47 then some (fld e 40 6) else none

/-- The guest that a row gives a core (R317). -/
def rowOwner (rows : Memory) (r c : Nat) : Option Nat :=
  let m := rowMap rows r c
  if m = 0xFF then none else some (tenGuest (tenant rows r m))

/-- The cores of the package (R12). -/
def allCores : List Nat := List.range 64

/-- The cores that a row gives a guest. -/
def rowCores (rows : Memory) (r g : Nat) : List Nat := allCores.filter (fun c => rowOwner rows r c == some g)

/-- The tenant entry of a guest in a row. -/
def guestEntry (rows : Memory) (r g : Nat) : Option Word :=
  ((List.range (rowTenants rows r)).map (tenant rows r)).find? (fun e => tenGuest e == g)

/-- The way mask of a guest in a table: that of the first row that names it (R319 reason 5). -/
def guestWays (t : Timetable) (g : Nat) : Nat :=
  (((List.range (t.lastRow + 1)).filterMap (fun r => guestEntry t.rows r g)).head?.map tenWays).getD 0

/-! ### Times (R315) -/

/-- The start of row `r` of a frame. -/
def rowStart (t : Timetable) (r : Nat) : Nat := t.frameStart + ((List.range r).map (rowDur t.rows)).sum

/-- The edge that ends the row in force, E. -/
def edgeTime (t : Timetable) : Nat := rowStart t t.row + rowDur t.rows t.row

/-- Is an accepted shadow in time for the frame end: the frame's last drain window begins after its acceptance (R319)? -/
def inTime (t : Timetable) (accepted : Nat) : Bool := decide (accepted + rowDrain t.rows t.row < edgeTime t)

/-- The row after the one in force: the next of the frame, or row 0 of the table that starts at the frame end. -/
def nextRow (t : Timetable) (next : Option (Memory × Nat × Nat)) : Timetable :=
  if t.row < t.lastRow then { t with row := t.row + 1 }
  else
    match next with
    | some (rows, last, accepted) =>
      if inTime t accepted then ⟨rows, last, edgeTime t, 0⟩ else { t with row := 0, frameStart := edgeTime t }
    | none => { t with row := 0, frameStart := edgeTime t }

/-- Does the package time base stand at or after E − D of the row in force? -/
def inDrain (t : Timetable) (now : Nat) : Bool := decide (edgeTime t ≤ now + rowDrain t.rows t.row)

/-- The owner of a core in a row changes: a different guest, or one of the two rows leaves it idle (R320). -/
def changesHands (t t' : Timetable) (c : Nat) : Bool := rowOwner t.rows t.row c != rowOwner t'.rows t'.row c

/-- Does a stack serve save traffic only: the drain window of an edge at which one of its cores changes hands (R325)? -/
def stackClosed (s : State) (st : Nat) : Bool :=
  match s.ttActive with
  | none => false
  | some t => inDrain t s.timeUs && decide (s.timeUs < edgeTime t) &&
      ((List.range 8).map (fun p => 8 * st + p)).any (changesHands t (nextRow t s.ttNext))

/-- The home stack of an HBM line: HPA[14:12] (R204). -/
def homeStack (line : Nat) : Nat := line / 64 % 8

/-- Does the home of a line serve it now (R325)? -/
def homeOpen (s : State) (l : Loc) : Bool := decide (l.space ≠ .hbm) || !stackClosed s (homeStack l.line)

/-- No stack serves save traffic only: the machine is outside every drain window of R325. -/
def State.Serving (s : State) : Prop := ∀ st, stackClosed s st = false

/-! ### The LLC of a stack (R11, R205, R318, R321, R377) -/

/-- Lines that one way of a stack's LLC holds: 128 MiB (R11). -/
def wayLines : Nat := 2 ^ 21

/-- The context bound S(g) in bytes (R320). -/
def contextBound (gres : Word) : Nat :=
  65536 * ((fld gres 0 23 + 65536 * fld gres 24 6 + 98304 + 65535) / 65536)

/-- Is bank `b` of a stack, layer × 32 + bank, retired (R381)? -/
def bankOut (s : State) (st b : Nat) : Bool := bit (s.pfReg (0x71200 + 8 * (4 * st + b / 32))) (b % 32)

/-- LLC banks of a stack that are retired. -/
def banksOut (s : State) (st : Nat) : Nat := ((List.range 128).filter (bankOut s st)).length

/-- The bank of a stack that holds a line: its own, or, where that is retired, another of the layer (R377, R379). -/
def bankOf (s : State) (st line : Nat) : Nat :=
  let b := Config.llcBank line
  let rest := ((List.range 32).map (fun i => b / 32 * 32 + i)).filter (fun i => !bankOut s st i)
  if bankOut s st b then rest.getD (Config.llcSpare line % rest.length) b else b

/-- Bytes that a reservation of a guest holds in a stack: 8 × S(g) (R321). -/
def reservedBytes (gres : Nat → Word) (g : Nat) : Nat := 8 * contextBound (gres g)

/-- Ways of a mask. -/
def wayCount (ways : Nat) : Nat := ((List.range 16).filter (fun w => ways.testBit w)).length

/-- Does a guest save into its ways of a stack: it has ways, and the banks that work leave its reservation room (R320, R326,
R379)? -/
def savesInStack (s : State) (gres : Nat → Word) (ways : Nat) (g st : Nat) : Bool :=
  wayCount ways != 0 && decide (reservedBytes gres g * 128 ≤ wayCount ways * (64 * wayLines) * (128 - banksOut s st))

/-- Lines of a stack's LLC in the banks that work (R11, R377), less those that hold saved contexts (R321). -/
def stackLines (s : State) (st : Nat) : Nat :=
  16 * wayLines * (128 - banksOut s st) / 128 -
    ((s.guests.map (fun e => ((e.2.drained.flatMap Drained.members).filter (fun m => m.slot.isNone && m.stack == st)).length *
      (contextBound e.2.gresIn / 64))).sum)

/-- Lines of a stack's LLC that a guest can fill: its ways in the row in force, in the banks that work, less its reservation,
which is pinned for saves (R318, R321, R377); all sixteen ways while no Timetable is active (log 47). -/
def llcLines (s : State) (st g : Nat) : Nat :=
  match s.ttActive with
  | none => stackLines s st
  | some t =>
    let ways := ((guestEntry t.rows t.row g).map tenWays).getD 0
    let gres := fun (g : Nat) => (s.guest g).gresIn
    wayCount ways * wayLines * (128 - banksOut s st) / 128 -
      (if savesInStack s gres ways g st then reservedBytes gres g / 64 else 0)

end Sys2Proof.Machine
end

