-- ==== Sys2Proof/Machine/Translate.lean ====
section
/-! DEFINITION. Machine/Translate.lean: the spaces of guest-physical memory, the first-stage walk, the second-stage
comparator, page classes and page-state words (R203 to R213), and fabric apertures (R386). -/

namespace Sys2Proof.Machine

/-- What an access asks of a leaf (R208): a read, a write (store, APD, atomic, TSET), a fetch, or neither (SEALFREE). -/
inductive Acc where
  | read | write | fetch | free
deriving DecidableEq, Repr

/-- Why a translation fails. -/
inductive XFail where
  /-- A page fault with a reason of R223. -/
  | fault (reason : Nat)
  /-- A violation: KIND 1 or 2, and the GPA (R209, R334). -/
  | violation (kind gpa : Nat)
  /-- No HBM backs the HPA (R11). -/
  | absent (hpa : Nat)
deriving DecidableEq, Repr

/-- Page-fault reasons (R223). -/
def reasonNotPresent : Nat := 1
def reasonWrite : Nat := 2
def reasonExec : Nat := 3
def reasonMalformed : Nat := 4
def reasonClass : Nat := 5
def reasonPool : Nat := 6

/-- Does a GPA of device memory pass a guest's comparator (R209, R331)? -/
def gpaPasses (x : Guest) (gpa : Nat) : Bool := decide (gpa < 2 ^ 46) && decide (gpa < x.bound * 65536)

/-- HPA = BASE × 65,536 + GPA (R331). -/
def hpaOf (x : Guest) (gpa : Nat) : Nat := x.base * 65536 + gpa

/-- The offset of entry `j` of a guest's outbound or inbound apertures in the physical function (R386). -/
def apertureOff (inbound : Bool) (g j : Nat) : Nat := (if inbound then 0x88000 else 0x80000) + 0x100 * g + 16 * j

/-- The low 64 bits of an aperture entry (R386). -/
def apertureLo (s : State) (inbound : Bool) (g j : Nat) : Word := tabGet 0 s.pf (apertureOff inbound g j)
/-- The high 64 bits of an aperture entry (R386). -/
def apertureHi (s : State) (inbound : Bool) (g j : Nat) : Word := tabGet 0 s.pf (apertureOff inbound g j + 8)

/-- The peer line behind a GPA: device, guest at the peer and peer GPA as one address (R386). -/
def peerAddr (dev rguest gpa : Nat) : Nat := (dev * 128 + rguest) * 2 ^ 48 + gpa % 2 ^ 48

/-- The place of a GPA (R203, R209, R386). -/
def placeGpa (s : State) (g : Nat) (kind : Nat) (write : Bool) (gpa : Nat) : Except XFail Loc :=
  let x := s.guest g
  if gpa < 2 ^ 46 then
    if gpaPasses x gpa then
      if hpaOf x gpa < Config.hbmBytes then .ok ⟨.hbm, hpaOf x gpa / 64⟩ else .error (.absent (hpaOf x gpa))
    else .error (.violation kind gpa)
  else if gpa < 2 ^ 47 then .ok ⟨.host, (gpa - 2 ^ 46) / 64⟩
  else
    let e := apertureLo s false g (gpa / 2 ^ 43 % 16)
    if bit e 63 && (bit e 62 || !write) then
      .ok ⟨.peer, peerAddr (fld e 16 8) (fld e 0 7)
        (fld (apertureHi s false g (gpa / 2 ^ 43 % 16)) 0 48 + gpa % 2 ^ 43) / 64⟩
    else .error (.violation kind gpa)

/-- The link that carries a line of an aperture, among the links of its entry, by line address (R386). -/
def linkOf (s : State) (g gpa : Nat) : Option Nat :=
  let l := (List.range Config.links).filter (fun i => bit (apertureLo s false g (gpa / 2 ^ 43 % 16)) (32 + i))
  l[gpa / 64 % l.length]?

/-- Offset of LINKSTAT (R391, log 31). -/
def linkstatOff : Nat := 0xA8028

/-- Is a link up, and its peer not frozen (R336, R391)? -/
def linkReady (s : State) (i : Nat) : Bool := bit (tabGet 0 s.pf linkstatOff) i && (tabFind s.peerFrozen i).isNone

/-- Can a place be reached now: a line behind an aperture needs a link that is ready (R336, R386), and a line of HBM a
home that serves it (R325)? -/
def reachable (s : State) (g gpa : Nat) (l : Loc) : Bool :=
  homeOpen s l && (decide (l.space ≠ .peer) || (match linkOf s g gpa with
    | some i => linkReady s i
    | none => false))

/-- Can a line of a guest be reached now by the LN840 itself (R325, R336)? -/
def gpaOpen (s : State) (g gpa : Nat) : Bool :=
  match placeGpa s g 1 true gpa with
  | .ok l => reachable s g gpa l
  | .error _ => true

/-- 8 bytes of the guest's memory at a GPA of device memory, in an image of its line (R209). -/
def gpaWordIn (img : State → Loc → LineImg) (s : State) (g kind gpa : Nat) : Except XFail Word :=
  let x := s.guest g
  if gpaPasses x gpa then
    if hpaOf x gpa < Config.hbmBytes then
      .ok (lineWord (img s ⟨.hbm, hpaOf x gpa / 64⟩).bits (hpaOf x gpa % 64))
    else .error (.absent (hpaOf x gpa))
  else .error (.violation kind gpa)

/-- 8 bytes of the guest's memory at a GPA of device memory, as the home shows them (R209). -/
def gpaWord (s : State) (g kind gpa : Nat) : Except XFail Word := gpaWordIn homeImg s g kind gpa

/-! ### Table entries (R207) -/

/-- ADDR of a table entry, as a GPA. -/
def pteAddr (e : Word) : Nat := fld e 12 36 * 4096
/-- CLASS of a leaf: 0 NORMAL, 1 RC, 2 APPEND, 3 SEALED. -/
def pteClass (e : Word) : Nat := fld e 5 2
/-- POLICY of a leaf (R92). -/
def ptePolicy (e : Word) : Nat := fld e 7 3

/-- Bytes that a leaf maps at a level (R208). -/
def leafSize (level : Nat) (e : Word) : Nat :=
  match level with
  | 3 => 2 ^ 30
  | 2 => 2 ^ 21
  | _ => if bit e 4 then 65536 else 4096

/-- Check 2 of R208: is an entry malformed at a level? -/
def pteMalformed (level : Nat) (e : Word) : Bool :=
  decide (fld e 48 16 ≠ 0) || bit e 11 || (bit e 3 && level == 4) || (!bit e 3 && level == 1) ||
    (bit e 3 && (level == 2 || level == 3) && decide (pteAddr e % leafSize level e ≠ 0)) ||
    (!bit e 3 && decide (fld e 4 7 ≠ 0 ∨ fld e 1 2 ≠ 0)) ||
    (bit e 3 && decide (5 ≤ ptePolicy e)) || (bit e 4 && level != 1)

/-- The bit of a GVA at which a level's index begins (R208). -/
def levelShift (level : Nat) : Nat := 12 + 9 * (level - 1)

/-- The page that a leaf maps for a GVA (R208). -/
def leafXlat (level gva : Nat) (e : Word) : Xlat :=
  let n := leafSize level e
  ⟨gva / n * n, pteAddr e / n * n, n, e⟩

/-- The walk from a level with the GPA of its table: checks 1 and 2 of R208 at each entry. -/
def walkFrom (s : State) (g gva : Nat) : Nat → Nat → Except XFail Xlat
  | 0, _ => .error (.fault reasonMalformed)
  | n + 1, table =>
    match gpaWord s g 2 (table + 8 * (gva / 2 ^ levelShift (n + 1) % 512)) with
    | .error e => .error e
    | .ok e =>
      if bit e 0 = false then .error (.fault reasonNotPresent)
      else if pteMalformed (n + 1) e then .error (.fault reasonMalformed)
      else if bit e 3 then .ok (leafXlat (n + 1) gva e)
      else walkFrom s g gva n (pteAddr e)

/-- GTTB, the GPA of the level-4 table (R226). -/
def gttb (x : Guest) : Nat := fld (x.reg 0x400) 12 36 * 4096

/-- The walk of a GVA (R208). -/
def walk (s : State) (g gva : Nat) : Except XFail Xlat := walkFrom s g gva 4 (gttb (s.guest g))

/-- The lines of table entries that a walk reads, from a level with the GPA of its table. -/
def walkLocs (s : State) (g gva : Nat) : Nat → Nat → List Loc
  | 0, _ => []
  | n + 1, table =>
    let gpa := table + 8 * (gva / 2 ^ levelShift (n + 1) % 512)
    ⟨.hbm, hpaOf (s.guest g) gpa / 64⟩ :: (match gpaWord s g 2 gpa with
      | .error _ => []
      | .ok e => if bit e 0 = false ∨ pteMalformed (n + 1) e = true ∨ bit e 3 = true then [] else walkLocs s g gva n (pteAddr e))

/-! ### Page-state words (R212) -/

/-- The GPA of the page-state word of a page (R212, R226). -/
def pageStateGpa (x : Guest) (pageGpa : Nat) : Nat := fld (x.reg 0x408) 3 45 * 8 + 8 * (pageGpa / 4096)

/-- The page-state word of a page as its home finds it: after every write to it that has performed, by any party
(R212). -/
def pageState (s : State) (g pageGpa : Nat) : Except XFail Word := gpaWordIn latestImg s g 1 (pageStateGpa (s.guest g) pageGpa)

/-- SEALED, bit 63. -/
def psSealed (w : Word) : Bool := bit w 63
/-- SEALING, bit 62. -/
def psSealing (w : Word) : Bool := bit w 62
/-- TAIL, bits [24:0]. -/
def psTail (w : Word) : Nat := fld w 0 25
/-- A reserved bit set, or TAIL above the page's lines (R212). -/
def psMalformed (w : Word) (size : Nat) : Bool := decide (fld w 25 37 ≠ 0) || decide (size / 64 < psTail w)

/-! ### Checks of a leaf, and the translation of an access -/

/-- Checks 3 and 4 of R208 on a leaf; a read of an APPEND page reads the page-state word too (R211, R212). -/
def leafCheck (s : State) (g : Nat) (acc : Acc) (x : Xlat) : Except XFail Unit :=
  if acc = .write ∧ bit x.leaf 1 = false then .error (.fault reasonWrite)
  else if acc = .fetch ∧ bit x.leaf 2 = false then .error (.fault reasonExec)
  else if (acc = .read ∨ acc = .fetch) ∧ 2 ≤ pteClass x.leaf then
    match pageState s g x.gpa with
    | .error e => .error e
    | .ok w => if psSealed w || pteClass x.leaf == 2 then .ok () else .error (.fault reasonClass)
  else .ok ()

/-- Does a translation cover a GVA? -/
def Xlat.covers (x : Xlat) (gva : Nat) : Bool := decide (x.gva ≤ gva) && decide (gva < x.gva + x.size)

/-- The GPA of a GVA under a translation. -/
def Xlat.gpaAt (x : Xlat) (gva : Nat) : Nat := x.gpa + (gva - x.gva)

/-- The translation of a GVA by a core: a cached one, or a walk; then the checks of the leaf (R208, R30). -/
def lookup (s : State) (c : Nat) (acc : Acc) (gva : Nat) : Except XFail Xlat :=
  let g := s.guestOf c
  let r : Except XFail Xlat := match (s.core c).tlb.find? (fun x => x.covers gva) with
    | some x => .ok x
    | none => walk s g gva
  match r with
  | .error e => .error e
  | .ok x =>
    match leafCheck s g acc x with
    | .error e => .error e
    | .ok _ => .ok x

/-- Does the home of the page-state word that a check of a leaf reads serve it now (R325)? -/
def leafOpen (s : State) (g : Nat) (x : Xlat) : Bool :=
  decide (pteClass x.leaf < 2) || homeOpen s ⟨.hbm, hpaOf (s.guest g) (pageStateGpa (s.guest g) x.gpa) / 64⟩

/-- Do the homes of what a walk of a GVA and the check of its leaf read serve them now (R325)? -/
def walkOpen (s : State) (g gva : Nat) : Bool :=
  (walkLocs s g gva 4 (gttb (s.guest g))).all (homeOpen s) && (match walk s g gva with
    | .error _ => true
    | .ok x => leafOpen s g x)

/-- Do the homes of the table entries and of the page-state word that a translation reads serve them now (R325)? -/
def lookupOpen (s : State) (c gva : Nat) : Bool :=
  match (s.core c).tlb.find? (fun x => x.covers gva) with
  | some x => leafOpen s (s.guestOf c) x
  | none => walkOpen s (s.guestOf c) gva

/-- Hold a translation in the core's cache. -/
def fillTlb (c : Nat) (x : Xlat) (s : State) : State :=
  s.modCore c (fun k => if k.tlb.contains x then k else { k with tlb := k.tlb ++ [x] })

/-- A failed translation as the stop of the current instruction (R208, R209, R222). -/
def stopOfX (gva : Nat) (acc : Acc) (e : XFail) : Stop :=
  match e with
  | .fault r => .page (decide (acc = .fetch)) (decide (acc = .write)) r gva
  | .violation kind gpa => .violation kind gpa gva 0
  | .absent hpa => .absent hpa

/-- The translation of one GVA of the current instruction: BOUND beyond 48 bits, then the walk (R208), once the homes of
what it reads serve it (R325). -/
def translate (acc : Acc) (gva : Nat) : Exec Xlat := do
  if 2 ^ 48 ≤ gva then throw (.trap .bound (word gva))
  let s ← get
  waitFor (lookupOpen s s.turn.1 gva) .home
  match lookup s s.turn.1 acc gva with
  | .error e => throw (stopOfX gva acc e)
  | .ok x =>
    set (fillTlb s.turn.1 x s)
    return x

/-- The place of a translated GVA; the comparator passes it or the stream freezes (R209, R334). -/
def placeOf (acc : Acc) (x : Xlat) (gva : Nat) : Exec Loc := do
  let s ← get
  match placeGpa s (s.guestOf s.turn.1) 1 (decide (acc = .write)) (x.gpaAt gva) with
  | .error e => throw (stopOfX gva acc e)
  | .ok l =>
    waitFor (reachable s (s.guestOf s.turn.1) (x.gpaAt gva) l) .home
    return l

/-- The APPEND and SEALED rows of R211 for a store, atomic or TSET: ordinary writes trap. -/
def classAllowsStore (x : Xlat) (gva : Nat) : Exec Unit := do
  need (pteClass x.leaf != 2) .append (word gva)
  need (pteClass x.leaf != 3) .sealed (word gva)

/-- Is a page typed for R59: RC, or a POLICY that is not keep (R211)? -/
def Xlat.typed (x : Xlat) : Bool := pteClass x.leaf == 1 || ptePolicy x.leaf != 0

/-- The line that a read of a page returns: of an APPEND or SEALED page at or above the tail, UNINIT (R211, R406); each line of
a page that SEALFREE has freed is as its home shows it, REVOKED (R216). -/
def readThrough (s : State) (g : Nat) (x : Xlat) (gpa : Nat) (i : LineImg) : LineImg :=
  if 2 ≤ pteClass x.leaf then
    match pageState s g x.gpa with
    | .ok w =>
      if (gpa - x.gpa) / 64 < psTail w ∨ (psSealed w = true ∧ x.gpa ∈ (s.guest g).freed) then i
      else ⟨0, Config.tagUninit, false⟩
    | .error _ => ⟨0, Config.tagUninit, false⟩
  else i

/-- The stack of a core: its base die (R12). -/
def coreStack (c : Nat) : Nat := c / 8

/-- The replica of a line in a stack, for a guest (R214). -/
def replicaOf (s : State) (stack g line : Nat) : Option Replica :=
  s.replicas.find? (fun r => r.stack == stack && r.guest == g && r.line == line)

/-- A line of a SEALED page as a core reads it: the replica in its stack, or the line as its home supplies it (R214). -/
def sealedImg (s : State) (c : Nat) (l : Loc) : LineImg :=
  match (if l.space = .hbm then replicaOf s (coreStack c) (s.guestOf c) l.line else none) with
  | some r => ⟨r.bits, r.tag, false⟩
  | none => homeImg s l

/-- Does a page show SEALED, by its class and its page-state word (R212)? -/
def pageSealed (s : State) (g : Nat) (x : Xlat) : Bool :=
  decide (2 ≤ pteClass x.leaf) && (match pageState s g x.gpa with
    | .ok w => psSealed w
    | .error _ => false)

/-- A line of an APPEND page as a reader sees it who sees the writes that a test selects: one that an append has been granted, the
latest of its page's life, and that the reader does not see yet, is UNINIT whatever the line held before (R211, R215). -/
def appendImg (s : State) (g : Nat) (sel : WriteRec → Bool) (x : Xlat) (l : Loc) : LineImg :=
  match ((lineWrites s l).filter (fun r => decide (r.guest = g) && decide (r.apage = some x.gpa))).getLast? with
  | some r => if sel r then imageOf s sel l else ⟨0, Config.tagUninit, false⟩
  | none => imageOf s sel l

/-- A line of a guest's page as its home shows it to the host's accesses (R211, R215). -/
def hostImg (s : State) (g : Nat) (x : Xlat) (gpa : Nat) (l : Loc) : LineImg :=
  if pteClass x.leaf < 2 ∨ pageSealed s g x then readThrough s g x gpa (homeImg s l)
  else readThrough s g x gpa (appendImg s g (fun r => r.pubAt .guest) x l)

/-! ### Instruction fetch (R49, R208) -/

/-- Why a fetch gives no word. -/
inductive FetchStop where
  | bound (gva : Nat)
  | x (gva : Nat) (e : XFail)
  | tagClass (gva : Nat)
  /-- A home does not serve it now (R325), or its peer cannot be reached (R336). -/
  | closed
deriving DecidableEq, Repr

/-- The word at a GVA as a stream fetches it, with the translation used (R49). Of the old and the new word of code that the
program itself stores, the stream fetches what its own path sees: A fetches its own new word at once (log 48). -/
def fetchWord (s : State) (c : Nat) (t : StreamId) (gva : Nat) : Except FetchStop (Word × Xlat) :=
  if 2 ^ 48 ≤ gva then .error (.bound gva)
  else if lookupOpen s c gva = false then .error .closed
  else
    match lookup s c .fetch gva with
    | .error e => .error (.x gva e)
    | .ok x =>
      match placeGpa s (s.guestOf c) 1 false (x.gpaAt gva) with
      | .error e => .error (.x gva e)
      | .ok l =>
        if reachable s (s.guestOf c) (x.gpaAt gva) l = false then .error .closed
        else
          let i := readThrough s (s.guestOf c) x (x.gpaAt gva)
            (if pageSealed s (s.guestOf c) x then sealedImg s c l
             else if pteClass x.leaf = 2 then appendImg s (s.guestOf c) (fun r => decide (⟨c, pathOf t⟩ ∈ r.viewers)) x l
             else viewImg s ⟨c, pathOf t⟩ l)
          if tagClass i.tag = 0 then .ok (lineWord i.bits (gva % 64), x) else .error (.tagClass gva)

end Sys2Proof.Machine
end

