-- ==== Sys2Proof/Machine/VectorCore.lean ====
section
/-! DEFINITION. Machine/VectorCore.lean: slots and segments of vector registers, masks, the order of checks of a vector
instruction, the pattern book, and the polymorphic operation segment by segment (R70 to R77, R87, R119 to R124,
R139). -/

namespace Sys2Proof.Machine

/-! ### Vector state -/

/-- VTYPE.W in bits (R116); W = 3 never stands in VTYPE. -/
def Vec.w (v : Vec) : Nat :=
  match v.vtype.toNat % 4 with
  | 0 => 8 | 1 => 16 | _ => 32

/-- VTYPE.RM (R116). -/
def Vec.rm (v : Vec) : Rm := rmOf (v.vtype.toNat / 8)

/-- VTYPE.FZ (R116). -/
def Vec.fz (v : Vec) : Bool := v.vtype.getLsbD 2

/-- The mode of an instruction: RMO replaces VTYPE.RM when it is not 0 (R65). -/
def rmFor (v : Vec) (rmo : Nat) : Rm := if rmo = 0 then v.rm else rmOf (rmo - 1)

/-- Slots of a segment under a width (R70). -/
def segSlots (w : Nat) : Nat := 512 / w

/-- A vector register by its operand code. -/
def Core.vreg (k : Core) (c : Code) : VReg := tabGet ⟨[], 0, false, []⟩ k.vec.v (c.toNat - 0x40)

/-- Set a vector register. -/
def Core.setVreg (k : Core) (c : Code) (r : VReg) : Core :=
  { k with vec := { k.vec with v := tabPut k.vec.v (c.toNat - 0x40) r } }

/-- A segment of a vector register; one never written is zeros under 0x0000 (R121). -/
def VReg.seg (r : VReg) (g : Nat) : Segment := tabGet ⟨0, Config.tagRaw⟩ r.segs g

/-- Write a whole segment; the highest-written count covers it (R18, R72). -/
def VReg.putSeg (r : VReg) (g : Nat) (x : Segment) : VReg :=
  { r with segs := tabPut r.segs g x, count := Nat.max r.count (64 * (g + 1)), badParity := listDel r.badParity g }

/-- Slot `i` of a register under a width (R70). -/
def VReg.slot (r : VReg) (w i : Nat) : Nat := slotOf w (r.seg (i / segSlots w)).bits (i % segSlots w)

/-- Mask bit `i` of a register: bit i mod 8 of byte floor(i / 8) (R41). -/
def VReg.maskBit (r : VReg) (i : Nat) : Bool := (r.seg (i / 512)).bits.getLsbD (i % 512)

/-- Set VSTART. -/
def Core.setVstart (k : Core) (n : Nat) : Core := { k with vec := { k.vec with vstart := BitVec.ofNat 11 n } }

/-- Is a slot active: at VSTART or above, below VL, and set in the mask when there is one (R72)? -/
def activeSlot (v : Vec) (mask : Option VReg) (i : Nat) : Bool :=
  decide (v.vstart.toNat ≤ i) && decide (i < v.vl.toNat) &&
    (match mask with | some m => m.maskBit i | none => true)

/-- The contents of a written segment: results in the active slots, zero from VL up, and for the other slots the
old bits when the old tag equals the result tag, else zero (R72). -/
def mergeSegBy (w vl : Nat) (active : Nat → Bool) (g : Nat) (old : Segment) (tag : Tag) (res : Nat → Nat) : Segment :=
  let n := segSlots w
  ⟨packSlots w ((List.range n).map (fun j =>
    let i := g * n + j
    if active i then res i
    else if vl ≤ i then 0
    else if old.tag = tag then slotOf w old.bits j
    else 0)), tag⟩

/-- The contents of a segment written under VSTART, VL and a mask (R72). -/
def mergeSeg (v : Vec) (mask : Option VReg) (g : Nat) (old : Segment) (tag : Tag) (res : Nat → Nat) : Segment :=
  mergeSegBy v.w v.vl.toNat (activeSlot v mask) g old tag res

/-- The active slots of a segment. -/
def activeIn (v : Vec) (mask : Option VReg) (g : Nat) : List Nat :=
  let n := segSlots v.w
  ((List.range n).map (fun j => g * n + j)).filter (activeSlot v mask)

/-- The segments from SegmentOf(VSTART) to SegmentOf(VL − 1); none when VSTART ≥ VL (R123). -/
def segRange (v : Vec) : List Nat :=
  let n := segSlots v.w
  if v.vl.toNat ≤ v.vstart.toNat then []
  else
    let lo := v.vstart.toNat / n
    (List.range ((v.vl.toNat - 1) / n + 1 - lo)).map (fun j => lo + j)

/-! ### Sources of a vector instruction (rows 1 to 3 of R123) -/

/-- Is a source empty: a queue, a scalar register or a vector register (R20)? -/
def Core.vsrcEmpty (k : Core) (t : StreamId) (c : Code) : Bool :=
  if codeIsV c then (k.vreg c).empty else k.srcEmpty t c

/-- Row 1 of R123. -/
def vsourcesE (k : Core) (t : StreamId) : List Src → Except Stop Unit
  | [] => .ok ()
  | x :: r => if x.e && k.vsrcEmpty t x.code then .error (.trap .emptyRead (word x.code.toNat)) else vsourcesE k t r

/-- Row 2 of R123. -/
def vsourcesWait (k : Core) (t : StreamId) : List Src → Except Stop Unit
  | [] => .ok ()
  | x :: r => if k.vsrcEmpty t x.code then .error (.wait (waitOf x.code)) else vsourcesWait k t r

/-- Row 2 of R123 for a destination register. -/
def vdestWait (k : Core) (t : StreamId) (c : Code) : Except Stop Unit :=
  if codeIsV c then (if (k.vreg c).empty then .error (.wait .fullEmpty) else .ok ()) else destReady k t c

/-- The mask register v0. -/
def codeV0 : Code := 0x40

/-- Rows 1 and 2 of R123: sources, the mask and the destination. -/
def vectorWaits (l : List Src) (mk : Bool) (d : Code) : Exec Unit := do
  let s ← get
  let k := s.cur
  let t := s.turn.2
  Exec.ofExcept (vsourcesE k t l)
  Exec.ofExcept (vsourcesWait k t l)
  if mk && (k.vreg codeV0).empty then throw (.wait .fullEmpty)
  if codeIsV d then Exec.ofExcept (vdestWait k t d)

/-- Rows 1 to 3 of R123: sources, the mask, the destination, and the class of queue sources. -/
def vectorSources (l : List Src) (mk : Bool) (d : Code) : Exec Unit := do
  vectorWaits l mk d
  l.forM sourceClass

/-- The tag watch over a source segment that the instruction reads (R346). The instruction began at `s0`: a match leaves
no effect of it, of the segments below included. -/
def watchSeg (s0 : State) (g : Nat) (c : Code) : Exec Unit := fun s =>
  match watchTag false ((s.cur.vreg c).seg g).tag c g s0 with
  | .ok _ _ => .ok () s
  | .error e s' => .error e s'

/-- The mask register when the instruction is masked. -/
def maskReg (k : Core) (mk : Bool) : Option VReg := if mk then some (k.vreg codeV0) else none

/-! ### Checks of a segment (R73, R139, R356) -/

/-- The parity check of one source segment: a failure sets it to zeros under 0x0200, counts the error and traps LANE
(R356). -/
def laneCheck (g : Nat) (c : Code) : Exec Unit := do
  let s ← get
  let k := s.cur
  let r := k.vreg c
  let first := g * segSlots k.vec.w
  if g ∈ r.badParity then
    set (laneError s.turn.1 g first (s.modCur (fun k => k.setVreg c (r.putSeg g ⟨0, Config.tagPoison⟩))))
    throw (.trapAt .lane (word (physLane k.units g + c.toNat * 2 ^ 8 + first * 2 ^ 16)) s.strm.pc .check)
  else pure ()

/-- The source segments of one segment: every parity check in field order, then the tag watches, before any tag check
(R73, R346, R352). -/
def readSegs (s0 : State) (cs : List Code) (g : Nat) : Exec Unit := do
  cs.forM (laneCheck g)
  cs.forM (watchSeg s0 g)

/-- Does a stop report a segment: a trap of the checks of R73 or of R356, not a match of the debugger? -/
def Stop.ofSegment : Stop → Bool
  | .trap _ _ => true
  | .trapAt _ _ _ src => src == .check
  | _ => false

/-- What one segment does: where a check of it traps, VSTART holds its first slot (R73, R356). -/
def inSegment (g : Nat) (body : Exec Unit) : Exec Unit := fun s =>
  match body s with
  | .ok a s' => .ok a s'
  | .error stop s' =>
    .error stop (if stop.ofSegment then s'.modCur (fun k => k.setVstart (g * segSlots k.vec.w)) else s')

/-- The same for a segment that an instruction reads whatever VSTART holds: the tag watches are made from the segment of
VSTART upward, of `n` slots each (R346), and a LANE trap sets VSTART (R356). -/
def readFrom (s0 : State) (n : Nat) (cs : List Code) (g : Nat) : Exec Unit := do
  inSegment g (cs.forM (laneCheck g))
  if s0.cur.vec.vstart.toNat / n ≤ g then cs.forM (watchSeg s0 g)

/-- The segments that hold the mask bits of slots VSTART to VL − 1 (R41). -/
def maskSegs (v : Vec) : List Nat :=
  if v.vl.toNat ≤ v.vstart.toNat then []
  else (List.range ((v.vl.toNat - 1) / 512 + 1 - v.vstart.toNat / 512)).map (fun j => v.vstart.toNat / 512 + j)

/-- Row 4 of R123: a mask is read once, and the tags of v0 are not consulted (R41). DESIGN CHOICE (log 56): the segments of v0 that
hold its bits are source segments for R356, read before the others, and a LANE trap of one leaves VSTART, since no segment has been
processed. -/
def readMask (v : Vec) (mk : Bool) : Exec Unit := if mk then (maskSegs v).forM (fun g => laneCheck g codeV0) else pure ()

/-- The parts of an instruction that a drain can stop between two of them (R123, R143, R323). -/
def stopBetween {α : Type} (l : List α) (body : α → Exec Unit) : Exec Unit := do
  match (← get).cut with
  | none => l.forM body
  | some n =>
    (l.take n).forM body
    if n < l.length then throw .drain

/-- Does an instruction read a source segment that names a slot of the pattern book? -/
def namesBook (k : Core) (cs : List Code) (gs : List Nat) : Bool :=
  cs.any (fun c => gs.any (fun g => tagFmt ((k.vreg c).seg g).tag == fmtCb4))

/-- Row 6 of R123: for each segment the reading of its sources, then its checks and its write. An instruction that names slots of the
pattern book goes through its segments without a stop, since it reads each slot once (R75, R76). -/
def eachSegment (s0 : State) (cs : List Code) (gs : List Nat) (body : Nat → Exec Unit) : Exec Unit :=
  let part := fun (g : Nat) => inSegment g (do readSegs s0 cs g; body g)
  if namesBook s0.cur cs gs then gs.forM part else stopBetween gs part

/-- TAG_CLASS over a source segment (R73 step 1). -/
def classCheck (g : Nat) (c : Code) (t : Tag) : Exec Unit := need (tagClass t == 0) .tagClass (tagTval t c g)

/-- TAG_FMT over a source segment (R73 step 2). -/
def fmtCheck (g : Nat) (c : Code) (t : Tag) : Exec Unit := need (fmtOk t) .tagFmt (tagTval t c g)

/-- TAG_WIDTH over a source segment: an element wider than its slot (R71, R73 step 3). -/
def widthCheck (w g : Nat) (c : Code) (t : Tag) : Exec Unit :=
  need (decide (fmtWidth (tagFmt t) ≤ w)) .tagWidth (tagTval t c g)

/-- A CB4 result takes the slot of source A's segment, which must be CB4; otherwise TAG_FMT at step 2 (R87). -/
def cb4Check (toCb4 : Bool) (g : Nat) (a : Code × Tag) : Exec Unit :=
  need (!toCb4 || tagFmt a.2 == fmtCb4) .tagFmt (tagTval a.2 a.1 g)

/-- Steps 1 to 3 of R73 over the sources of a segment, each step in field order. -/
def segChecks (w g : Nat) (toCb4 : Bool) (srcs : List (Code × Tag)) : Exec Unit := do
  srcs.forM (fun x => classCheck g x.1 x.2)
  match srcs with
  | [] => pure ()
  | a :: rest =>
    fmtCheck g a.1 a.2
    cb4Check toCb4 g a
    rest.forM (fun x => fmtCheck g x.1 x.2)
  srcs.forM (fun x => widthCheck w g x.1 x.2)

/-! ### The pattern book (R74, R75, R161) -/

/-- A slot before it is read: UNLOADED traps, PENDING waits or, with E = 1, traps, and a recorded class that is not
VALID traps TAG_CLASS (R74, R161). -/
def bookCheckTag (slot : Nat) (e : Bool) (t : Tag) (code : Code) (seg : Nat) : Exec Unit := do
  let b := (← get).cur.bookSlot slot
  match b.state with
  | .unloaded => throw (.trap .emptyRead (word (0x100 + slot)))
  | .pending => throw (if e then .trap .emptyRead (word (0x100 + slot)) else .wait .book)
  | .full =>
    need (b.vclass == 0) .tagClass (tagTval (mkTag (tagFmt t) b.vclass.toNat (tagScale t)) code seg)

/-- The slot of a CB4 segment before it is read. -/
def bookCheck (slot : Nat) (e : Bool) (code : Code) (seg : Nat) : Exec Unit :=
  bookCheckTag slot e (mkTag fmtCb4 0 slot) code seg

/-- What decodes: an instruction that reaches a PENDING slot waits with nothing of it done, and begins again, so that it sees one
contents of each slot (R74 to R76). -/
def bookWhole (body : Exec Unit) : Exec Unit := fun s =>
  match body s with
  | .error (.wait .book) _ => .error (.wait .book) s
  | r => r

/-- Decode of a slot of a source segment (R79). -/
def decodeSlot (k : Core) (fz : Bool) (tag : Tag) (bits : Nat) : Val :=
  decodeElem (bookOf k) (bits % 2 ^ fmtWidth (tagFmt tag)) tag fz

/-! ### The polymorphic operation (R87) -/

/-- What a polymorphic instruction computes: from the decoded sources in the floating case, with the result format
and the mode in force, and in the integer case; whether CF = INT32 selects the integer case at all (R129, R130);
and whether every change of the exact value sets NX (R130). -/
structure PolyOp where
  float : Nat → Rm → List Val → Val × BitVec 6
  int : List Int → Int × BitVec 6
  intForm : Bool
  estimate : Bool

/-- RoundTo of the exact value of an instruction; an estimate sets NX whenever the result is another number (R130). -/
def roundOp (estimate : Bool) (book : Nat → Nat → Nat) (x : Val) (rf k : Nat) (rm : Rm) (fz : Bool) : Rounded :=
  let r := roundAny book x rf k rm fz
  if estimate && !x.isNan && r.2 != 0 then (r.1, r.2 ||| flagNX) else r

/-- The lattice that an instruction reads once (R86). -/
def latticeOf (s : State) : Tab (BitVec 16) := (s.guest (s.guestOf s.turn.1)).lattice

/-- The result format and the arithmetic of a segment, with TAG_PAIR and the TAG_WIDTH of the result (R84, R87). R87 puts
the check of the scales under CF = INT32, whichever arithmetic the operation then makes. -/
def resultFormat (lat : Tab (BitVec 16)) (tov w g : Nat) (d : Code) (intForm : Bool) (srcs : List (Code × Tag)) :
    Exec (Nat × Bool) := do
  let l := latticeLookup lat (srcs.map (fun x => tagFmt x.2))
  let bad := srcs.getD l.bad (0, 0)
  need (!l.forbid) .tagPair (tagTval bad.2 bad.1 g)
  let rf := if tov = 0 then l.rf else tov
  need (decide (fmtWidth rf ≤ w)) .tagWidth (tagTval (mkTag rf 0 127) d g)
  if l.int then
    match srcs.find? (fun x => tagScale x.2 != 127) with
    | some x => throw (.trap .tagPair (tagTval x.2 x.1 g))
    | none => pure ()
  return (rf, l.int && intForm)

/-- OR of flags. -/
def orFlags (l : List (BitVec 6)) : BitVec 6 := l.foldl (fun a b => a ||| b) 0

/-- Round the results of a segment and write it (R87): values or integers by slot, the result format, the scale. -/
def writeResults (mk : Option VReg) (g : Nat) (d : Code) (rf k : Nat) (res : List (Nat × Rounded)) (extra : BitVec 6) :
    Exec Unit :=
  modify (fun s => s.modCur (fun c =>
    let v := c.vec
    let act := activeIn v mk g
    let c := c.note 4 (some .x) .u act.length
    let c := if act.isEmpty then c
      else (c.setVreg d ((c.vreg d).putSeg g (mergeSeg v mk g ((c.vreg d).seg g) (mkTag rf 0 k)
        (fun i => ((tabFind res i).getD (0, 0)).1)))).orFstat (extra ||| orFlags (res.map (fun x => x.2.2)))
    c.setVstart ((g + 1) * segSlots v.w)))

/-- One segment of a polymorphic instruction (R87). DESIGN CHOICE (log 57): an operation without an integer form (VSQRT, R129) takes
ScaleFor as in the floating case, CF = INT32 or not; and the slots of the CB4 sources are tested in field order, each for its traps
and its wait together, so that A waits for a PENDING slot before B's slot traps. -/
def polySegment (op : PolyOp) (lat : Tab (BitVec 16)) (mk : Option VReg) (rm : Rm) (tov : Nat) (d : Code) (l : List Src)
    (g : Nat) : Exec Unit := do
  let s ← get
  let v := s.cur.vec
  let w := v.w
  let srcs := l.map (fun x => (x.code, ((s.cur.vreg x.code).seg g).tag))
  segChecks w g (tov == fmtCb4) srcs
  let (rf, isInt) ← resultFormat lat tov w g d op.intForm srcs
  l.forM (fun x => do
    let t := ((s.cur.vreg x.code).seg g).tag
    if tagFmt t = fmtCb4 then bookCheck (tagScale t) x.e x.code g)
  let act := activeIn v mk g
  let dec := fun (i : Nat) => l.map (fun x =>
    decodeSlot s.cur v.fz ((s.cur.vreg x.code).seg g).tag ((s.cur.vreg x.code).slot w i))
  let slot := tagScale (srcs.headD (0, 0)).2
  if isInt then
    let rs := act.map (fun i => (i, op.int ((dec i).map Val.toInt)))
    writeResults mk g d rf (if rf = fmtCb4 then slot else 127)
      (rs.map (fun x => (x.1, integerResult (bookOf s.cur) x.2.1 rf slot rm v.fz)))
      (orFlags (rs.map (fun x => x.2.2)))
  else
    let rs := act.map (fun i => (i, op.float rf rm (dec i)))
    let k := if rf = fmtCb4 then slot else scaleFor (rs.map (fun x => x.2.1)) rf
    writeResults mk g d rf k (rs.map (fun x => (x.1, roundOp op.estimate (bookOf s.cur) x.2.1 rf k rm v.fz)))
      (orFlags (rs.map (fun x => x.2.2)))

/-- The end of a vector instruction: VSTART = 0 (row 7 of R123). -/
def endVector : Exec Unit := modify (fun s => s.modCur (fun k => k.setVstart 0))

/-- A polymorphic instruction: rows 1 to 7 of R123 about R87. -/
def polyOp (i : Instr) (op : PolyOp) (f : RForm) (l : List Src) (rm : Option Rm) (s : State) : Out :=
  issue i (do
    vectorSources l (mfMk f.m) f.d
    readMask s.cur.vec (mfMk f.m)
    let v := s.cur.vec
    let mk := maskReg s.cur (mfMk f.m)
    bookWhole (eachSegment s (l.map Src.code) (segRange v)
      (polySegment op (latticeOf s) mk (rm.getD (rmFor v (mfRmo f.m))) (mfTov f.m) f.d l))
    endVector) s

/-- A vector instruction that does not decode: its sources, then each segment, then VSTART = 0 (R123). -/
def rawOp (i : Instr) (f : RForm) (l : List Src) (mk : Bool) (body : Option VReg → Nat → Exec Unit) (s : State) : Out :=
  issue i (do
    vectorSources l mk f.d
    readMask s.cur.vec mk
    eachSegment s ((l.map Src.code).filter codeIsV) (segRange s.cur.vec) (body (maskReg s.cur mk))
    modify (fun s => s.modCur (fun k => k.popAll l))
    endVector) s

/-- Write a segment with given slots under a tag (R72), and move VSTART. -/
def writeSlots (mk : Option VReg) (g : Nat) (d : Code) (tag : Tag) (res : Nat → Nat) : Exec Unit :=
  modify (fun s => s.modCur (fun c =>
    let v := c.vec
    let act := activeIn v mk g
    let c := c.note 4 (some .x) .u act.length
    let c := if act.isEmpty then c
      else c.setVreg d ((c.vreg d).putSeg g (mergeSeg v mk g ((c.vreg d).seg g) tag res))
    c.setVstart ((g + 1) * segSlots v.w)))

end Sys2Proof.Machine
end

