-- ==== Sys2Proof/Machine/Lines.lean ====
section
/-! DEFINITION. Machine/Lines.lean: what stores do to a line: LineStore, the merge of a partial-line store, and the
conversion of a whole line (R60, R69, R89 to R92, R233, R234). -/

namespace Sys2Proof.Machine

/-- Why a line cannot be stored: its tag, or a slot of the pattern book. -/
inductive LineFail where
  | cls (t : Tag)
  | width (t : Tag)
  | fmt (t : Tag)
  | empty (slot : Nat)
  | pending
deriving DecidableEq, Repr

/-- The cause of a failed store. -/
def LineFail.cause : LineFail → Cause
  | .cls _ => .tagClass
  | .width _ => .tagWidth
  | .fmt _ => .tagFmt
  | .empty _ => .emptyRead
  | .pending => .emptyRead

/-- The stop of an instruction whose operand `code` cannot be stored (R231 step 10, R351). -/
def LineFail.stop (code : Code) : LineFail → Stop
  | .cls t => .trap .tagClass (tagTval t code 0)
  | .width t => .trap .tagWidth (tagTval t code 0)
  | .fmt t => .trap .tagFmt (tagTval t code 0)
  | .empty slot => .trap .emptyRead (word (0x100 + slot))
  | .pending => .wait .book

/-- Make a check of a line the current instruction's. -/
def lineExec {α : Type} (code : Code) (r : Except LineFail α) : Exec α :=
  match r with
  | .ok a => pure a
  | .error e => throw (e.stop code)

/-- A slot of a pattern book before a store reads it (R74, R161, R234). -/
def slotUsable (k : Core) (slot : Nat) (t : Tag) : Except LineFail Unit :=
  let b := k.bookSlot slot
  match b.state with
  | .unloaded => .error (.empty slot)
  | .pending => .error .pending
  | .full => if b.vclass = 0 then .ok () else .error (.cls (mkTag (tagFmt t) b.vclass.toNat (tagScale t)))

/-- LineStore (R234): what a whole line becomes on a page, in the core whose pattern book converts it. -/
def lineStore (k : Core) (x : Xlat) (e : LineImg) : Except LineFail LineImg := do
  let rc := pteClass x.leaf == 1
  if x.typed = false then return ⟨e.bits, e.tag, false⟩
  if tagClass e.tag ≠ 0 then throw (.cls e.tag)
  let n := lineElemsOf e.tag e.mark 8
  if rc && n != 32 then throw (.width e.tag)
  let f := if ptePolicy x.leaf = 0 then tagFmt e.tag else policyFmt (ptePolicy x.leaf)
  let (b, t) ← if f = tagFmt e.tag then pure (e.bits, e.tag) else do
    if fmtOk e.tag = false then throw (.fmt e.tag)
    if rc = false ∧ 512 / fmtWidth f < n then throw (.width e.tag)
    if f = fmtCb4 then slotUsable k 255 e.tag
    if tagFmt e.tag = fmtCb4 then slotUsable k (tagScale e.tag) e.tag
    pure (convertLine (bookOf k) f n e.tag e.bits)
  if rc && !rcFormat f then throw (.width e.tag)
  return ⟨rcSpan rc t b, t, rc⟩

/-! ### Partial-line stores (R60, R91, R233, R280) -/

/-- RAW bytes merged into a line (the RAW row of R91, R60). -/
def mergeRaw (rc : Bool) (line : LineImg) (off n : Nat) (v : Nat) : Except LineFail Change :=
  if tagClass line.tag = 1 then
    if rc then .error (.width Config.tagRaw)
    else .ok ⟨byteMask off n, setLineBytes 0 off n v, none, .part⟩
  else if tagClass line.tag ≠ 0 then .error (.cls line.tag)
  else
    let keep := if rc && fmtWidth (tagFmt line.tag) != 0 then 4 * fmtWidth (tagFmt line.tag) else 64
    .ok ⟨byteMask off (Nat.min n (keep - off)), setLineBytes 0 off n v, none, .part⟩

/-- The tables of a core's pattern book that a typed store uses: for a CB4 entry its slot, for a CB4 line the line's (R91). -/
def usedTables (k : Core) (t line : Tag) : Tab (BitVec 256) :=
  ([t, line].filter (fun x => tagFmt x = fmtCb4)).foldl (fun m x => tabPut m (tagScale x) (k.bookSlot (tagScale x)).entries) []

/-- Typed data merged into a line (the typed rows of R91, R60, R233): the elements in the first `n` bytes of an entry
of tag `t`, which the line converts in its place in line order. Two points are the model's choice (log 46): an unfit FMT or
SCALE of the line traps TAG_FMT before unequal element counts trap TAG_WIDTH, and data of fewer bytes than one element stores
no element (an UNINIT line then becomes VALID zeros under `t`). -/
def mergeTyped (k : Core) (rc : Bool) (line : LineImg) (off n : Nat) (t : Tag) (v : LineBits) : Except LineFail Change := do
  let w := fmtWidth (tagFmt t)
  let m := n * 8 / w
  let i := off * 8 / w
  if tagClass line.tag = 1 then
    if rc && !rcFormat (tagFmt t) then throw (.width t)
    if rc && decide (32 < i + m) then throw (.width t)
    return ⟨elemBytes w i m, v, none, .typed t i m rc (usedTables k t Config.tagRaw)⟩
  if tagClass line.tag ≠ 0 then throw (.cls line.tag)
  if fmtOk line.tag = false then throw (.fmt line.tag)
  let wl := fmtWidth (tagFmt line.tag)
  if (if rc then decide (32 < i + m) else decide (w ≠ wl)) then throw (.width t)
  if tagFmt t = fmtCb4 then slotUsable k (tagScale t) t
  if tagFmt line.tag = fmtCb4 then slotUsable k (tagScale line.tag) line.tag
  return ⟨elemBytes wl i m, v, none, .typed t i m rc (usedTables k t line.tag)⟩

end Sys2Proof.Machine
end

