-- ==== Sys2Proof/Machine/Global.lean ====
section
/-! DEFINITION. Machine/Global.lean: requests of the A and C paths for lines, ownership, credit and pins, reading a
line through its page, writes that perform later than their instruction retires, and page-state words (R205, R210 to
R218, R231 to R238, R245). -/

namespace Sys2Proof.Machine

/-! ### Requests (R204, R205, R343, R393) -/

/-- What leaves of these lines of a stack's LLC, oldest first, where they and `more` others are too many for it: first those of guests
that have no way in the row in force (R11, log 47). -/
def llcExcess (s : State) (st more : Nat) (l : List (Nat × Nat × Nat)) : List (Nat × Nat × Nat) :=
  let absent := fun (x : Nat × Nat × Nat) => llcLines s st x.2.1 == 0
  (l.filter absent ++ l.filter (fun x => !absent x)).take (l.length + more - stackLines s st)

/-- The lines that leave a stack's LLC as a line of a guest enters it, which may fill `n` there: the guest's own oldest ones, and,
where the LLC is full, the oldest of other guests (log 47). -/
def llcOut (s : State) (e : Nat × Nat × Nat) (n : Nat) : List (Nat × Nat × Nat) × List (Nat × Nat × Nat) :=
  let here := s.llc.filter (fun x => x.1 == e.1)
  let mine := here.filter (fun x => x.2.1 == e.2.1)
  let own := mine.take (mine.length + 1 - n)
  (own, llcExcess s e.1 (mine.length + 1 - own.length) (here.filter (fun x => x.2.1 != e.2.1)))

/-- Lines leave the LLC, those that have been written for HBM (R205). -/
def dropLlcLines (out : List (Nat × Nat × Nat)) (s : State) : State :=
  { s with
    llc := s.llc.filter (fun x => x ∉ out)
    llcDirty := s.llcDirty.filter (fun x => x ∉ out)
    replicas := s.replicas.filter (fun r => (r.stack, r.guest, r.line) ∉ out) }

/-- A stack's LLC gives up what it has no longer room for, as banks of it leave service or saved contexts enter it (R11, R321, R377). -/
def llcTrim (st : Nat) (s : State) : State := dropLlcLines (llcExcess s st 0 (s.llc.filter (fun x => x.1 == st))) s

/-- A line or replica enters the part of a stack's LLC that a core's guest can fill, and no stack holds more than its LLC; what
leaves and has been written goes to HBM (R11, R205, R214, R343, log 47). `t` is the stream whose instruction makes the request, none
for an engine; a fetch is not counted, and neither is another guest's line (R343, R393). -/
def llcFill (counted : Bool) (t : Option StreamId) (c : Nat) (e : Nat × Nat × Nat) (s : State) : State :=
  let n := llcLines s e.1 e.2.1
  if n = 0 then s
  else
    let (own, rest) := llcOut s e n
    let s := if counted then s.modCore c (fun k => k.note 0x14 t .u (own.filter (fun x => x ∈ s.llcDirty)).length) else s
    let s := dropLlcLines (e :: own ++ rest) s
    { s with llc := s.llc ++ [e] }

/-- A request of a core at a stack's LLC: a hit, or a miss that reads HBM and fills the ways of the core's guest (R11, R205,
R343). -/
def llcRequest (t : Option StreamId) (c stack line : Nat) (s : State) : State :=
  let e := (stack, s.guestOf c, line)
  if e ∈ s.llc then s.modCore c (fun k => k.note 0x11 t .u 1)
  else llcFill true t c e (s.modCore c (fun k => (k.note 0x12 t .u 1).note 0x13 t .u 1))

/-- A line that a core writes reaches its home: the LLC holds it written, or HBM takes it (R205, R343, log 17). -/
def homeWrites (t : Option StreamId) (c : Nat) (l : Loc) (s : State) : State :=
  let e := (homeStack l.line, s.guestOf c, l.line)
  if l.space ≠ .hbm then s
  else if e ∈ s.llc then { s with llcDirty := listAdd s.llcDirty e }
  else s.modCore c (fun k => k.note 0x14 t .u 1)

/-- A write at a line's home is a request of its own: an LLC hit or a miss (R163, R238, R343, R393, log 17). -/
def homeNote (t : Option StreamId) (c : Nat) (l : Loc) (s : State) : State :=
  let hit := decide ((homeStack l.line, s.guestOf c, l.line) ∈ s.llc)
  if l.space = .hbm then s.modCore c (fun k => k.note (if hit then 0x11 else 0x12) t .u 1) else s

/-- A whole line that a core writes at its home (R238). -/
def homeLine (c : Nat) (l : Loc) (s : State) : State := homeWrites none c l (homeNote none c l s)

/-- Lines that a near cache holds (R205). -/
def nearLines : Nat := 8192

/-- A line in a near cache, the oldest one leaving a full cache. -/
def Core.holdNear (k : Core) (l : Loc) : Core :=
  if l ∈ k.near then k
  else
    let n := k.near.drop (k.near.length + 1 - nearLines)
    { k with near := n ++ [l], excl := k.excl.filter (fun x => decide (x ∈ n)) }

/-- The other cores give up a line for an exclusive holder, or their exclusive hold of it for a sharer (R205). -/
def recallLine (c : Nat) (l : Loc) (whole : Bool) (s : State) : State :=
  { s with cores := s.cores.map (fun e =>
      if e.1 = c ∨ l ∉ e.2.near then e
      else (e.1, { e.2 with excl := listDel e.2.excl l, near := if whole then listDel e.2.near l else e.2.near })) }

/-- Does another core's near cache hold a line? -/
def heldElsewhere (s : State) (c : Nat) (l : Loc) : Bool := s.cores.any (fun e => e.1 != c && decide (l ∈ e.2.near))

/-- A request for a peer's line leaves on a link as a flit, and its answer is awaited (R385, R387, R388, log 32). -/
def requestOn (i : Nat) (l : Loc) (s : State) : State := { fabricCount 0x20 i 1 s with peerOut := s.peerOut ++ [(i, l.line)] }

/-- A line leaves on a link (R385, R388, log 32). -/
def lineOn (i : Nat) (s : State) : State := fabricCount 0x22 i 1 (fabricCount 0x20 i 1 s)

/-- A guest's request for a peer's line, made through a GPA, leaves on the link of that GPA (R386). -/
def sendRequest (g gpa : Nat) (l : Loc) (s : State) : State :=
  match (if l.space = .peer then linkOf s g gpa else none) with
  | some i => requestOn i l s
  | none => s

/-- A line that a guest writes behind an aperture, through a GPA, leaves on the link of that GPA (R385, R386, R388, log 32). -/
def sendLine (g gpa : Nat) (l : Loc) (s : State) : State :=
  match (if l.space = .peer then linkOf s g gpa else none) with
  | some i => lineOn i s
  | none => s

/-- An access of the host or the LN840 itself, through a guest's GPA, to a line behind an aperture (R386, R388). -/
def sendAccess (write : Bool) (g gpa : Nat) (l : Loc) (s : State) : State :=
  if write then sendLine g gpa l s else sendRequest g gpa l s

/-- A request of the A or C path at the home of a line, made through a GPA (R204, R343, R393). -/
def homeRequest (t : Option StreamId) (c gpa : Nat) (l : Loc) (s : State) : State :=
  if l.space = .hbm then llcRequest t c (homeStack l.line) l.line s else sendRequest (s.guestOf c) gpa l s

/-- A near-cache miss of the A or C path, and the request at the home (R205, R343). -/
def missHome (t : Option StreamId) (c gpa : Nat) (l : Loc) (s : State) : State :=
  homeRequest t c gpa l (s.modCore c (fun k => k.note 0x10 t .u 1))

/-- A request of the A or C path, unless its near cache holds the line (R205, R343). -/
def missRequest (t : Option StreamId) (c gpa : Nat) (l : Loc) (s : State) : State :=
  if l ∈ (s.core c).near then s else missHome t c gpa l s

/-- A read request: the line is held, exclusively when no other core holds it (R233). -/
def readRequest (t : Option StreamId) (c gpa : Nat) (l : Loc) (s : State) : State :=
  if l ∈ (s.core c).near then s
  else
    let alone := !heldElsewhere s c l
    let s := recallLine c l false (missRequest t c gpa l s)
    s.modCore c (fun k => let k := k.holdNear l; if alone then { k with excl := listAdd k.excl l } else k)

/-- The line is held exclusively once its home has granted it (R233, R257). -/
def ownLine (c : Nat) (l : Loc) (s : State) : State :=
  (recallLine c l true s).modCore c (fun k =>
    let k := k.holdNear l
    { k with excl := listAdd k.excl l })

/-- The wait for the home's answer about a line: the request is sent once, and its answer is used once (R231). An atomic on a
peer's line is sent whether or not the near cache holds the line (R283). -/
def askHome (gpa : Nat) (l : Loc) (atomic : Bool) : Exec Unit := do
  let s ← get
  match s.cur.ask with
  | some (l', true) => if l' = l then set (s.modCur (fun k => { k with ask := none })) else sendAsk l
  | some (l', false) => if l' = l then throw (.wait .home) else sendAsk l
  | none => sendAsk l
where
  /-- Send the request. -/
  sendAsk (l : Loc) : Exec Unit := do
    modify (fun s => (if atomic then homeRequest (some .a) s.turn.1 gpa l s else missRequest (some .a) s.turn.1 gpa l s).modCur
      (fun k => { k with ask := some (l, false) }))
    throw (.wait .home)

/-- Do the homes of the unperformed writes of a core's A path that a test selects serve them now (R325)? -/
def ownOpen (s : State) (c : Nat) (sel : WriteRec → Bool) : Bool :=
  s.writes.all (fun r => r.performed || decide (r.writer ≠ some ⟨c, .a⟩) || !sel r || homeOpen s r.loc)

/-- The wait for the homes of the A path's earlier writes, which are about to perform (R325). -/
def waitHomes : Exec Unit := do
  let s ← get
  waitFor (ownOpen s s.turn.1 (fun _ => true)) .home

/-- The wait for exclusive ownership of a line (R233, R257), and for the homes of the path's earlier writes (R325). -/
def waitOwn (gpa : Nat) (l : Loc) : Exec Unit := do
  waitHomes
  let s ← get
  if l ∈ s.cur.excl then pure ()
  else
    askHome gpa l false
    modify (fun s => ownLine s.turn.1 l s)

/-- HOME_ANSWER (R231): the answer to the request that the A path of a core waits for. -/
def execHomeAnswer (core : Nat) (s : State) : Out :=
  match (s.core core).ask with
  | some (l, false) => .next (s.modCore core (fun k => { k with ask := some (l, true) }))
  | _ => .next s

/-! ### Granule credit (R218) -/

/-- The wait for granule credit; refused, it is a page fault with reason POOL. -/
def takeCredit (n gva : Nat) : Exec Unit := do
  let s ← get
  if n ≤ s.cur.credit then pure ()
  else if s.strm.creditRefused then throw (.page false true reasonPool gva)
  else throw (.wait (.credit n))

/-! ### Pins (R210) -/

/-- Pin entries that a core's streams and copies use. -/
def Core.pinsUsed (k : Core) : Nat :=
  (k.slots.map (fun e => e.2.pins.length)).sum + (k.copy.queue.map (fun c => c.pins.length)).sum

/-- Translations that the appends of a core hold until their lines are written (R210): its number in the write that took
the grant, and the page. -/
def appendPins (s : State) (c : Nat) : List Xlat :=
  (s.writes.filterMap (fun r => if r.performed = false ∧ r.writer.map Party.core = some c then r.pin else none))

/-- The page that holds a GVA, as far as the tables give one; its first byte and its size. DESIGN CHOICE (log 43): where they give none,
a part of a range counts in pages of 4 KiB. -/
def pageOf (s : State) (c gva : Nat) : Nat × Nat :=
  match lookup s c .free gva with
  | .ok x => (x.gva, x.size)
  | .error _ => (gva / 4096 * 4096, 4096)

/-- Insert a page, with an address touched on it, into a list sorted by page that keeps its first 257. -/
def insPage (p a : Nat) : List (Nat × Nat) → List (Nat × Nat)
  | [] => [(p, a)]
  | (q, b) :: r =>
    if p < q then ((p, a) :: (q, b) :: r).take 257
    else if p = q then (q, Nat.min a b) :: r
    else ((q, b) :: insPage p a r).take 257

/-- The distinct pages that addresses touch, each with the lowest address on it, at most 257, ascending. -/
def pagesOf (s : State) (c : Nat) (as : List Nat) : List (Nat × Nat) :=
  as.foldl (fun l a => insPage (pageOf s c a).1 a l) []

/-- The first address of each page of a range, at most `n` of them. -/
def rangePages (s : State) (c : Nat) (top : Nat) : Nat → Nat → List Nat
  | 0, _ => []
  | n + 1, a => if top ≤ a then [] else a :: rangePages s c top n ((pageOf s c a).1 + (pageOf s c a).2)

/-- More than 256 pages trap BOUND with the lowest address on the 257th (R210). -/
def pagesBound (ps : List (Nat × Nat)) : Exec Unit :=
  match ps[256]? with
  | some (_, a) => throw (.trap .bound (word a))
  | none => pure ()

/-- The wait for pin entries (R210, R235). -/
def waitPins (n : Nat) : Exec Unit := do
  let s ← get
  waitFor (decide (s.cur.pinsUsed + (appendPins s s.turn.1).length + n ≤ Config.pins)) (.pins n)

/-- A page translated by an instruction, once: a page that the instruction has translated keeps its translation (R210). -/
def translateOnce (acc : Acc) (pins : List Xlat) (gva : Nat) : Exec (List Xlat × Xlat) := do
  match pins.find? (fun x => x.covers gva) with
  | some x => return (pins, x)
  | none =>
    let x ← translate acc gva
    return (pins ++ [x], x)

/-- The translations of addresses in the order given, each final GPA through the comparator (R209, R236). -/
def translateEach (acc : Acc) (as : List Nat) (pins : List Xlat) : Exec (List Xlat) :=
  as.foldlM (fun pins a => do
    let (pins, x) ← translateOnce acc pins a
    let _ ← placeOf acc x a
    return pins) pins

/-- The lines of a range on one page: the final GPA of the first line that a comparator can refuse goes through it (R209).
Within device memory the GPAs of a page rise to the bound or pass it once. -/
def placeRange (acc : Acc) (x : Xlat) (a n : Nat) : Exec Unit := do
  let _ ← placeOf acc x a
  let s ← get
  let g := s.guest (s.guestOf s.turn.1)
  let lo := x.gpaAt a
  if lo < 2 ^ 46 ∧ g.bound * 65536 < lo + 64 * n then
    let _ ← placeOf acc x (a + (g.bound * 65536 - lo))

/-- The translations of a range of lines, page after page in ascending address order (R231 step 8): the pages with the lines
on each. -/
def translateRange (acc : Acc) (top : Nat) : Nat → Nat → Exec (List (Xlat × Nat))
  | 0, _ => pure []
  | fuel + 1, a => do
    if top ≤ a then return []
    let x ← translate acc a
    let stop := Nat.min top (x.gva + x.size)
    placeRange acc x a ((stop - a) / 64)
    return (x, a) :: (← translateRange acc top fuel stop)

/-- The pin of a list that covers a GVA. -/
def pinFor (pins : List Xlat) (gva : Nat) : Option Xlat := pins.find? (fun x => x.covers gva)

/-! ### Page-state words (R212, R213, R260) -/

/-- The place of the page-state word of a page. -/
def pageStateLoc (s : State) (g pageGpa : Nat) : Loc := ⟨.hbm, hpaOf (s.guest g) (pageStateGpa (s.guest g) pageGpa) / 64⟩

/-- No near cache holds any of `n` lines of HBM (R406). -/
def dropNearRange (first n : Nat) (s : State) : State :=
  let keep := fun (l : Loc) => decide (l.space ≠ .hbm) || decide (l.line < first) || decide (first + n ≤ l.line)
  { s with cores := s.cores.map (fun e => (e.1, { e.2 with near := e.2.near.filter keep, excl := e.2.excl.filter keep })) }

/-- No near cache holds a line of a page (R406). -/
def dropNearPage (g : Nat) (x : Xlat) (s : State) : State := dropNearRange (hpaOf (s.guest g) x.gpa / 64) (x.size / 64) s

/-- A write to a line of a guest, which may make page-state words on it show SEALED: no near cache holds a line of such a page
that a core of the guest knows by its leaf (R212, R406). -/
def sealsIn (g : Nat) (l : Loc) (f : State → State) (s : State) : State :=
  let t := f s
  let pages := ((s.cores.filter (fun e => decide (e.2.guest = some g))).flatMap (fun e => e.2.tlb)).filter (fun x =>
    decide (2 ≤ pteClass x.leaf) && decide (pageStateLoc s g x.gpa = l) && pageSealed t g x && !pageSealed s g x)
  pages.foldl (fun s x => dropNearPage g x s) t

/-- Write 8 bytes of a guest's device memory at the home: pending writes to them take their place before it; an UNINIT line
becomes RAW, and bytes of a line that is neither VALID nor UNINIT are still written (R60, R212, log 39). -/
def homeWriteWord (g gpa : Nat) (v : Word) (s : State) : State :=
  let a := hpaOf (s.guest g) gpa
  let l : Loc := ⟨.hbm, a / 64⟩
  let m := byteMask (a % 64) 8
  let bits := setLineBytes 0 (a % 64) 8 v.toNat
  let kind : WriteKind := if tagClass (latestImg s l).tag ≤ 1 then .part else .plain
  let s := publish (fun r => decide (r.loc = l) && r.pub.isNone && r.mask &&& m != 0) .system [] s
  sealsIn g l (externalChange g l ⟨m, bits, none, kind⟩ (some false)) s

/-- Writes of an append to a page that have not performed: an append in flight (R213). -/
def appendInFlight (s : State) (g pageGpa : Nat) : Bool :=
  s.writes.any (fun r => decide (r.guest = g) && decide (r.apage = some pageGpa) && !r.performed)

/-- The appended lines of a page that a SEAL has published enter a view (R260). -/
def enterAppended (g pageGpa : Nat) (p : Party) (s : State) : State :=
  enterClosed p ((s.writes.filter (fun r => decide (r.guest = g) && decide (r.apage = some pageGpa) && r.pub.isSome)).map
    WriteRec.id) s

/-- When no append is in flight, a page that seals shows SEALED, its appended lines are published at guest scope, and no near
cache holds them (R213, R260, R406). -/
def sealIfDone (g pageGpa size : Nat) (s : State) : State :=
  match pageState s g pageGpa with
  | .error _ => s
  | .ok w =>
    if psSealing w && !psSealed w && !appendInFlight s g pageGpa then
      let s := publish (fun r => decide (r.guest = g) && decide (r.apage = some pageGpa)) .guest [] s
      let s := dropNearRange (hpaOf (s.guest g) pageGpa / 64) (size / 64)
        (s.modGuest g (fun y => { y with freed := listDel y.freed pageGpa }))
      homeWriteWord g (pageStateGpa (s.guest g) pageGpa) (word (2 ^ 63 + psTail w)) s
    else s

/-! ### Writes that perform after their instruction has retired (R238, R245) -/

/-- A write performs at its home: it takes its place in grant order, and a release publishes what it carries (R251,
R256, R260). -/
def performWrite (id : Nat) (s : State) : State :=
  match s.writes.find? (fun r => r.id == id && !r.performed) with
  | none => s
  | some r =>
    let s := { s with writes := s.writes.filter (fun x => x.id != id) }
    let c := (r.writer.map Party.core).getD 0
    let s := recallLine 64 r.loc true (homeLine c r.loc (sendLine r.guest r.gpa r.loc s))
    let r := { r with performed := true }
    let s := sealsIn r.guest r.loc (fun s =>
      match r.rel with
      | none | some .core => { s with writes := partitionWrites (s.writes ++ [r]) }
      | some sc =>
        let gc := gangReach s c
        let s := publish (fun x => decide (x.id ∈ r.carries)) sc gc s
        closeViews (joinImage r.id
          { s with writes := partitionWrites (s.writes ++ [{ r with pub := some sc, gangCores := gc }]) })) s
    match r.apage with
    | none => s
    | some pg => sealIfDone r.guest pg ((r.pin.map Xlat.size).getD 4096) s

/-- Writes of a core's A path that have not performed, oldest first. -/
def unperformed (s : State) (c : Nat) : List Nat :=
  (s.writes.filter (fun r => !r.performed && decide (r.writer = some ⟨c, .a⟩))).map WriteRec.id

/-- Every retired write of a core's A path performs, in program order (R254). -/
def performOwn (c : Nat) (s : State) : State := (unperformed s c).foldl (fun s i => performWrite i s) s

/-- The writes of the same path up to one perform, in program order, once their homes serve them (R254, R325). -/
def performUpTo (id : Nat) (s : State) : State :=
  match (s.writes.find? (fun r => r.id == id && !r.performed)).bind WriteRec.writer with
  | some p =>
    if ownOpen s p.core (fun r => decide (r.id ≤ id)) then
      ((unperformed s p.core).filter (fun i => decide (i ≤ id))).foldl (fun s i => performWrite i s) s
    else s
  | none => s

/-- STQ_HOME_WRITE (R238): the line of a retired STQ is written at its home, after the earlier ones of its path. -/
def execStqHomeWrite (write : Nat) (s : State) : Out := .next (performUpTo write s)

/-- APPEND_LINE_WRITE (R245): a granted line of a retired APD is written at its home. -/
def execAppendLineWrite (write : Nat) (s : State) : Out := .next (performUpTo write s)

/-! ### Reading a line (R211, R214, R253, R260, R406) -/

/-- The stream whose instruction reads by a path: A, or none for an engine (R393). -/
def pathStream (p : Path) : Option StreamId := if p = .a then some .a else none

/-- Count an event of the requests of a core's A and C paths (R393). -/
def countRequest (p : Path) (c ev : Nat) (counted : Bool) (s : State) : State :=
  if counted then s.modCore c (fun k => k.note ev (pathStream p) .u 1) else s

/-- A read of a line of a page that shows SEALED, by the replica of the reader's stack; on a miss the home supplies the line,
which enters the reader's ways of that stack unless it is freed (R205, R214, R216, R343, R406). Host and peer lines have no
replica (R203). The requests of the A and C paths are counted, those of a fetch are not (R393). -/
def readSealed (counted : Bool) (c : Nat) (p : Path) (x : Xlat) (gpa : Nat) (w : Word) (l : Loc) (s : State) : LineImg × State :=
  let g := s.guestOf c
  let s := countRequest p c 0x10 counted (dropNearPage g x (enterAppended g x.gpa ⟨c, p⟩ s))
  if l.space ≠ .hbm then (readThrough s g x gpa (homeImg s l), homeRequest (pathStream p) c gpa l s)
  else if psTail w ≤ (gpa - x.gpa) / 64 then (readThrough s g x gpa (homeImg s l), countRequest p c 0x12 counted s)
  else
    let i := sealedImg s c l
    let stack := coreStack c
    let e := (stack, g, l.line)
    let s :=
      if e ∈ s.llc then countRequest p c 0x11 counted s
      else countRequest p c 0x13 counted (countRequest p c 0x12 counted s)
    if tagClass i.tag = 3 then (i, s)
    else
      let s := if e ∈ s.llc then s else llcFill counted (pathStream p) c e s
      (i, if (replicaOf s stack g l.line).isSome ∨ e ∉ s.llc then s
          else { s with replicas := s.replicas ++ [⟨stack, g, l.line, i.bits, i.tag⟩] })

/-- A path that reads a page-state word showing SEALED has observed it (R260). -/
def observeSealed (c : Nat) (p : Path) (l : Loc) (i : LineImg) (s : State) : State :=
  let g := s.guestOf c
  ((s.writes.filterMap (fun r => if r.guest = g then r.apage else none)).eraseDups).foldl (fun s pg =>
    if pageStateLoc s g pg = l ∧ psSealed (lineWord i.bits (pageStateGpa (s.guest g) pg % 64)) then
      enterAppended g pg ⟨c, p⟩ s
    else s) s

/-- A line as its page shows it: on an RC page the bytes beyond its span read as zero, and its mark is set (R69, R141). -/
def spanned (x : Xlat) (i : LineImg) : LineImg :=
  let rc := pteClass x.leaf == 1
  { i with bits := rcSpan rc i.tag i.bits, mark := rc }

/-- The line that a path of a core reads through a page, with the requests that the read makes. A read through an APPEND entry is
served at the home, and no near cache holds the line (R211, R406). -/
def readLine (c : Nat) (p : Path) (x : Xlat) (gva : Nat) (l : Loc) (s : State) : LineImg × State :=
  let g := s.guestOf c
  let gpa := x.gpaAt gva
  match (if 2 ≤ pteClass x.leaf then (pageState s g x.gpa).toOption else none) with
  | some w =>
    if psSealed w then readSealed true c p x gpa w l s
    else (readThrough s g x gpa (appendImg s g (fun r => decide (⟨c, p⟩ ∈ r.viewers)) x l), missHome (pathStream p) c gpa l s)
  | none =>
    let i := viewImg s ⟨c, p⟩ l
    (spanned x i, observeSealed c p l i (readRequest (pathStream p) c gpa l s))

/-- The image that a read of a line through a page returns, without the requests that it makes. -/
def lineSeen (s : State) (c : Nat) (p : Path) (x : Xlat) (gpa : Nat) (l : Loc) : LineImg :=
  let g := s.guestOf c
  if pageSealed s g x then readThrough s g x gpa (sealedImg s c l)
  else if 2 ≤ pteClass x.leaf then readThrough s g x gpa (appendImg s g (fun r => decide (⟨c, p⟩ ∈ r.viewers)) x l)
  else spanned x (viewImg s ⟨c, p⟩ l)

/-- The current stream's A path reads a line. -/
def readLineA (x : Xlat) (gva : Nat) (l : Loc) : Exec LineImg := do
  let s ← get
  let (i, s') := readLine s.turn.1 .a x gva l s
  set s'
  return i

/-! ### Order within the A path (R236, R254) -/

/-- The address of line `i` of a strided stream (R236). -/
def strided (base stride : Word) (i : Nat) : Word := base + stride * word i

/-- The address of line `i` of a slot (R236). -/
def StreamSlot.addrAt (x : StreamSlot) (i : Nat) : Nat :=
  if x.kind = 1 then (x.base + word (64 * x.idx.getD i 0)).toNat else (strided x.base x.step i).toNat

/-- The place of line `i` of a slot, through its pins; none for a page outside them (R360). -/
def slotPlace (s : State) (core : Nat) (x : StreamSlot) (i : Nat) : Option Loc :=
  if x.kind = 2 then some (spLoc core (x.addrAt i))
  else (pinFor x.pins (x.addrAt i)).bind (fun p => (placeGpa s (s.guestOf core) 1 false (p.gpaAt (x.addrAt i))).toOption)

/-- Line `i` of a slot, read as one write left it (R236, R253); a page outside the slot's pins gives zeros under 0x0100
(R360). -/
def slotLine (core : Nat) (x : StreamSlot) (i : Nat) (s : State) : LineImg × State :=
  let a := x.addrAt i
  if x.kind = 2 then (viewImg s ⟨core, .a⟩ (spLoc core a), s)
  else
    match pinFor x.pins a, slotPlace s core x i with
    | some p, some l =>
      let (e, s) := readLine core .a p a l s
      match x.acq with
      | none => (e, s)
      | some sc => (e, acquireRead ⟨core, .a⟩ l allBytes sc s)
    | _, _ => (⟨0, Config.tagUninit, false⟩, s)

/-- Loads on their way to a location (a line and 8 bytes of it) keep the value read at issue from now on (R254). -/
def fixLoads (c : Nat) (sel : Loc → Nat → Bool) (s : State) : State :=
  s.modCore c (fun k => { k with producers := k.producers.map (fun p =>
    match p with
    | .ld reg off size sg v fixed x gva l => .ld reg off size sg v (fixed || sel l (off / 8)) x gva l
    | p => p) })

/-- The lines of a slot that an access to lines that a test selects comes after: the unread ones up to the last selected (R236,
R254). -/
def slotDue (s : State) (core : Nat) (x : StreamSlot) (sel : Loc → Bool) : List Nat :=
  let hit := fun (i : Nat) => match slotPlace s core x i with
    | some l => sel l
    | none => false
  let todo := (List.range x.count).filter (fun i => decide (x.next ≤ i) && (tabFind x.got i).isNone)
  (todo.reverse.dropWhile (fun i => !hit i)).reverse

/-- Do the homes of the lines that slots have to read before such an access serve them now (R325)? -/
def slotsOpen (s : State) (core : Nat) (sel : Loc → Bool) (l : Tab StreamSlot) : Bool :=
  l.all (fun e => (slotDue s core e.2 sel).all (fun i => match slotPlace s core e.2 i with
    | some l => homeOpen s l
    | none => true))

/-- The lines of one slot up to the last that a test selects are read now, in ascending order, to be pushed later (R236,
R254). -/
def settleSlot (core : Nat) (sel : Loc → Bool) (n : Nat) (s : State) : State :=
  match tabFind (s.core core).slots n with
  | none => s
  | some x =>
    let is := slotDue s core x sel
    let (got, s) := is.foldl (fun (r : List (Nat × QEntry) × State) i =>
      let (e, s) := slotLine core x i r.2
      (r.1 ++ [(i, ⟨e.bits, e.tag, e.mark⟩)], s)) (x.got, s)
    if is.isEmpty then s
    else s.modCore core (fun k => { k with slots := k.slots.map (fun e => if e.1 = n then (n, { x with got := got }) else e) })

/-- The same of every slot of a core, in the order in which their streams issued. -/
def settleSlots (core : Nat) (sel : Loc → Bool) (s : State) : State :=
  ((s.core core).slots.map (·.1)).foldl (fun s n => settleSlot core sel n s) s

/-- An access of the A path to 8 bytes of a line, or to the whole line, comes after the path's earlier reads of them (R254). -/
def orderAt (c : Nat) (l : Loc) (o : Option Nat) (s : State) : State :=
  fixLoads c (fun x y => x == l && (o.isNone || o == some y)) (settleSlots c (fun x => x == l) s)

/-- An acquire, a fence or a phase boundary comes after the path's earlier reads (R254, R255). -/
def orderAll (c : Nat) (s : State) : State := fixLoads c (fun _ _ => true) (settleSlots c (fun _ => true) s)

/-- An access of the A path to lines that a test selects waits while an acquiring stream has lines to read (R256), and for the homes of
the lines that it comes after (R254, R325). -/
def waitReads (sel : Loc → Bool) : Exec Unit := do
  let s ← get
  waitFor (s.cur.slots.all (fun e => e.2.acq.isNone)) .resource
  waitFor (slotsOpen s s.turn.1 sel s.cur.slots) .home

/-- The acquire of a read of the A path (R256). -/
def acquireLine (l : Loc) (mask : BitVec 64) (sc : Scope) : Exec Unit :=
  modify (fun s => acquireRead ⟨s.turn.1, .a⟩ l mask sc (orderAll s.turn.1 s))

/-- The line as a store of a core meets it: the published writes and its own core's (R233, R250). -/
def storeImg (s : State) (c : Nat) (l : Loc) : LineImg :=
  imageOf s (fun r => r.performed && (r.pub.isSome || decide (r.writer.map Party.core = some c))) l

/-- The line as the next store of a core's A path meets it: after its earlier writes have performed (R233, R254). -/
def lineUnder (s : State) (c : Nat) (l : Loc) : LineImg := storeImg (performOwn c s) c l

/-- A change that the A path makes to global memory performs: earlier writes of the path first, then this one, published at
once when it is a release (R251, R254, R256). A host line keeps no tag (R203). -/
def performStore (gpa : Nat) (l : Loc) (off : Option Nat) (ch : Change) (mark : Option Bool) (rel : Option Scope) (s : State) :
    State :=
  let c := s.turn.1
  let s := homeWrites (some .a) c l (sendLine (s.guestOf c) gpa l (orderAt c l off (performOwn c s)))
  let ch := if l.space = .host then { ch with tag := none } else ch
  let r := (newWrite s c .a l 0 0 none mark).ofChange ch
  sealsIn (s.guestOf c) l (fun s =>
    match rel with
    | none => addWrite r s
    | some sc => addPublished r ⟨c, .a⟩ sc true s) s

end Sys2Proof.Machine
end

