-- ==== Sys2Proof/Machine/Access.lean ====
section
/-! DEFINITION. Machine/Access.lean: the access-stream instructions but for copies (R227 to R240, R245 to R247), and the
arrival of their data (R19, R236). -/

namespace Sys2Proof.Machine

/-- The scope of an acquire of form M, when the word is one (R41, R256). -/
def mAcq (f : MForm) : Option Scope := if f.or.getLsbD 0 then some (scopeOfSc f.sc.toNat) else none
/-- The scope of a release of form M, when the word is one (R41, R256). -/
def mRel (f : MForm) : Option Scope := if f.or.getLsbD 1 then some (scopeOfSc f.sc.toNat) else none

/-- A GVA has bits [63:48] zero (R231 step 5). -/
def gvaBound (a : Word) : Exec Unit := need (decide (a.toNat < 2 ^ 48)) .bound a

/-- An aligned address (R231 step 4). -/
def alignedTo (n : Nat) (a : Word) : Exec Unit := need (a.toNat % n == 0) .align a

/-- A load's value: bytes of a VALID line, zero otherwise (R232). -/
def loadValue (i : LineImg) (off size : Nat) (signed : Bool) : Word :=
  if tagClass i.tag ≠ 0 then 0
  else if signed then word (lineBytes i.bits off size) |>.setWidth (8 * size) |>.signExtend 64
  else word (lineBytes i.bits off size)

/-- The state after the last step of an access-stream instruction: its queues are popped and its base is updated. -/
def finishM (f : MForm) (unit : Nat) (base : Word) (l : List Src) : Exec Unit := do
  modify (fun s => s.modCur (fun k => k.popAll l))
  mUpdate f unit base

/-! ### Scalar loads (R232) -/

/-- Loads that a core has in flight, each holding a line request. -/
def Core.requests (k : Core) : Nat := (k.producers.filter (fun p => match p with | .ld .. => true | _ => false)).length

/-- LD (R232): D becomes empty, and an acquire is complete at issue. -/
def execLd (sz : LdSize) (f : MForm) (s : State) : Out :=
  issue (.ld sz f) (do
    let vs ← readSources [mSrcA f, mSrcB f]
    let n := sz.bytes
    let a := mAddr f n (w0 vs) (w1 vs)
    alignedTo n a
    watchAddr 0 false a.toNat n
    gvaBound a
    let x ← translate .read a.toNat
    let l ← placeOf .read x a.toNat
    let s ← get
    waitFor (decide (s.cur.requests < Config.lineRequests)) .resource
    waitReads (fun y => (mAcq f).isSome || y == l)
    destWait f.d
    let off := a.toNat % 64
    modify (orderAt s.turn.1 l (some (off / 8)))
    let i ← readLineA x a.toNat l
    let v := loadValue i off n sz.signed
    match mAcq f with
    | none => pure ()
    | some sc => acquireLine l (byteMask off n) sc
    modify (fun s => s.modCur (fun k =>
      let k := if f.d = 0 then k else k.setStream s.turn.2
        { k.stream s.turn.2 with sEmpty := listAdd (k.stream s.turn.2).sEmpty f.d.toNat }
      { k with producers := k.producers ++ [.ld f.d.toNat off n sz.signed v (mAcq f).isSome x a.toNat l] }))
    mUpdate f n (w0 vs)) s

/-- A scalar register of A receives its data and becomes full; the stream sees an event (R19, R366). -/
def Core.fillScalar (k : Core) (reg : Nat) (v : Word) : Core :=
  let st := k.a.setReg (BitVec.ofNat 8 reg) v
  { k with a := { st with sEmpty := listDel st.sEmpty reg, evf := true } }

/-- LOAD_DATA_ARRIVAL (R19, R232): the data of the producer at place `n` of the core arrives. A load that nothing has
fixed may return the line as the path sees it now, when its home serves it; a page-state word that it sees SEALED is observed
(R254, R260, R325). -/
def execLoadDataArrival (core n : Nat) (late : Bool) (s : State) : Out :=
  match (s.core core).producers[n]? with
  | some (.ld reg off size sg v fixed x gva l) =>
    let now := lineSeen s core .a x (x.gpaAt gva) l
    let again := late && !fixed && reachable s (s.guestOf core) (x.gpaAt gva) l
    let s := if again then observeSealed core .a l now s else s
    .next (s.modCore core (fun k => { k with producers := k.producers.eraseIdx n }.fillScalar reg (if again then loadValue now off size sg else v)))
  | _ => .next s

/-- The highest address above a local access (R232). -/
def localBound (a : Word) (n : Nat) : Exec Unit := need (decide (a.toNat + n ≤ Config.spBytes)) .bound a

/-- A local write lies within the declared bytes; TVAL is the first address outside (R231 step 6). -/
def localResident (a n : Nat) : Exec Unit := do
  let b := (← get).cur.placeD.spBytes
  need (decide (a + n ≤ b)) .residency (word (Nat.max a b))

/-- LDS (R232). -/
def execLds (sz : LdSize) (f : MForm) (s : State) : Out :=
  issue (.lds sz f) (do
    let vs ← readSources [mSrcA f, mSrcB f]
    let n := sz.bytes
    let a := mAddr f n (w0 vs) (w1 vs)
    alignedTo n a
    watchAddr 1 false a.toNat n
    localBound a n
    waitReads (fun y => y == spLoc s.turn.1 a.toNat)
    destWait f.d
    modify (fun s =>
      let s := orderAt s.turn.1 (spLoc s.turn.1 a.toNat) (some (a.toNat % 64 / 8)) s
      let i := viewImg s ⟨s.turn.1, .a⟩ (spLoc s.turn.1 a.toNat)
      s.modStrm (fun st => st.setReg f.d (loadValue i (a.toNat % 64) n sz.signed)))
    mUpdate f n (w0 vs)) s

/-! ### Scalar stores (R233) -/

/-- The entry that gives ST typed data, when its data operand is a queue whose oldest entry is not RAW (R233). -/
def typedEntry (k : Core) (b : Code) : Option QEntry :=
  if codeIsQ b then
    match k.queue b with
    | e :: _ => if tagFmt e.tag = fmtRaw then none else some e
    | [] => none
  else none

/-- The mark that a write to a line of a page sets on a line that it makes whole: the RC span, in HBM (R141, R217). -/
def pageMark (l : Loc) (rc : Bool) : Option Bool := if l.space = .hbm then some rc else none

/-- A change that the current A path makes to a line of a page performs (R91, R217, R233). -/
def storeChange (gpa : Nat) (l : Loc) (off : Option Nat) (rc : Bool) (ch : Change) (rel : Option Scope) : Exec Unit :=
  modify (fun s =>
    let old := wholeImg s l
    let new := applyChange (bookOf s.cur) ch (pageMark l rc) old
    performStore gpa l off ch (pageMark l rc) rel (if new = old ∧ 2 ≤ tagClass old.tag then s else settleGranules s.turn.1 l new s))

/-- ST (R233). -/
def execSt (sz : StSize) (f : MForm) (s : State) : Out :=
  issue (.st sz f) (do
    let vs ← readSources [mSrcA f, mSrcB f]
    let n := sz.bytes
    let a := mAddr f n (w0 vs) 0
    alignedTo n a
    watchAddr 0 true a.toNat n
    gvaBound a
    let x ← translate .write a.toNat
    let l ← placeOf .write x a.toNat
    classAllowsStore x a.toNat
    let ty := typedEntry (← get).cur f.b
    match ty with
    | none => pure ()
    | some e => need (fmtOk e.tag) .tagFmt (tagTval e.tag f.b 0)
    waitReads (fun y => y == l)
    takeCredit (creditFor (← get) l) a.toNat
    waitOwn (x.gpaAt a.toNat) l
    let s ← get
    let rc := pteClass x.leaf == 1
    let line := lineUnder s s.turn.1 l
    let ch ← lineExec f.b (match ty with
      | none => mergeRaw rc line (a.toNat % 64) n (w1 vs).toNat
      | some e => mergeTyped s.cur rc line (a.toNat % 64) n e.tag e.bits)
    storeChange (x.gpaAt a.toNat) l (some (a.toNat % 64 / 8)) rc ch (mRel f)
    finishM f n (w0 vs) [mSrcB f]) s

/-- A write of the A path to 8 bytes of the own scratchpad, or to a line of it, after the path's earlier reads of them and after
its earlier writes, which perform in program order (R247, R254). -/
def writeLocal (a : Nat) (off : Option Nat) (ch : Change) (mark : Option Bool) : Exec Unit :=
  modify (fun s =>
    let l := spLoc s.turn.1 a
    let s := orderAt s.turn.1 l off (performOwn s.turn.1 s)
    addWrite ((newWrite s s.turn.1 .a l 0 0 none mark).ofChange ch) s)

/-- STS (R233). -/
def execSts (sz : StSize) (f : MForm) (s : State) : Out :=
  issue (.sts sz f) (do
    let vs ← readSources [mSrcA f, mSrcB f]
    let n := sz.bytes
    let a := mAddr f n (w0 vs) 0
    alignedTo n a
    watchAddr 1 true a.toNat n
    localBound a n
    localResident a.toNat n
    waitReads (fun y => y == spLoc s.turn.1 a.toNat)
    waitHomes
    let s ← get
    let ch ← lineExec f.b (mergeRaw false (storeImg s s.turn.1 (spLoc s.turn.1 a.toNat)) (a.toNat % 64) n (w1 vs).toNat)
    writeLocal a.toNat (some (a.toNat % 64 / 8)) ch none
    finishM f n (w0 vs) [mSrcB f]) s

/-! ### Line streams (R229, R235 to R237) -/

/-- COUNT of a descriptor; 0 traps ILLEGAL (R229). -/
def descCount (d : Word) : Exec Nat := do
  need (fld d 48 16 != 0) .illegal d
  return fld d 48 16

/-- The first address of a list that fails a bound traps BOUND (R236). -/
def boundAll (ok : Word → Bool) (as : List Word) : Exec Unit :=
  match as.find? (fun a => !ok a) with
  | some a => throw (.trap .bound a)
  | none => pure ()

/-- The lowest number of a stream slot that is free (R235). DESIGN CHOICE (log 59): a stream takes the lowest. -/
def freeSlot (k : Core) : Option Nat := (List.range Config.streamSlots).find? (fun i => (tabFind k.slots i).isNone)

/-- The wait for a stream slot (R231 step 7). -/
def takeSlot : Exec Nat := do
  match freeSlot (← get).cur with
  | some i => return i
  | none => throw (.wait .resource)

/-- A stream enters its slot: slots stand in the order in which their streams issued (R235). -/
def startSlot (i : Nat) (x : StreamSlot) : Exec Unit :=
  modify (fun s => s.modCur (fun k => { k with slots := k.slots ++ [(i, x)] }))

/-- STRIDE of a descriptor (R236). -/
def descStride (d : Word) : Word := (d.setWidth 48).signExtend 64

/-- A 32-bit index of LDQI, read as `ld.wu` reads, with the page that it lies on (R236). -/
def readIndex (p : Nat) (pins : List Xlat) (i : Nat) : Exec (List Xlat × Nat) := do
  let a := p + 4 * i
  let (pins, x) ← translateOnce .read pins a
  let l ← placeOf .read x a
  waitReads (fun y => y == l)
  modify (fun s => orderAt s.turn.1 l (some (a % 64 / 8)) s)
  let s ← get
  return (pins, (loadValue (lineSeen s s.turn.1 .a x (x.gpaAt a) l) (a % 64) 4 false).toNat)

/-- The requests of the reads of LDQI's indices, which leave the core once, as it retires (R393). -/
def indexRequests (p : Nat) (pins : List Xlat) (n : Nat) : Exec Unit :=
  (List.range n).forM (fun i => do
    let a := p + 4 * i
    match pinFor pins a with
    | none => pure ()
    | some x =>
      let l ← placeOf .read x a
      let _ ← readLineA x a l)

/-- The indices of LDQI in ascending order, with their pages. -/
def readIndices (p : Nat) : List Nat → List Xlat → Exec (List Xlat × List Nat)
  | [], pins => pure (pins, [])
  | i :: r, pins => do
    let (pins, v) ← readIndex p pins i
    let (pins, vs) ← readIndices p r pins
    return (pins, v :: vs)

/-- Page counting, slot, pins and translation of a global stream: the lines in ascending number, each final GPA through
the comparator (R209, R210, R236, R231 steps 5 to 8). `held` are the pages that the instruction has translated. -/
def streamPages (as : List Nat) (extra : List Nat) (held : List Xlat) : Exec (Nat × List Xlat) := do
  let s ← get
  let ps := pagesOf s s.turn.1 (as ++ extra)
  pagesBound ps
  let i ← takeSlot
  waitPins ps.length
  waitReads (fun _ => false)
  let pins ← translateEach .read as held
  return (i, pins)

/-- A stream that acquires comes after the earlier reads of the path (R254, R256). -/
def orderAcquire (f : MForm) : Exec Unit :=
  if (mAcq f).isSome then do
    waitReads (fun _ => true)
    modify (fun s => orderAll s.turn.1 s)
  else pure ()

/-- LDQ (R236). -/
def execLdq (f : MForm) (s : State) : Out :=
  issue (.ldq f) (do
    let vs ← readSources [mSrcA f, mSrcB f]
    let d := w1 vs
    let n ← descCount d
    let base := mAddr f 64 (w0 vs) 0
    alignedTo 64 base
    need ((descStride d).toNat % 64 == 0) .align d
    let as := (List.range n).map (strided base (descStride d))
    as.forM (fun a => watchAddr 0 false a.toNat 64)
    boundAll (fun a => decide (a.toNat < 2 ^ 48)) as
    let (i, pins) ← streamPages (as.map BitVec.toNat) [] []
    orderAcquire f
    startSlot i ⟨f.d, 0, firstWord (.ldq f), base, descStride d, n, 0, [], pins, mAcq f, []⟩
    mUpdate f 64 (w0 vs)) s

/-- LDQI (R236): the indices are read at issue. -/
def execLdqi (f : MForm) (s : State) : Out :=
  issue (.ldqi f) (do
    let vs ← readSources [mSrcA f, mSrcB f]
    let d := w1 vs
    let n ← descCount d
    let base := mAddr f 64 (w0 vs) 0
    alignedTo 64 base
    let p := fld d 0 48
    need (p % 4 == 0) .align (word p)
    watchAddr 0 false p (4 * n)
    need (decide (p + 4 * n ≤ 2 ^ 48)) .bound (word (2 ^ 48))
    let (held, idx) ← readIndices p (List.range n) []
    let as := idx.map (fun j => base + word (64 * j))
    as.forM (fun a => watchAddr 0 false a.toNat 64)
    boundAll (fun a => decide (a.toNat < 2 ^ 48)) as
    let (i, pins) ← streamPages (as.map BitVec.toNat) ((List.range n).map (fun j => p + 4 * j)) held
    orderAcquire f
    indexRequests p pins n
    startSlot i ⟨f.d, 1, firstWord (.ldqi f), base, word p, n, 0, idx, pins, mAcq f, []⟩
    mUpdate f 64 (w0 vs)) s

/-- LDSQ (R236). -/
def execLdsq (f : MForm) (s : State) : Out :=
  issue (.ldsq f) (do
    let vs ← readSources [mSrcA f, mSrcB f]
    let d := w1 vs
    let n ← descCount d
    let base := mAddr f 64 (w0 vs) 0
    alignedTo 64 base
    need ((descStride d).toNat % 64 == 0) .align d
    let as := (List.range n).map (strided base (descStride d))
    as.forM (fun a => watchAddr 1 false a.toNat 64)
    boundAll (fun a => decide (a.toNat ≤ Config.spBytes - 64)) as
    let i ← takeSlot
    waitReads (fun _ => false)
    startSlot i ⟨f.d, 2, firstWord (.ldsq f), base, descStride d, n, 0, [], [], none, []⟩
    mUpdate f 64 (w0 vs)) s

/-- The next line of a slot: the one read for an earlier access, or the line as it stands now, which the loads in flight and
the streams before it precede (R236, R254). -/
def nextLine (core slot : Nat) (x : StreamSlot) (s : State) : QEntry × State :=
  match tabFind x.got x.next with
  | some e => (e, s)
  | none =>
    let s := match slotPlace s core x x.next with
      | some l => fixLoads core (fun y _ => y == l)
          (((s.core core).slots.map (·.1)).takeWhile (· != slot) |>.foldl (fun s n => settleSlot core (fun y => y == l) n s) s)
      | none => s
    let (i, s) := slotLine core x x.next s
    (⟨i.bits, i.tag, i.mark⟩, s)

/-- Can the next line of a slot be read now, and what the slots before it have to read first (R254, R325, R336)? -/
def slotReady (s : State) (core slot : Nat) (x : StreamSlot) : Bool :=
  (tabFind x.got x.next).isSome || (slotsOpen s core (fun y => slotPlace s core x x.next == some y)
      ((s.core core).slots.takeWhile (fun e => e.1 != slot)) &&
    (decide (x.kind = 2) || (match pinFor x.pins (x.addrAt x.next), slotPlace s core x x.next with
    | some p, some l => reachable s (s.guestOf core) (p.gpaAt (x.addrAt x.next)) l
    | _, _ => true)))

/-- STREAM_SLOT_LINE (R236): the oldest stream to a queue reads its next line and pushes it when an entry is free. -/
def execStreamSlotLine (core slot : Nat) (s : State) : Out :=
  let k := s.core core
  match tabFind k.slots slot with
  | none => .next s
  | some x =>
    if k.mode ≠ .run ∨ k.queueFull x.queue = true ∨ ((k.slotsOf x.queue).head?.map (·.1)) ≠ some slot ∨ slotReady s core slot x = false then
      .next s
    else
      let (e, s) := nextLine core slot x s
      .next (s.modCore core (fun k =>
        let k := k.push x.queue e
        { k with slots := if x.next + 1 < x.count then k.slots.map (fun e => if e.1 = slot then
                            (slot, { x with next := x.next + 1, got := x.got.filter (fun y => y.1 != x.next) }) else e)
                          else tabErase k.slots slot }))

/-- The indices that a restored LDQI reads again, through the pins of its slot (R237, R360). -/
def rereadIndices (s : State) (core : Nat) (x : StreamSlot) : StreamSlot :=
  if x.kind ≠ 1 then x
  else
    { x with idx := (List.range x.count).map (fun i =>
        if i < x.next then x.idx.getD i 0
        else
          let a := x.step.toNat + 4 * i
          match pinFor x.pins a with
          | none => x.idx.getD i 0
          | some p =>
            match placeGpa s (s.guestOf core) 1 false (p.gpaAt a) with
            | .error _ => x.idx.getD i 0
            | .ok l => (loadValue (lineSeen s core .a p (p.gpaAt a) l) (a % 64) 4 false).toNat) }

/-! ### Lines out of queues (R238) -/

/-- The oldest entry of the queue that STQ or STSQ pops, with its tag watches. -/
def popEntry (f : MForm) : Exec QEntry := do
  match (← get).cur.queue f.b with
  | [] => throw (.wait (.queue f.b false))
  | e :: _ =>
    watchTag false e.tag f.b 0
    watchTag true e.tag f.b 0
    return e

/-- The waits for the base and the queue; the entry is carried as a line (R238). -/
def lineSources (f : MForm) : Exec Word := do
  let s ← get
  Exec.ofExcept (sourcesE s.cur s.turn.2 [mSrcA f, mSrcB f])
  Exec.ofExcept (sourcesWait s.cur s.turn.2 [mSrcA f, mSrcB f])
  return s.cur.srcValue s.turn.2 f.a

/-- A whole line that a path of a core stores later at its home, through a GPA (R238, R245). -/
def lateLine (c gpa : Nat) (l : Loc) (i : LineImg) (s : State) : WriteRec :=
  { newWrite s c .a l allBytes i.bits (if l.space = .host then none else some i.tag)
      (if l.space = .hbm then some i.mark else none) with performed := false, gpa := gpa }

/-- STQ (R238): the line is written at its home after retirement. -/
def execStq (f : MForm) (s : State) : Out :=
  issue (.stq f) (do
    let av ← lineSources f
    let e ← popEntry f
    let a := mAddr f 64 av 0
    alignedTo 64 a
    watchAddr 0 true a.toNat 64
    gvaBound a
    let x ← translate .write a.toNat
    let l ← placeOf .write x a.toNat
    classAllowsStore x a.toNat
    let i ← lineExec f.b (lineStore (← get).cur x ⟨e.bits, e.tag, e.mark⟩)
    waitReads (fun y => y == l)
    takeCredit (creditFor (← get) l) a.toNat
    modify (fun s =>
      let c := s.turn.1
      let s := orderAt c l none (settleGranules c l i s)
      let ids := (s.writes.filter (fun r => decide (⟨c, .a⟩ ∈ r.viewers))).map WriteRec.id
      addWrite { lateLine c (x.gpaAt a.toNat) l i s with rel := mRel f, carries := if (mRel f).isSome then ids else [] } s)
    finishM f 64 av [mSrcB f]) s

/-- STSQ (R238). -/
def execStsq (f : MForm) (s : State) : Out :=
  issue (.stsq f) (do
    let av ← lineSources f
    let e ← popEntry f
    let a := mAddr f 64 av 0
    alignedTo 64 a
    watchAddr 1 true a.toNat 64
    localBound a 64
    localResident a.toNat 64
    waitReads (fun y => y == spLoc s.turn.1 a.toNat)
    waitHomes
    writeLocal a.toNat none ⟨allBytes, e.bits, some e.tag, .plain⟩ (some e.mark)
    finishM f 64 av [mSrcB f]) s

/-! ### Prefetch and queue reset (R239, R240) -/

/-- The request of a prefetch, or nothing when it would fault or finds no line request. -/
def prefetch (c : Nat) (a : Nat) (s : State) : State :=
  let g := s.guestOf c
  if 2 ^ 48 ≤ a ∨ Config.lineRequests ≤ (s.core c).requests then s
  else
    match lookup s c .read a with
    | .error _ => s
    | .ok x =>
      match placeGpa s g 1 false (x.gpaAt a) with
      | .error _ => s
      | .ok l =>
        if 2 ≤ pteClass x.leaf ∨ !reachable s g (x.gpaAt a) l ∨ !lookupOpen s c a then s 
        else readRequest (some .a) c (x.gpaAt a) l (fillTlb c x s)

/-- PRF (R239). -/
def execPrf (f : MForm) (s : State) : Out :=
  issue (.prf f) (do
    let vs ← readSources [mSrcA f, mSrcB f]
    modify (fun s => prefetch s.turn.1 ((mAddr f 64 (w0 vs) (w1 vs)).toNat / 64 * 64) s)
    mUpdate f 64 (w0 vs)) s

/-- QRESET (R240): the entries go, and every slot that feeds the queue is cancelled. -/
def execQreset (f : RForm) (s : State) : Out :=
  issue (.qreset f) (modify (fun s => s.modCur (fun k =>
    { (k.setQueue f.d []).setEvf (otherStream (queueReader f.d)) with
      slots := k.slots.filter (fun e => e.2.queue != f.d) }))) s

/-! ### Appends and seals (R245, R246) -/

/-- SRC of an APD descriptor; a COUNT of 0 or a reserved bit traps ILLEGAL (R229). -/
def apdDesc (d : Word) : Exec (Nat × Nat) := do
  need (fld d 48 16 != 0 && fld d 22 26 == 0) .illegal d
  return (fld d 48 16, fld d 0 22)

/-- Page-state words that cannot be reached are violations (R212). -/
def readPageState (x : Xlat) (gva : Nat) : Exec Word := do
  let s ← get
  match pageState s (s.guestOf s.turn.1) x.gpa with
  | .ok w => return w
  | .error e => throw (stopOfX gva .write e)

/-- The places of the lines that an append would be granted; the comparator passes each final GPA or the stream freezes
(R209, R231 step 8). -/
def grantPlaces (x : Xlat) (gva t n : Nat) : Exec (List Loc) := do
  let s ← get
  (List.range n).mapM (fun j =>
    match placeGpa s (s.guestOf s.turn.1) 1 true (x.gpa + 64 * (t + j)) with
    | .error e => throw (stopOfX gva .write e)
    | .ok l => pure l)

/-- The granted lines of an append enter the machine as writes in flight; the last of several holds the pin of the page
until it has been written (R210, R213, R245). -/
def grantLines (x : Xlat) (ls : List (Loc × LineImg)) (rel : Bool) (s : State) : State :=
  let c := s.turn.1
  let earlier := (s.writes.filter (fun r => decide (r.writer.map Party.core = some c) || decide (⟨c, .a⟩ ∈ r.viewers))).map WriteRec.id
  (ls.zipIdx).foldl (fun s li =>
    let l := li.1.1
    let s := orderAt c l none (settleGranules c l li.1.2 s)
    addWrite { lateLine c 0 l li.1.2 s with
      apage := some x.gpa, pin := if 1 < ls.length ∧ li.2 + 1 = ls.length then some x else none
      rel := if rel then some .guest else none, carries := if rel then earlier else [] } s) s

/-- A party that sees SEALED has the appended lines in view (R260). -/
def sealObserved (x : Xlat) : Exec Unit :=
  modify (fun s => enterAppended (s.guestOf s.turn.1) x.gpa ⟨s.turn.1, .a⟩ s)

/-- An APD that traps SEALED on a page that still seals takes its answer when the page shows SEALED: the lines in flight are
written at their homes, once these serve them, and the party has the appended lines in view (R213, R260, R325). An APD that
has asked the page-state word's home keeps the answer while it waits. -/
def finishSeal (keep : Bool) (x : Xlat) : Exec Unit := do
  let s ← get
  let g := s.guestOf s.turn.1
  let late := (s.writes.filter (fun r => decide (r.guest = g) && decide (r.apage = some x.gpa) && !r.performed))
  if late.all (fun r => (r.writer.map (fun p => ownOpen s p.core (fun y => decide (y.id ≤ r.id)))).getD true) then
    set (late.foldl (fun s r => performUpTo r.id s) s)
    sealObserved x
  else
    if keep then set (s.modCur (fun k => { k with ask := some (pageStateLoc s g x.gpa, true) }))
    throw (.wait .home)

/-- APD and APD.rel (R245). -/
def appendOp (i : Instr) (f : MForm) (rel : Bool) (s : State) : Out :=
  issue i (do
    let vs ← readSources [mSrcA f, mSrcB f]
    let a := w0 vs
    let (n, src) ← apdDesc (w1 vs)
    need (src % 64 == 0) .align (word src)
    watchAddr 1 false src (64 * n)
    need (decide (src + 64 * n ≤ Config.spBytes)) .bound (word (src + 64 * n))
    gvaBound a
    if 1 < n then waitPins 1
    let x ← translate .write a.toNat
    let _ ← placeOf .write x a.toNat
    if pteClass x.leaf ≤ 1 then throw (.page false true reasonClass a.toNat)
    if pteClass x.leaf = 3 then
      match pageState (← get) ((← get).guestOf s.turn.1) x.gpa with
      | .ok w => if psSealing w && !psSealed w then finishSeal false x else sealObserved x
      | .error _ => pure ()
      throw (.trap .sealed (word x.gva))
    let w0 ← readPageState x a.toNat
    let s1 ← get
    waitReads (fun y => apdLines s.turn.1 src n y || (granted s1 x (psTail w0) n).contains y)
    modify (fun s => ((List.range n).map (fun j => spLoc s.turn.1 (src + 64 * j))).foldl (fun s l => orderAt s.turn.1 l none s) s)
    let s ← get
    let ls := (List.range n).map (fun j => viewImg s ⟨s.turn.1, .a⟩ (spLoc s.turn.1 (src + 64 * j)))
    let is ← ls.mapM (fun e => do
      watchTag true e.tag f.b 0
      lineExec f.b (lineStore s.cur x e))
    takeCredit (apdCredit s x (psTail w0) n) a.toNat
    destWait f.d
    askHome 0 (pageStateLoc s (s.guestOf s.turn.1) x.gpa) false
    let w ← readPageState x a.toNat
    if psMalformed w x.size then throw (.page false true reasonMalformed a.toNat)
    if psSealed w then sealObserved x
    else if psSealing w then finishSeal true x
    need (!psSealing w && !psSealed w) .sealed (word x.gva)
    let t := psTail w
    watchAddr 0 true (x.gva + 64 * t) (64 * n)
    need (decide (t + n ≤ x.size / 64)) .bound (word (x.gva + 64 * (t + n)))
    let locs ← grantPlaces x a.toNat t n
    modify (fun s =>
      let g := s.guestOf s.turn.1
      let s := homeWriteWord g (pageStateGpa (s.guest g) x.gpa) (word (t + n)) s
      (grantLines x (locs.zip is) rel s).modStrm (fun st => st.setReg f.d (word (x.gva + 64 * t))))) s
where
  /-- Is a line one of those that an append reads? -/
  apdLines (c src n : Nat) (y : Loc) : Bool := (List.range n).any (fun j => y == spLoc c (src + 64 * j))
  /-- The places of the lines that an append would be granted now. -/
  granted (s : State) (x : Xlat) (t n : Nat) : List Loc :=
    (List.range n).filterMap (fun j => (placeGpa s (s.guestOf s.turn.1) 1 true (x.gpa + 64 * (t + j))).toOption)
  /-- The credit of an append: four granules for each line that it would be granted now and that holds fewer than four
  (R218). -/
  apdCredit (s : State) (x : Xlat) (t n : Nat) : Nat :=
    ((List.range n).map (fun j =>
      match placeGpa s (s.guestOf s.turn.1) 1 true (x.gpa + 64 * (t + j)) with
      | .ok l => creditFor s l
      | .error _ => 0)).sum

/-- APD (R245). -/
def execApd (f : MForm) (s : State) : Out := appendOp (.apd f) f false s
/-- APD.rel (R245). -/
def execApdRel (f : MForm) (s : State) : Out := appendOp (.apdRel f) f true s

/-- SEAL (R246). -/
def execSeal (f : RForm) (s : State) : Out :=
  issue (.seal f) (do
    let vs ← readSources [srcA f]
    let a := w0 vs
    gvaBound a
    let x ← translate .free a.toNat
    let _ ← placeOf .free x a.toNat
    if pteClass x.leaf ≤ 1 then throw (.page false false reasonClass a.toNat)
    let w ← readPageState x a.toNat
    if pteClass x.leaf = 3 then
      if psSealed w = false then throw (.page false false reasonClass a.toNat)
      sealObserved x
    else
      if psMalformed w x.size then throw (.page false false reasonMalformed a.toNat)
      if psSealed w then sealObserved x
      else if psSealing w then throw (.wait .home)
      else
        let s ← get
        let g := s.guestOf s.turn.1
        askHome 0 (pageStateLoc s g x.gpa) false
        modify (fun s => sealIfDone g x.gpa x.size
          (homeWriteWord g (pageStateGpa (s.guest g) x.gpa) (word (2 ^ 62 + psTail w)) s))
        let w ← readPageState x a.toNat
        waitFor (psSealed w) .home
        sealObserved x) s

end Sys2Proof.Machine
end

