-- ==== Sys2Proof/Machine/Copy.lean ====
section
/-! DEFINITION. Machine/Copy.lean: copy addresses, the checks of CPY and CPYM, and the beat groups of the copy engine
(R230, R241 to R243). -/

namespace Sys2Proof.Machine

/-- What a copy address names (R230). -/
inductive CopyPlace where
  | global (gva : Nat)
  | own (a : Nat)
  | cluster (a : Nat)
deriving DecidableEq, Repr

/-- A copy address, none for a reserved pattern or a reserved bit that is set (R230). -/
def copyPlace (w : Word) : Option CopyPlace :=
  match fld w 62 2 with
  | 0 => if fld w 48 14 = 0 then some (.global (fld w 0 48)) else none
  | 2 => if fld w 22 40 = 0 then some (.own (fld w 0 22)) else none
  | 3 => if fld w 25 37 = 0 then some (.cluster (fld w 0 25)) else none
  | _ => none

/-- A copy address, or ILLEGAL (R230). -/
def needCopyPlace (w : Word) : Exec CopyPlace :=
  match copyPlace w with
  | some p => pure p
  | none => throw (.trap .illegal w)

/-- The address watches of a range of lines (R346). -/
def watchRange (p : CopyPlace) (write : Bool) (n : Nat) : Exec Unit := do
  match p with
  | .global a => watchAddr 0 write a (64 * n)
  | .own a => watchAddr 1 write a (64 * n)
  | .cluster a =>
    let k := (← get).cur
    if clusterOk k a && clusterMember k a == k.placeD.gidx then watchAddr 1 write (a % 2 ^ 22) (64 * n) else pure ()

/-- A range ends within its space; TVAL is the lowest failing address (R241). -/
def rangeBound (w : Word) (p : CopyPlace) (n : Nat) : Exec Unit := do
  match p with
  | .global a => need (decide (a + 64 * n ≤ 2 ^ 48)) .bound (word (2 ^ 48))
  | .own a => need (decide (a + 64 * n ≤ 2 ^ 22)) .bound (w - word a + word (2 ^ 22))
  | .cluster a =>
    need (clusterOk (← get).cur a) .bound w
    need (decide (a % 2 ^ 22 + 64 * n ≤ 2 ^ 22)) .bound (w - word (a % 2 ^ 22) + word (2 ^ 22))

/-- A scratchpad destination lies within the declared bytes; TVAL is the first address outside (R241). -/
def rangeResident (w : Word) (p : CopyPlace) (n : Nat) : Exec Unit := do
  let b := (← get).cur.placeD.spBytes
  let go := fun (o : Nat) => need (decide (o + 64 * n ≤ b)) .residency (w - word o + word (Nat.max o b))
  match p with
  | .global _ => pure ()
  | .own a => go a
  | .cluster a => go (a % 2 ^ 22)

/-- The pages of a global range (R210). -/
def copyPages (s : State) (p : CopyPlace) (n : Nat) : List Nat :=
  match p with
  | .global a => rangePages s s.turn.1 (a + 64 * n) 258 a
  | _ => []

/-- The translations of a global range, each final GPA through the comparator (R209, R231 step 8). -/
def rangeXlats (acc : Acc) (p : CopyPlace) (n : Nat) : Exec (List (Xlat × Nat)) :=
  match p with
  | .global a => translateRange acc (a + 64 * n) 258 a
  | _ => pure []

/-- Does A need a copy queue that takes no command (R241, R336)? -/
def Core.copyFull (k : Core) : Bool := decide (Config.copyQueue ≤ k.copy.queue.length) || k.copy.frozen.isSome

/-- The checks of a copy up to its pins (R241, R231 steps 3 to 9). -/
def copyChecks (src dst len : Word) (waitQueue : Bool) : Exec CopyCmd := do
  let sp ← needCopyPlace src
  let dp ← needCopyPlace dst
  let n := len.toNat
  need (decide (1 ≤ n) && decide (n < 2 ^ 30)) .illegal len
  alignedTo 64 src
  alignedTo 64 dst
  watchRange sp false n
  watchRange dp true n
  rangeBound src sp n
  rangeBound dst dp n
  let s ← get
  let ss := copyPages s sp n
  let ds := copyPages s dp n
  let ps := pagesOf s s.turn.1 (ss ++ ds)
  pagesBound ps
  rangeResident dst dp n
  if waitQueue then waitFor (!s.cur.copyFull) .engine
  waitPins ps.length
  waitReads (fun _ => false)
  let xs ← rangeXlats .read sp n
  let xd ← rangeXlats .write dp n
  xd.forM (fun x => classAllowsStore x.1 x.2)
  return ⟨src, dst, n, 0, s.strm.pc, ((xs ++ xd).map (·.1)).eraseDups⟩

/-- A copy command takes the next CNEXT value (R28, R241). -/
def Core.queueCopy (k : Core) (c : CopyCmd) : Core :=
  { k with copy := { k.copy with cnext := k.copy.cnext + 1, queue := k.copy.queue ++ [{ c with seqn := k.copy.cnext + 1 }] } }

/-- CPY (R241). -/
def execCpy (f : RForm) (s : State) : Out :=
  issue (.cpy f) (do
    let vs ← readSources [⟨f.d, false⟩, srcA f, srcB f]
    let c ← copyChecks (w1 vs) (w0 vs) (w2 vs) true
    modify (fun s => s.modCur (fun k => k.queueCopy c))) s

/-! ### The engine (R242, R243) -/

/-- Why a beat group does not go on: a wait, a held fault with its cause and TVAL, a refused credit at a GVA, or a
violation. -/
inductive GroupStop where
  | wait
  | fault (cause : Cause) (tval : Word)
  | pool (gva : Nat)
  | violation (kind gpa gva : Nat)
  | absent (hpa : Nat)
deriving DecidableEq, Repr

/-- A failed placement in the engine. -/
def groupXFail (gva : Nat) (e : XFail) : GroupStop :=
  match e with
  | .fault _ => .violation 1 0 gva
  | .violation kind gpa => .violation kind gpa gva
  | .absent hpa => .absent hpa

/-- The pinned translation and the place of a global line of a command. -/
def engineLine (s : State) (core : Nat) (c : CopyCmd) (write : Bool) (gva : Nat) : Except GroupStop (Xlat × Loc) :=
  match pinFor c.pins gva with
  | none => .error .wait
  | some x =>
    match placeGpa s (s.guestOf core) 1 write (x.gpaAt gva) with
    | .ok l => if reachable s (s.guestOf core) (x.gpaAt gva) l then .ok (x, l) else .error .wait
    | .error e => .error (groupXFail gva e)

/-- A source line as one write left it (R242 step 1); a member whose work has ended reads as zero (R400). -/
def engineRead (core : Nat) (c : CopyCmd) (w : Word) (s : State) : Except GroupStop (LineImg × State) :=
  match copyPlace w with
  | some (.global a) =>
    match engineLine s core c false a with
    | .error e => .error e
    | .ok (x, l) => .ok (readLine core .c x a l s)
  | some (.own a) => .ok (viewImg s ⟨core, .c⟩ (spLoc core a), s)
  | some (.cluster a) => .ok (clusterLine s ⟨core, .c⟩ (clusterCore s core a) (a % 2 ^ 22), s)
  | none => .error .wait

/-- The source lines of a group. -/
def groupRead (core : Nat) (c : CopyCmd) : List Nat → State → Except GroupStop (List LineImg × State)
  | [], s => .ok ([], s)
  | j :: r, s =>
    match engineRead core c (c.src + word (64 * j)) s with
    | .error e => .error e
    | .ok (i, s) =>
      match groupRead core c r s with
      | .error e => .error e
      | .ok (is, s) => .ok (i :: is, s)

/-- One write of a group, checked: its place, the line, and whether it is in a scratchpad (R242 step 2). -/
def groupTarget (s : State) (core : Nat) (c : CopyCmd) (j : Nat) (i : LineImg) : Except GroupStop (Option (Loc × Nat × LineImg)) :=
  let w := c.dst + word (64 * j)
  match copyPlace w with
  | some (.global a) =>
    match engineLine s core c true a with
    | .error e => .error e
    | .ok (x, l) =>
      match lineStore (s.core core) x i with
      | .ok i => .ok (some (l, x.gpaAt a, i))
      | .error .pending => .error .wait
      | .error (.empty _) => .error (.fault .emptyRead w)
      | .error e => .error (.fault e.cause w)
  | some (.own a) => .ok (some (spLoc core a, 0, i))
  | some (.cluster a) => .ok ((clusterCore s core a).map (fun m => (spLoc m (a % 2 ^ 22), 0, i)))
  | none => .error .wait

/-- A line of a group is written whole, as one write of the C path (R242 step 3). -/
def groupWrite (core : Nat) (x : Loc × Nat × LineImg) (s : State) : State :=
  let (l, gpa, i) := x
  let g := s.guestOf core
  let s := if l.isSp then s else homeWrites none core l
    (sendLine g gpa l (ownLine core l (missRequest none core gpa l (settleGranules core l i s))))
  sealsIn g l (addWrite (newWrite s core .c l allBytes i.bits (if l.space = .host then none else some i.tag)
    (if l.space = .host ∨ l.space = .peer then none else some i.mark))) s

/-- The checks of a group: what it writes, with the state after its reads and its credit (R242). -/
def groupPlan (core : Nat) (c : CopyCmd) (g : Nat) (s : State) : Except GroupStop (List (Loc × Nat × LineImg) × State) :=
  let js := (List.range (Nat.min 64 (c.lines - 64 * g))).map (fun j => 64 * g + j)
  match groupRead core c js s with
  | .error e => .error e
  | .ok (is, s) =>
    match (js.zip is).mapM (fun x => groupTarget s core c x.1 x.2) with
    | .error e => .error e
    | .ok ts =>
      let ts := ts.filterMap id
      let need := (ts.map (fun x => creditFor s x.1)).sum
      match grantCredit core need s with
      | some s => .ok (ts, s)
      | none => .error (.pool ((c.dst.toNat + 64 * (64 * g)) % 2 ^ 48))

/-- A command completes: CSEQ covers it, and both streams see an event (R242, R366). -/
def Core.copyDone (k : Core) (c : CopyCmd) : Core :=
  ({ k with copy := { k.copy with queue := k.copy.queue.drop 1, prog := 0, cseq := c.seqn } }.setEvf .a).setEvf .x

/-- COPY_BEAT_GROUP (R242): the next group of the command at the head of the queue. -/
def execCopyBeatGroup (core : Nat) (s : State) : Out :=
  let k := s.core core
  match k.copy.queue with
  | [] => .next s
  | c :: _ =>
    if k.mode ≠ .run ∨ k.copy.halt.isSome ∨ k.copy.frozen.isSome then .next s
    else
      match groupPlan core c k.copy.prog s with
      | .error .wait => .next s
      | .error (.fault cause tval) =>
        .next (s.modCore core (fun k => { k with copy := { k.copy with halt := some ⟨cause, tval, false, none, none, 0, false⟩ } }.setEvf .a))
      | .error (.pool gva) =>
        let seq := (s.guest (s.guestOf core)).faultSeq
        .next ((s.addFault core false true 2 reasonPool gva).modCore core (fun k => { k with copy := { k.copy with
          halt := some ⟨.page, word gva, false, some seq, none, 0, false⟩ } }))
      | .error (.violation kind gpa gva) =>
        let seq := s.violSeq
        .next ((s.addViolation kind 2 core gpa gva c.pc.toNat 0 k.guest).modCore core (fun k => { k with copy := { k.copy with
          frozen := some seq } }))
      | .error (.absent hpa) => .fault (.outsideHbm hpa)
      | .ok (ts, s) =>
        let s := ts.foldl (fun s x => groupWrite core x s) s
        .next (s.modCore core (fun k =>
          let k := k.note 6 none .u ts.length
          if c.lines ≤ 64 * (k.copy.prog + 1) then k.copyDone c
          else { k with copy := { k.copy with prog := k.copy.prog + 1 } }))

end Sys2Proof.Machine
end

