-- ==== Sys2Proof/Machine/Transcend.lean ====
section
/-! DEFINITION. Machine/Transcend.lean: the exactly defined approximations VRCPE, VRSQRTE, VEXP2 and VLOG2 (R130).

2^a and log2(a) are computed to more than 750 bits, and a value that no dyadic number equals carries a last bit 1
far below every rounding boundary (log 8). -/

namespace Sys2Proof.Machine

/-- Rne(y, n): a value rounded to n significant bits (R130); and whether it changed. -/
def rneSig (v : Val) (n : Nat) : Val × Bool :=
  match v with
  | .fin s m e =>
    let b := Nat.log2 m + 1
    if m = 0 ∨ b ≤ n then (v, false)
    else
      let (q, inexact) := roundShift m (b - n) s .rne
      (.fin s q (e + (b - n : Nat)), inexact)
  | _ => (v, false)

/-- The bits of the fixed-point numbers below. -/
def fxBits : Nat := 800

/-- Σ 2^P / (k × 2^k) from `k` over `n` terms. -/
def ln2Sum : Nat → Nat → Nat
  | _, 0 => 0
  | k, n + 1 => 2 ^ fxBits / (k * 2 ^ k) + ln2Sum (k + 1) n

/-- ln 2 in units of 2^−P. -/
def ln2Fx : Nat := ln2Sum 1 820

/-- The exponential series: `term` is t^(k−1)/(k−1)! of t in units of 2^−P. -/
def expSeries (t : Nat) : Nat → Nat → Nat → Nat
  | _, _, 0 => 0
  | k, term, n + 1 => term + expSeries t (k + 1) (term * t / 2 ^ fxBits / k) n

/-- e^t of 0 ≤ t < 1 in units of 2^−P. -/
def expFx (t : Nat) : Nat := expSeries t 1 (2 ^ fxBits) 170

/-- The series of artanh: Σ z^(2j+1)/(2j+1). -/
def atanhSeries (z2 : Nat) : Nat → Nat → Nat → Nat
  | _, _, 0 => 0
  | k, pow, n + 1 => pow / k + atanhSeries z2 (k + 2) (pow * z2 / 2 ^ fxBits) n

/-- ln x of 1 < x < 2, x in units of 2^−P. -/
def lnFx (x : Nat) : Nat :=
  let z := (x - 2 ^ fxBits) * 2 ^ fxBits / (x + 2 ^ fxBits)
  2 * atanhSeries (z * z / 2 ^ fxBits) 1 z 270

/-- 2^a of a finite value: exact for an integer, else with a last bit below every rounding boundary. A magnitude
beyond 4,096 lies beyond every format and scale, and stands at that bound. -/
def finExp2 (s : Bool) (m : Nat) (e : Int) : Val :=
  if m = 0 then .fin false 1 0
  else if 12 ≤ log2Of m e then .fin false 1 (if s then -4096 else 4096)
  else
    let f := if 0 ≤ e then (0 : Nat) else (-e).toNat
    let n := if 0 ≤ e then m * 2 ^ e.toNat else m
    if n % 2 ^ f = 0 then .fin false 1 (if s then -((n / 2 ^ f : Nat) : Int) else ((n / 2 ^ f : Nat) : Int))
    else
      let i : Int := if s then -((n / 2 ^ f : Nat) : Int) - 1 else ((n / 2 ^ f : Nat) : Int)
      let fr := if s then 2 ^ f - n % 2 ^ f else n % 2 ^ f
      .fin false (2 * expFx (fr * ln2Fx / 2 ^ f) + 1) (i - fxBits - 1)

/-- log2 of a positive finite value: exact for a power of two. -/
def finLog2 (m : Nat) (e : Int) : Val :=
  let l := Nat.log2 m
  let n : Int := (l : Int) + e
  if m = 2 ^ l then Val.ofInt n
  else
    let x := m * 2 ^ fxBits / 2 ^ l
    let t : Int := n * (2 ^ fxBits : Nat) + (lnFx x * 2 ^ fxBits / ln2Fx : Nat)
    .fin (decide (t < 0)) (2 * t.natAbs + 1) (-(fxBits : Int) - 1)

/-- 2^a with its special inputs (R130). -/
def valExp2 (a : Val) : Val × BitVec 6 :=
  match a with
  | .nan q => (.nan false, if q then flagNV else 0)
  | .inf s => (if s then .zero false else .inf false, 0)
  | .fin s m e => (finExp2 s m e, 0)

/-- log2 a with its special inputs (R130). -/
def valLog2 (a : Val) : Val × BitVec 6 :=
  match a with
  | .nan q => (.nan false, if q then flagNV else 0)
  | .inf s => if s then (.nan false, flagNV) else (.inf false, 0)
  | .fin s m e =>
    if m = 0 then (.inf true, flagDZ) else if s then (.nan false, flagNV) else (finLog2 m e, 0)

/-- 1 / a with its special inputs (R130). -/
def valRecip (a : Val) : Val × BitVec 6 := valDiv (Val.ofInt 1) a

/-- 1 / √a with its special inputs (R130): of either zero a signed infinity with DZ. -/
def valRsqrt (a : Val) : Val × BitVec 6 :=
  match a with
  | .nan q => (.nan false, if q then flagNV else 0)
  | .inf s => if s then (.nan false, flagNV) else (.zero false, 0)
  | .fin s m e =>
    if m = 0 then (.inf s, flagDZ)
    else if s then (.nan false, flagNV)
    else
      match finDiv false 1 0 false m e with
      | .fin _ m' e' => (finSqrt m' e', 0)
      | v => (v, 0)

/-- An approximation: the exact value cut to n significant bits when n is given, NX when that changed it (R130). -/
def approxOf (f : Val → Val × BitVec 6) (n : Option Nat) (a : Val) : Val × BitVec 6 :=
  let (y, fl) := f a
  match n with
  | none => (y, fl)
  | some n =>
    let (z, inexact) := rneSig y n
    (z, if inexact then fl ||| flagNX else fl)

end Sys2Proof.Machine
end

