-- ==== Sys2Proof/Machine/VectorArith.lean ====
section
/-! DEFINITION. Machine/VectorArith.lean: SETVL, polymorphic arithmetic, compares, masks, selection, moves and bitwise
integer operations (R119 to R139). -/

namespace Sys2Proof.Machine

/-! ### SETVL (R119) -/

/-- VLENB at this moment: the lesser of VLCAP and 64 bytes for each working lane group (R115). -/
def Core.vlenb (k : Core) : Nat := Nat.min k.units.vlcap.toNat (64 * k.units.lanes)

/-- The width that a code of VTYPE names (R116). -/
def widthOf (n : Nat) : Nat :=
  match n % 4 with
  | 0 => 8 | 1 => 16 | _ => 32

/-- VL, VTYPE, VSTART and VRSTATE after SETVL (R119). -/
def setvlVec (k : Core) (imm : BitVec 31) (avl : Word) : Vec :=
  let vlmax := k.vlenb * 8 / widthOf imm.toNat
  { k.vec with vtype := imm.setWidth 5, vl := BitVec.ofNat 11 (Nat.min avl.toNat vlmax), vstart := 0, vrstate := 0 }

/-- SETVL (R119). -/
def execSetvl (f : IForm) (s : State) : Out :=
  issue (.setvl f) (do
    let vs ← readSources [⟨f.a, f.ea⟩]
    destWait f.d
    let v := setvlVec (← get).cur f.imm (w0 vs)
    modify (fun s => s.modCur (fun k => { k with vec := v }))
    finishScalar [⟨f.a, f.ea⟩] f.d (word v.vl.toNat)) s

/-! ### Polymorphic operations (R127 to R130) -/

/-- The first exact value. -/
def v0 (l : List Val) : Val := l.getD 0 (.nan false)
/-- The second exact value. -/
def v1 (l : List Val) : Val := l.getD 1 (.nan false)
/-- The third exact value. -/
def v2 (l : List Val) : Val := l.getD 2 (.nan false)
/-- The first integer. -/
def i0 (l : List Int) : Int := l.getD 0 0
/-- The second integer. -/
def i1 (l : List Int) : Int := l.getD 1 0
/-- The third integer. -/
def i2 (l : List Int) : Int := l.getD 2 0

/-- The lesser or the greater of two values, −0 below +0; NaN in, NaN out (R127). -/
def valMinMax (greatest : Bool) (a b : Val) : Val × BitVec 6 :=
  if a.isNan || b.isNan then (.nan false, snanFlags [a, b])
  else
    let aLess := a.lt b || (a.eqv b && a.neg && !b.neg)
    (if aLess = greatest then b else a, 0)

/-- A two-source operation of opcode 0x65 (R127). -/
def polyTwo (i : Instr) (f : RForm) (fl : Rm → Val → Val → Val × BitVec 6) (int : Int → Int → Int × BitVec 6)
    (s : State) : Out :=
  polyOp i ⟨fun _ rm l => fl rm (v0 l) (v1 l), fun l => int (i0 l) (i1 l), true, false⟩ f [srcA f, srcB f] none s

/-- VADD (R127). -/
def execVadd (f : RForm) (s : State) : Out := polyTwo (.vadd f) f valAdd (fun a b => (a + b, 0)) s
/-- VSUB (R127). -/
def execVsub (f : RForm) (s : State) : Out := polyTwo (.vsub f) f valSub (fun a b => (a - b, 0)) s
/-- VMUL (R127). -/
def execVmul (f : RForm) (s : State) : Out := polyTwo (.vmul f) f (fun _ => valMul) (fun a b => (a * b, 0)) s

/-- The integer quotient of VDIV: toward zero; −1 with DZ by a zero divisor (R99, R127). -/
def intDiv (a b : Int) : Int × BitVec 6 := if b = 0 then (-1, flagDZ) else (a.tdiv b, 0)

/-- VDIV (R127). -/
def execVdiv (f : RForm) (s : State) : Out := polyTwo (.vdiv f) f (fun _ => valDiv) intDiv s
/-- VMIN (R127). -/
def execVmin (f : RForm) (s : State) : Out :=
  polyTwo (.vmin f) f (fun _ => valMinMax false) (fun a b => (if a ≤ b then a else b, 0)) s
/-- VMAX (R127). -/
def execVmax (f : RForm) (s : State) : Out :=
  polyTwo (.vmax f) f (fun _ => valMinMax true) (fun a b => (if a ≤ b then b else a, 0)) s

/-- A fused operation of opcode 0x66 (R128). -/
def polyThree (i : Instr) (f : RForm) (fl : Rm → Val → Val → Val → Val × BitVec 6) (int : Int → Int → Int → Int)
    (s : State) : Out :=
  polyOp i ⟨fun _ rm l => fl rm (v0 l) (v1 l) (v2 l), fun l => (int (i0 l) (i1 l) (i2 l), 0), true, false⟩ f
    [srcA f, srcB f, srcC f] none s

/-- VFMA (R128). -/
def execVfma (f : RForm) (s : State) : Out := polyThree (.vfma f) f valFma (fun a b c => a * b + c) s
/-- VFMS (R128). -/
def execVfms (f : RForm) (s : State) : Out :=
  polyThree (.vfms f) f (fun rm a b c => valFma rm a b c.negate) (fun a b c => a * b - c) s
/-- VFNMA (R128). -/
def execVfnma (f : RForm) (s : State) : Out :=
  polyThree (.vfnma f) f (fun rm a b c => valFma rm a.negate b c) (fun a b c => c - a * b) s

/-- A one-source operation with an integer form (R129). -/
def polyOne (i : Instr) (f : RForm) (fl : Val → Val) (int : Int → Int) (s : State) : Out :=
  polyOp i ⟨fun _ _ l => (fl (v0 l), snanFlags [v0 l]), fun l => (int (i0 l), 0), true, false⟩ f [srcA f] none s

/-- VABS (R129). -/
def execVabs (f : RForm) (s : State) : Out := polyOne (.vabs f) f Val.abs (fun a => (a.natAbs : Int)) s
/-- VNEG (R129). -/
def execVneg (f : RForm) (s : State) : Out := polyOne (.vneg f) f Val.negate (fun a => -a) s

/-- VSQRT (R129): it has no integer form. -/
def execVsqrt (f : RForm) (s : State) : Out :=
  polyOp (.vsqrt f) ⟨fun _ _ l => valSqrt (v0 l), fun l => (i0 l, 0), false, false⟩ f [srcA f] none s

/-- An approximation (R130): RNE throughout, cut to `n` bits of the result format. -/
def approxOp (i : Instr) (f : RForm) (g : Val → Val × BitVec 6) (n : Nat → Option Nat) (s : State) : Out :=
  polyOp i ⟨fun rf _ l => approxOf g (n rf) (v0 l), fun l => (i0 l, 0), false, true⟩ f [srcA f] (some .rne) s

/-- Bits kept of VEXP2 and VLOG2 before the result is rounded (R130). -/
def expBits (rf : Nat) : Option Nat := if rf = fmtFp32 then some 16 else none

/-- VRCPE (R130). -/
def execVrcpe (f : RForm) (s : State) : Out := approxOp (.vrcpe f) f valRecip (fun _ => some 12) s
/-- VRSQRTE (R130). -/
def execVrsqrte (f : RForm) (s : State) : Out := approxOp (.vrsqrte f) f valRsqrt (fun _ => some 12) s
/-- VEXP2 (R130). -/
def execVexp2 (f : RForm) (s : State) : Out := approxOp (.vexp2 f) f valExp2 expBits s
/-- VLOG2 (R130). -/
def execVlog2 (f : RForm) (s : State) : Out := approxOp (.vlog2 f) f valLog2 expBits s

/-! ### Compares and masks (R131, R132) -/

/-- The condition of VCMP (R43), with NV (R131). -/
def vcmpCond (cc : VCc) (a b : Val) : Bool × BitVec 6 :=
  let uo := a.isNan || b.isNan
  let quiet := snanFlags [a, b]
  let ordered := fun (r : Bool) => (r && !uo, if uo then flagNV else 0)
  match cc with
  | .eq => (a.eqv b, quiet)
  | .ne => (!a.eqv b, quiet)
  | .lt => ordered (a.lt b)
  | .le => ordered (a.lt b || a.eqv b)
  | .gt => ordered (b.lt a)
  | .ge => ordered (b.lt a || a.eqv b)
  | .uo => (uo, quiet)

/-- Set a mask bit of a register; its segment takes tag 0x0000 and counts as written (R131). -/
def VReg.putMask (r : VReg) (i : Nat) (b : Bool) : VReg :=
  let g := i / 512
  let old := (r.seg g).bits
  let m : LineBits := BitVec.ofNat 512 (2 ^ (i % 512))
  r.putSeg g ⟨if b then old ||| m else old &&& ~~~m, Config.tagRaw⟩

/-- The condition for one active slot from the source registers. -/
def vcmpSlot (cc : VCc) (k : Core) (f : RForm) (g i : Nat) : Bool × BitVec 6 :=
  let dec := fun (c : Code) => decodeSlot k k.vec.fz ((k.vreg c).seg g).tag ((k.vreg c).slot k.vec.w i)
  vcmpCond cc (dec f.a) (dec f.b)

/-- One source segment of VCMP (R131): the checks of R73 in full, then the mask bits of its active slots. -/
def vcmpSegment (cc : VCc) (f : RForm) (lat : Tab (BitVec 16)) (mk : Option VReg) (g : Nat) : Exec Unit := do
  let s ← get
  let w := s.cur.vec.w
  let srcs := [srcA f, srcB f].map (fun x => (x.code, ((s.cur.vreg x.code).seg g).tag))
  segChecks w g false srcs
  let l := latticeLookup lat (srcs.map (fun x => tagFmt x.2))
  let bad := srcs.getD 1 (0, 0)
  need (!l.forbid) .tagPair (tagTval bad.2 bad.1 g)
  [srcA f, srcB f].forM (fun x => do
    let t := ((s.cur.vreg x.code).seg g).tag
    if tagFmt t = fmtCb4 then bookCheck (tagScale t) x.e x.code g)
  modify (fun s => s.modCur (fun k =>
    let rs := (activeIn k.vec mk g).map (fun i => (i, vcmpSlot cc k f g i))
    let d := rs.foldl (fun r x => r.putMask x.1 x.2.1) (k.vreg f.d)
    (((k.note 4 (some .x) .u rs.length).setVreg f.d d).orFstat (orFlags (rs.map (fun x => x.2.2)))).setVstart
      ((g + 1) * segSlots w)))

/-- At retire the bits from VL to the end of the segment that holds bit VL − 1 become zero (R131). -/
def vcmpTail (d : Code) (k : Core) : Core :=
  let vl := k.vec.vl.toNat
  if vl % 512 = 0 then k
  else
    let r := k.vreg d
    let b := (r.seg (vl / 512)).bits.toNat % 2 ^ (vl % 512)
    k.setVreg d (r.putSeg (vl / 512) ⟨BitVec.ofNat 512 b, Config.tagRaw⟩)

/-- VCMP (R131). -/
def execVcmp (cc : VCc) (f : RForm) (s : State) : Out :=
  issue (.vcmp cc f) (do
    let l := [srcA f, srcB f]
    vectorSources l (mfMk f.m) f.d
    readMask s.cur.vec (mfMk f.m)
    let gs := segRange s.cur.vec
    bookWhole (eachSegment s (l.map Src.code) gs (vcmpSegment cc f (latticeOf s) (maskReg s.cur (mfMk f.m))))
    if gs.isEmpty = false then modify (fun s => s.modCur (vcmpTail f.d))
    endVector) s

/-- The number of i below VL with mask bit i of A, and of v0 when masked (R132). -/
def vpopcCount (k : Core) (a : Code) (mk : Bool) : Nat :=
  ((List.range k.vec.vl.toNat).filter (fun i =>
    (k.vreg a).maskBit i && (match maskReg k mk with | some m => m.maskBit i | none => true))).length

/-- VPOPC (R132): the segments of mask bits of A, and of v0 when masked, from segment 0. DESIGN CHOICE (log 56): v0's segment is
read after A's, and a LANE trap of either sets VSTART. -/
def execVpopc (f : RForm) (s : State) : Out :=
  issue (.vpopc f) (do
    vectorSources [srcA f] (mfMk f.m) f.d
    destWait f.d
    let k := s.cur
    (List.range ((k.vec.vl.toNat + 511) / 512)).forM (fun g => do
      readFrom s 512 [f.a] g
      if mfMk f.m then inSegment g (laneCheck g codeV0))
    finishScalar [] f.d (word (vpopcCount k f.a (mfMk f.m)))
    endVector) s

/-! ### Selection and moves (R133, R134) -/

/-- One segment of VSEL (R133): a copy when the tags are equal, else an arithmetic selection. DESIGN CHOICE (log 57): the
traps of an arithmetic instruction are those of R87 whole, so a pair whose entry has CF = INT32 traps TAG_PAIR for a
SCALE other than 127. -/
def vselSegment (f : RForm) (lat : Tab (BitVec 16)) (m : VReg) (g : Nat) : Exec Unit := do
  let s ← get
  let v := s.cur.vec
  let w := v.w
  let ta := ((s.cur.vreg f.a).seg g).tag
  let tb := ((s.cur.vreg f.b).seg g).tag
  let pick := fun (i : Nat) => if m.maskBit i then f.a else f.b
  if ta = tb then writeSlots none g f.d ta (fun i => (s.cur.vreg (pick i)).slot w i)
  else
    let srcs := [(f.a, ta), (f.b, tb)]
    segChecks w g false srcs
    let (rf, _) ← resultFormat lat 0 w g f.d false srcs
    [(srcA f, ta), (srcB f, tb)].forM (fun x => do
      if tagFmt x.2 = fmtCb4 then bookCheck (tagScale x.2) x.1.e x.1.code g)
    let rs := (activeIn v none g).map (fun i =>
      (i, decodeSlot s.cur v.fz ((s.cur.vreg (pick i)).seg g).tag ((s.cur.vreg (pick i)).slot w i)))
    let k := scaleFor (rs.map (·.2)) rf
    writeResults none g f.d rf k (rs.map (fun x => (x.1, roundAny (bookOf s.cur) x.2 rf k v.rm v.fz)))
      (snanFlags (rs.map (·.2)))

/-- VSEL (R133). -/
def execVsel (f : RForm) (s : State) : Out :=
  issue (.vsel f) (do
    let l := [srcA f, srcB f]
    vectorSources l true f.d
    readMask s.cur.vec true
    bookWhole (eachSegment s (l.map Src.code) (segRange s.cur.vec) (vselSegment f (latticeOf s) (s.cur.vreg codeV0)))
    endVector) s

/-- VMOV (R134). -/
def execVmov (f : RForm) (s : State) : Out :=
  rawOp (.vmov f) f [srcA f] (mfMk f.m) (fun mk g => do
    let k := (← get).cur
    writeSlots mk g f.d ((k.vreg f.a).seg g).tag (fun i => (k.vreg f.a).slot k.vec.w i)) s

/-! ### Broadcast, insertion, extraction and index (R135 to R137) -/

/-- The tag of a scalar element, bits [63:48] (R135). -/
def elemTag (x : Word) : Tag := x.extractLsb' 48 16

/-- The slot of a scalar element under a width: w bits of its format, or W for RAW (R135). -/
def elemSlot (w : Nat) (x : Word) : Nat :=
  let f := tagFmt (elemTag x)
  x.toNat % 2 ^ (if f = fmtRaw then w else fmtWidth f)

/-- The checks of an inserted tag: VCLASS 4 to 7, FMT 10 to 31, a width above W (R135). -/
def elemChecks (t : Tag) (a : Code) (w g : Nat) : Exec Unit := do
  need (decide (tagClass t < 4)) .tagClass (tagTval t a g)
  need (decide (tagFmt t ≤ 9)) .tagFmt (tagTval t a g)
  need (decide (fmtWidth (tagFmt t) ≤ w)) .tagWidth (tagTval t a g)

/-- VBCAST (R135). DESIGN CHOICE (log 57): its check is made once, before anything is written, and a trap of it leaves
VSTART, whichever segment TVAL names: R73 states VSTART for an instruction that decodes elements, which this one does
not. -/
def execVbcast (f : RForm) (s : State) : Out :=
  issue (.vbcast f) (do
    vectorSources [srcA f] (mfMk f.m) f.d
    readMask s.cur.vec (mfMk f.m)
    let x := s.cur.srcValue s.turn.2 f.a
    let mk := maskReg s.cur (mfMk f.m)
    let gs := (segRange s.cur.vec).filter (fun g => (activeIn s.cur.vec mk g).isEmpty = false)
    match gs with
    | [] => pure ()
    | g :: _ => elemChecks (elemTag x) f.a s.cur.vec.w g
    gs.forM (fun g => writeSlots mk g f.d (elemTag x) (fun _ => elemSlot s.cur.vec.w x))
    modify (fun s => s.modCur (fun k => k.popAll [srcA f]))
    endVector) s

/-- VINS (R135): slot j alone is active, whatever VSTART holds. -/
def execVins (f : RForm) (s : State) : Out :=
  issue (.vins f) (do
    vectorSources [srcA f, srcB f] false f.d
    let s ← get
    let x := s.cur.srcValue s.turn.2 f.a
    let j := (s.cur.srcValue s.turn.2 f.b).toNat
    let v := s.cur.vec
    if j < v.vl.toNat then
      let g := j / segSlots v.w
      elemChecks (elemTag x) f.a v.w g
      modify (fun s => s.modCur (fun k => (k.note 4 (some .x) .u 1).setVreg f.d ((k.vreg f.d).putSeg g
        (mergeSegBy v.w v.vl.toNat (fun i => i == j) g ((k.vreg f.d).seg g) (elemTag x) (fun _ => elemSlot v.w x)))))
    modify (fun s => s.modCur (fun k => k.popAll [srcA f, srcB f]))
    endVector) s

/-- VEXT (R136). -/
def execVext (f : RForm) (s : State) : Out :=
  issue (.vext f) (do
    vectorSources [srcA f, srcB f] false f.d
    destWait f.d
    let j := (s.cur.srcValue s.turn.2 f.b).toNat
    let v := s.cur.vec
    if j < v.vl.toNat then
      let g := j / segSlots v.w
      readFrom s (segSlots v.w) [f.a] g
      let r := s.cur.vreg f.a
      finishScalar [srcB f] f.d (word ((r.seg g).tag.toNat * 2 ^ 48 + r.slot v.w j))
    else finishScalar [srcB f] f.d 0
    endVector) s

/-- The tag of VID's result under a width (R137). -/
def vidTag (w : Nat) : Tag :=
  match w with
  | 8 => 0x387F
  | 16 => 0x187F
  | _ => Config.tagInt32

/-- The slot i of VID's result under a width (R137): an INT32, an FP16 number or a byte. -/
def vidSlot (w i : Nat) : Nat :=
  match w with
  | 8 => i % 256
  | 16 => (roundTo (Val.ofInt i) fmtFp16 127 .rne false).1
  | _ => i

/-- VID (R137). -/
def execVid (f : RForm) (s : State) : Out :=
  rawOp (.vid f) f [] (mfMk f.m) (fun mk g => do
    let w := (← get).cur.vec.w
    writeSlots mk g f.d (vidTag w) (vidSlot w)) s

/-! ### Bitwise integer operations (R138) -/

/-- One segment of a bitwise integer operation (R138). -/
def viSegment (f : RForm) (op : Nat → Nat → Nat → Nat) (mk : Option VReg) (g : Nat) : Exec Unit := do
  let s ← get
  let w := s.cur.vec.w
  let ta := ((s.cur.vreg f.a).seg g).tag
  let tb := ((s.cur.vreg f.b).seg g).tag
  classCheck g f.a ta
  classCheck g f.b tb
  need (decide (tagFmt ta ≤ 9)) .tagFmt (tagTval ta f.a g)
  need (decide (tagFmt tb ≤ 9)) .tagFmt (tagTval tb f.b g)
  need (decide (fmtWidth (tagFmt ta) ≤ w)) .tagWidth (tagTval ta f.a g)
  let n := if tagFmt ta = fmtRaw then w else fmtWidth (tagFmt ta)
  writeSlots mk g f.d ta (fun i => op w ((s.cur.vreg f.a).slot w i) ((s.cur.vreg f.b).slot w i) % 2 ^ n)

/-- A bitwise integer operation (R138): its pattern of W bits from two patterns of W bits. -/
def viOp (i : Instr) (f : RForm) (op : Nat → Nat → Nat → Nat) (s : State) : Out :=
  rawOp i f [srcA f, srcB f] (mfMk f.m) (viSegment f op) s

/-- VIADD (R138). -/
def execViadd (f : RForm) (s : State) : Out := viOp (.viadd f) f (fun w a b => (a + b) % 2 ^ w) s
/-- VISUB (R138). -/
def execVisub (f : RForm) (s : State) : Out := viOp (.visub f) f (fun w a b => (a + 2 ^ w - b) % 2 ^ w) s
/-- VIMUL (R138). -/
def execVimul (f : RForm) (s : State) : Out := viOp (.vimul f) f (fun w a b => a * b % 2 ^ w) s
/-- VIAND (R138). -/
def execViand (f : RForm) (s : State) : Out := viOp (.viand f) f (fun _ a b => a &&& b) s
/-- VIOR (R138). -/
def execVior (f : RForm) (s : State) : Out := viOp (.vior f) f (fun _ a b => a ||| b) s
/-- VIXOR (R138). -/
def execVixor (f : RForm) (s : State) : Out := viOp (.vixor f) f (fun _ a b => a ^^^ b) s
/-- VISHL (R138). -/
def execVishl (f : RForm) (s : State) : Out := viOp (.vishl f) f (fun w a b => a * 2 ^ (b % w) % 2 ^ w) s
/-- VISHR (R138). -/
def execVishr (f : RForm) (s : State) : Out := viOp (.vishr f) f (fun w a b => a / 2 ^ (b % w)) s

end Sys2Proof.Machine
end

