-- ==== Sys2Proof/Machine/Csr.lean ====
section
/-! DEFINITION. Machine/Csr.lean: the CSR map and its instructions (R114 to R118, R408), and the waits on a halted
engine (R198). -/

namespace Sys2Proof.Machine

/-- Does a stream hold the register of a CSR address (R114)? -/
def csrHeld (t : StreamId) (a : Nat) : Bool :=
  ((decide (a ≤ 7) || a == 0x200) && t == .x) || (decide (0x10 ≤ a) && decide (a ≤ 0x13)) ||
    (decide (0x20 ≤ a) && decide (a ≤ 0x23)) || (decide (0x100 ≤ a) && decide (a ≤ 0x10F)) ||
    (decide (0x300 ≤ a) && decide (a ≤ 0x303)) || (decide (0x310 ≤ a) && decide (a ≤ 0x33F))

/-- Is the U access of a register "none" (R114)? -/
def csrUNone (a : Nat) : Bool := decide (0x300 ≤ a)

/-- Is a register RW at S level alone (R114, R341)? -/
def csrSOnly (a : Nat) : Bool := a == 3 || a == 4 || a == 6 || a == 0x200 || (decide (0x100 ≤ a) && decide (a ≤ 0x10F))

/-- Does an access at U level violate (R114)? -/
def csrViolates (l : Level) (a : Nat) (write : Bool) : Bool := decide (l = .u) && (csrUNone a || (write && csrSOnly a))

/-- MUNITS: 7, or 6 with a unit out (R115, R183). -/
def CoreUnits.munits (u : CoreUnits) : Nat := if u.unitsOut = 0 ∧ u.quarantined = none then 7 else 6

/-- The value of a CSR (R114, R115, R353). -/
def csrRead (k : Core) (t : StreamId) (a : Nat) : Word :=
  let st := k.stream t
  if a = 0 then k.vec.fstat.setWidth 64
  else if a = 1 then k.vec.vl.setWidth 64
  else if a = 2 then k.vec.vtype.setWidth 64
  else if a = 3 then k.vec.vstart.setWidth 64
  else if a = 4 then k.vec.vrstate
  else if a = 5 then word k.vlenb
  else if a = 6 then k.mat.step.setWidth 64
  else if a = 7 then word k.units.munits
  else if a = 0x10 then k.copy.cnext
  else if a = 0x11 then k.copy.cseq
  else if a = 0x12 then k.mat.mnext
  else if a = 0x13 then k.mat.mseq
  else if a = 0x20 then k.placeD.argp
  else if a = 0x21 then word k.placeD.gidx
  else if a = 0x22 then word k.placeD.gsize
  else if a = 0x23 then word k.placeD.job.gnum
  else if 0x100 ≤ a ∧ a ≤ 0x10F then k.pmcReg (a - 0x100)
  else if a = 0x200 then k.units.vlcap.setWidth 64
  else if a = 0x300 then st.tcause.setWidth 64
  else if a = 0x301 then st.tval
  else if a = 0x302 then st.tpc
  else if a = 0x303 then st.tstat
  else if 0x310 ≤ a ∧ a ≤ 0x31F then tabGet 0 st.wayf (a - 0x310)
  else 0

/-- How an instruction writes a CSR: CSRW, CSRS or CSRC (R408). -/
inductive CsrMode where
  | write | set | clear
deriving DecidableEq, Repr

/-- The value written to the RW fields (R408). -/
def CsrMode.combine (m : CsrMode) (old v : Word) : Word :=
  match m with
  | .write => v
  | .set => old ||| v
  | .clear => old &&& ~~~v

/-- The bits of W1C fields that a write clears (R408). -/
def CsrMode.clears (m : CsrMode) (v : Word) : Word :=
  match m with
  | .clear => 0
  | _ => v

/-- The RW bits and the W1C bits of a register at S level (R67, R95, R115, R181, R341, R342, R345, R353). -/
def csrMasks (t : StreamId) (a : Nat) : Word × Word :=
  if a = 0 then (0x3F, 0)
  else if a = 3 then (0x7FF, 0)
  else if a = 4 then (0x3FFFFFFFF, 0)
  else if a = 6 then (0x3F, 0)
  else if 0x100 ≤ a ∧ a ≤ 0x107 then (0xFFFFFFFFFFFF, 0)
  else if 0x108 ≤ a ∧ a ≤ 0x10F then (0xC0000000000F00FF, 0x2000000000000000)
  else if a = 0x200 then (0x7FF, 0)
  else if a = 0x300 then (0xFF, 0)
  else if a = 0x301 then (BitVec.allOnes 64, 0)
  else if a = 0x302 then (0xFFFFFFFFFFF8, 0)
  else if a = 0x303 then (if t = .x then 0x07FF07FF1F00F800 else 0xF800, 0)
  else if a = 0x310 then (0x7, 0)
  else if a = 0x311 then (0, 0x7FF)
  else if 0x312 ≤ a ∧ a ≤ 0x315 then (0x8000FFFFFFFFFFF8, 0)
  else if 0x316 ≤ a ∧ a ≤ 0x319 then (0xFFFFFFFFFFFF, 0)
  else if 0x31A ≤ a ∧ a ≤ 0x31D then (0xB80000000000003F, 0)
  else if 0x31E ≤ a ∧ a ≤ 0x31F then (0xBC00000000FFC0FF, 0)
  else (0, 0)

/-- The stored value of a write: RW bits from the combination, W1C bits cleared, the others as they were (R4, R408). -/
def csrStored (m : CsrMode) (masks : Word × Word) (old v : Word) : Word :=
  ((m.combine old v &&& masks.1) ||| (old &&& ~~~masks.1)) &&& ~~~(m.clears v &&& masks.2)

/-- A command number of the matrix engine completes; MSEQ covers the numbers completed up to it (R184, R190). -/
def advanceSeq (mseq : Word) (done : List Nat) : Nat → Word × List Nat
  | 0 => (mseq, done)
  | n + 1 =>
    if (mseq + 1).toNat ∈ done then advanceSeq (mseq + 1) (listDel done (mseq + 1).toNat) n else (mseq, done)

/-- MSEQ after a command has completed; a rise of MSEQ is an event for both streams (R366). -/
def Core.matDone (k : Core) (seqn : Word) : Core :=
  let done := listAdd k.mat.done seqn.toNat
  let (m, d) := advanceSeq k.mat.mseq done done.length
  let k' := { k with mat := { k.mat with mseq := m, done := d } }
  if m = k.mat.mseq then k' else (k'.setEvf .a).setEvf .x

/-- A write of MPROG.STEP: from 32 up it drops a held command; otherwise it is for the held command or the next one
that starts (R182, R198). DESIGN CHOICE (log 50): while a command runs MPROG and MSTAT show its K-steps, and what was written
shows when the command is over. -/
def writeMprog (k : Core) (n : BitVec 6) : Core :=
  let now : Core := { k with mat := { k.mat with step := n, stepNext := none } }
  match k.mat.queue with
  | [] => now
  | c :: r =>
    let held := c.started && (match k.mat.halt with
      | some h => h.share.isNone
      | none => false)
    if held && decide (32 ≤ n.toNat) then
      ({ k with mat := { k.mat with queue := r, step := 0, stepNext := none } }.orFstat c.flags).matDone c.seqn
    else if c.started && !held && !c.shareOver then { k with mat := { k.mat with stepNext := some n } }
    else now

/-- Store a CSR (R115, R341, R344, R345, R353). -/
def csrStore (t : StreamId) (a : Nat) (v : Word) (k : Core) : Core :=
  let st := k.stream t
  if a = 0 then { k with vec := { k.vec with fstat := v.setWidth 6 } }
  else if a = 3 then k.setVstart (v.toNat / segSlots k.vec.w * segSlots k.vec.w)
  else if a = 4 then { k with vec := { k.vec with vrstate := v } }
  else if a = 6 then writeMprog k (v.setWidth 6)
  else if 0x100 ≤ a ∧ a ≤ 0x10F then
    if t = .a ∧ a - 0x100 ∈ k.pmcX then k
    else
      { k.setPmc (a - 0x100) v with
        pmcX := if t = .x then listAdd k.pmcX (a - 0x100) else k.pmcX
        a := { k.a with csrOwn := tabErase k.a.csrOwn (a - 0x100) }, x := { k.x with csrOwn := tabErase k.x.csrOwn (a - 0x100) } }
  else if a = 0x200 then { k with units := { k.units with vlcap := v.setWidth 11 } }
  else if a = 0x300 then k.setStream t { st with tcause := v.setWidth 8 }
  else if a = 0x301 then k.setStream t { st with tval := v }
  else if a = 0x302 then k.setStream t { st with tpc := v }
  else if a = 0x303 then k.setStream t { st with tstat := v }
  else if 0x310 ≤ a ∧ a ≤ 0x31F then k.setStream t { st with wayf := tabPut st.wayf (a - 0x310) v }
  else k

/-- The check of a value written to VLCAP (R115). -/
def vlcapCheck (a : Nat) (v : Word) : Exec Unit :=
  need (a != 0x200 || [64, 128, 256, 512, 1024].contains (fld v 0 11)) .illegal v

/-- Before a counter is read or written it takes the earlier events of the instruction's own stream, which belong to earlier
cycles (R394); the other events noted since the last cycle belong to the present one, whose events no read includes and a
write precedes (R344). -/
def csrSync (a : Nat) (s : State) : State :=
  if 0x100 ≤ a ∧ a ≤ 0x10F then countSome (fun e => e.strm == some s.turn.2) s.turn.1 s else s

/-- What a CSR instruction returns: of a counter, the count without the instruction's own events (R394). -/
def csrShown (st : Stream) (a : Nat) (v : Word) : Word :=
  if 0x100 ≤ a ∧ a < 0x108 then word ((v.toNat + 2 ^ 48 - tabGet 0 st.csrOwn (a - 0x100)) % 2 ^ 48) else v

/-- A CSR instruction: step 5 of R47, its source, the access check, the destination, and the read, change and write
as one (R100, R114, R408). -/
def csrOp (i : Instr) (f : IForm) (mode : Option CsrMode) (result : Bool) (s : State) : Out :=
  issue i (do
    let a := f.imm.toNat % 2 ^ 12
    let s ← get
    let t := s.turn.2
    if csrHeld t a && csrViolates s.strm.level a mode.isSome then throw (.violation 3 0 0 (firstWord i).toNat)
    let l : List Src := if mode.isSome then [⟨f.a, f.ea⟩] else []
    let vs ← readSources l
    need (csrHeld t a) .illegal (word a)
    modify (csrSync a)
    let s0 ← get
    let old := csrRead s0.cur t a
    match mode with
    | some m => vlcapCheck a (m.combine old (w0 vs))
    | none => pure ()
    if result then destWait f.d
    modify (fun s => s.modCur (fun k =>
      let k := k.popAll l
      match mode with
      | some m => csrStore t a (csrStored m (csrMasks t a) old (w0 vs)) k
      | none => k))
    if result then modify (fun s => s.modCur (fun k => k.putScalar t f.d (csrShown (s0.streamAt s0.turn.1 t) a old)))) s

/-- CSRR (R114, R408). -/
def execCsrr (f : IForm) (s : State) : Out := csrOp (.csrr f) f none true s
/-- CSRW (R114, R408). -/
def execCsrw (f : IForm) (s : State) : Out := csrOp (.csrw f) f (some .write) false s
/-- CSRS (R114, R408): with A = s0 a read only. -/
def execCsrs (f : IForm) (s : State) : Out :=
  csrOp (.csrs f) f (if f.a = 0 then none else some .set) true s
/-- CSRC (R114, R408): with A = s0 a read only. -/
def execCsrc (f : IForm) (s : State) : Out :=
  csrOp (.csrc f) f (if f.a = 0 then none else some .clear) true s

/-! ### Waits on engines and producers -/

/-- The stream whose register a producer fills (R19). -/
def Producer.strm : Producer → StreamId
  | .ld .. => .a
  | .gather .. => .x
  | .macc .. => .x
  | .vdeq .. => .x

/-- The barrier of a share fault that holds the matrix engine (R198). -/
def Core.shareHalt (k : Core) : Option Nat :=
  match k.mat.halt with
  | some h => h.share
  | none => none

/-- X traps PARTNER at an instruction that would wait on an engine halted by a share fault (R189 check 8, R198). -/
def partnerCheck (k : Core) (t : StreamId) : Exec Unit :=
  match k.shareHalt with
  | some b => if t = .x then throw (.trap .partner (word b)) else pure ()
  | none => pure ()

end Sys2Proof.Machine
end

