-- ==== Sys2Proof/Machine/MatrixArith.lean ====
section
/-! DEFINITION. Machine/MatrixArith.lean: the sums of a K-step in Plain and in Twill order (R169 to R175). -/

namespace Sys2Proof.Machine

/-- A value with the flags of what made it. -/
abbrev Flagged := Val × BitVec 6

/-- F(x): rounded to FP32 with RNE, subnormals kept; NaN is canonical (R171). -/
def f32Bits (v : Val) : Rounded := roundTo v fmtFp32 127 .rne false

/-- F(x) as a value. -/
def f32 (x : Flagged) : Flagged :=
  let r := f32Bits x.1
  (decodeFloat fmtFp32 r.1 false, r.2 ||| x.2)

/-- A value as an integer multiple of 2^q, for finite values. -/
def finScaled (q : Int) : Val → Int
  | .fin s m e => scaledInt s m e q
  | _ => 0

/-- The least exponent of the finite values of a list. -/
def leastExp : List Val → Int → Int
  | [], q => q
  | .fin _ m e :: r, q => leastExp r (if m ≠ 0 ∧ e < q then e else q)
  | _ :: r, q => leastExp r q

/-- The exact sum of products: NaN with NV where infinities of both signs meet, −0 when every product is −0 (R171, R172). -/
def exactSum (ps : List Flagged) : Flagged :=
  let fl := orFlags (ps.map (·.2))
  let vs := ps.map (·.1)
  let pinf := vs.any (fun v => v == .inf false)
  let ninf := vs.any (fun v => v == .inf true)
  if pinf && ninf then (.nan false, fl ||| flagNV)
  else if vs.any Val.isNan then (.nan false, fl)
  else if pinf then (.inf false, fl)
  else if ninf then (.inf true, fl)
  else
    let q := leastExp vs 0
    let t := (vs.map (finScaled q)).sum
    if t = 0 then (.zero (vs.all Val.neg), fl) else (.fin (decide (t < 0)) t.natAbs q, fl)

/-- One element of a block product: 64 exact products, summed exactly and rounded once (R172). -/
def dot (xs ys : List Val) : Flagged := f32 (exactSum (List.zipWith valMul xs ys))

/-- A block: its rows, or for a right-hand side its columns. -/
abbrev Block := List (List Val)

/-- X · Y from the rows of X and the columns of Y (R172). -/
def blockProd (x y : Block) : List (List Flagged) := x.map (fun r => y.map (fun c => dot r c))

/-- A statement on whole blocks, element by element. -/
def zipBlock {α β γ : Type} (f : α → β → γ) (x : List (List α)) (y : List (List β)) : List (List γ) :=
  List.zipWith (List.zipWith f) x y

/-- The values of a block. -/
def vals (x : List (List Flagged)) : Block := x.map (List.map (·.1))

/-- The flags of a block. -/
def blockFlags (x : List (List Flagged)) : BitVec 6 := orFlags (x.map (fun r => orFlags (r.map (·.2))))

/-- F(x + y) and F(x − y) on blocks. -/
def addF (x y : List (List Flagged)) : List (List Flagged) := zipBlock (fun a b => f32 (valAdd .rne a.1 b.1)) x y
def subF (x y : List (List Flagged)) : List (List Flagged) := zipBlock (fun a b => f32 (valSub .rne a.1 b.1)) x y

/-- Is a value infinite or NaN? -/
def Val.special : Val → Bool
  | .fin .. => false
  | _ => true

/-- Does a block hold an infinity or a NaN (R175)? -/
def anySpecial (x : Block) : Bool := x.any (fun r => r.any Val.special)

/-! ### Guard formats (R173) -/

/-- A guard format: significand bits, emax, emin. -/
structure Guard where
  p : Nat
  emax : Int
  emin : Int
deriving DecidableEq, Repr

/-- The guard format of an operand format (R173). -/
def guardOf (f : Nat) : Guard :=
  if f = fmtFp16 then ⟨14, 46, -15⟩
  else if f = fmtE4m3 then ⟨7, 22, -7⟩
  else if f = fmtE5m2 then ⟨6, 46, -15⟩
  else if f = fmtE2m1 then ⟨5, 4, -1⟩
  else ⟨11, 382, -127⟩

/-- G(x) (R173): a value rounded to a guard number scaled by 2^(σ − 127). -/
def roundGuard (g : Guard) (sigma : Nat) (x : Flagged) : Flagged :=
  match x.1 with
  | .nan _ => (.nan false, x.2)
  | .inf s => (.inf s, x.2)
  | .fin s m e =>
    if m = 0 then (.zero s, x.2)
    else
      let k : Int := (sigma : Int) - 127
      let l := log2Of m (e - k)
      let t : Int := (g.p : Int) - 1
      let q := if l < g.emin then g.emin - t else l - t
      let (n, inexact) := roundUnits m (e - k) q s .rne
      if n = 0 then (.zero s, x.2 ||| flagNX ||| flagUF)
      else if g.emax < log2Of n q then (.inf s, x.2 ||| flagOF ||| flagNX)
      else (.fin s n (q + k), x.2 ||| (if inexact then (if l < g.emin then flagNX ||| flagUF else flagNX) else 0))

/-- An input element or pre-sum with its σ. -/
abbrev Scaled := Flagged × Nat

/-- A pre-sum x + y or x − y of scaled elements (R173). -/
def preAdd (g : Guard) (x y : Scaled) : Scaled :=
  let sc := Nat.max x.2 y.2
  (roundGuard g sc (valAdd .rne x.1.1 y.1.1), sc)
def preSub (g : Guard) (x y : Scaled) : Scaled :=
  let sc := Nat.max x.2 y.2
  (roundGuard g sc (valSub .rne x.1.1 y.1.1), sc)

/-- The values of a block of scaled elements. -/
def sVals (x : List (List Scaled)) : Block := x.map (List.map (fun e => e.1.1))
/-- The flags of a block of pre-sums. -/
def sFlags (x : List (List Scaled)) : BitVec 6 := orFlags (x.map (fun r => orFlags (r.map (fun e => e.1.2))))

/-! ### K-steps -/

/-- The decoded operands of a K-step: A by rows of 128, B by columns of 128, each element with the SCALE of its line,
and the formats. -/
structure KOperands where
  a : List (List (Val × Nat))
  b : List (List (Val × Nat))
  fa : Nat
  fb : Nat
  plain : Bool
deriving DecidableEq, Repr

/-- A quarter of an operand, by row or column half and by k half. -/
def quarter (x : List (List (Val × Nat))) (hi kHi : Bool) : List (List Scaled) :=
  ((if hi then x.drop 64 else x.take 64)).map (fun r => ((if kHi then r.drop 64 else r.take 64)).map (fun e => ((e.1, 0), e.2)))

/-- The tile's rows, 128 by 128, as values. -/
abbrev TileRows := List (List Val)

/-- The four blocks of a tile put together. -/
def joinBlocks {α : Type} (c11 c12 c21 c22 : List (List α)) : List (List α) :=
  List.zipWith (· ++ ·) c11 c12 ++ List.zipWith (· ++ ·) c21 c22

/-- A block of a tile. -/
def tileBlock {α : Type} (t : List (List α)) (hi right : Bool) : List (List α) :=
  (if hi then t.drop 64 else t.take 64).map (fun r => if right then r.drop 64 else r.take 64)

/-- One K-step in Plain order (R172): chunk 0, then chunk 1. -/
def plainStep (o : KOperands) (t : List (List Flagged)) : List (List Flagged) × BitVec 6 :=
  let go := fun (t : List (List Flagged)) (kHi : Bool) =>
    let half := fun (x : List (List (Val × Nat))) => x.map (fun r => ((if kHi then r.drop 64 else r.take 64)).map (·.1))
    let c := blockProd (half o.a) (half o.b)
    let t' := addF t c
    (t', blockFlags c ||| blockFlags t')
  let (t1, f1) := go t false
  let (t2, f2) := go t1 true
  (t2, f1 ||| f2)

/-- One K-step in Twill order (R174), with TW (R175). -/
def twillStep (o : KOperands) (t : List (List Flagged)) : List (List Flagged) × BitVec 6 :=
  let ga := guardOf o.fa
  let gb := guardOf o.fb
  let a11 := quarter o.a false false
  let a12 := quarter o.a false true
  let a21 := quarter o.a true false
  let a22 := quarter o.a true true
  let b11 := quarter o.b false false
  let b21 := quarter o.b false true
  let b12 := quarter o.b true false
  let b22 := quarter o.b true true
  let s1 := zipBlock (preAdd ga) a21 a22
  let s2 := zipBlock (preSub ga) s1 a11
  let s3 := zipBlock (preSub ga) a11 a21
  let s4 := zipBlock (preSub ga) a12 s2
  let t1 := zipBlock (preSub gb) b12 b11
  let t2 := zipBlock (preSub gb) b22 t1
  let t3 := zipBlock (preSub gb) b22 b12
  let t4 := zipBlock (preSub gb) t2 b21
  let p1 := blockProd (sVals a11) (sVals b11)
  let p2 := blockProd (sVals a12) (sVals b21)
  let p3 := blockProd (sVals s4) (sVals b22)
  let p4 := blockProd (sVals a22) (sVals t4)
  let p5 := blockProd (sVals s1) (sVals t1)
  let p6 := blockProd (sVals s2) (sVals t2)
  let p7 := blockProd (sVals s3) (sVals t3)
  let u1 := addF p1 p2
  let u2 := addF p1 p6
  let u3 := addF u2 p7
  let u4 := addF u2 p5
  let u5 := addF u4 p3
  let u6 := subF u3 p4
  let u7 := addF u3 p5
  let r := joinBlocks (addF (tileBlock t false false) u1) (addF (tileBlock t false true) u5)
    (addF (tileBlock t true false) u6) (addF (tileBlock t true true) u7)
  let ins := [a11, a12, a21, a22, b11, b21, b12, b22]
  let pre := [s1, s2, s3, s4, t1, t2, t3, t4]
  let post := [p1, p2, p3, p4, p5, p6, p7, u1, u2, u3, u4, u5, u6, u7]
  let fl := orFlags (pre.map sFlags) ||| orFlags (post.map blockFlags) ||| blockFlags r
  let tw := ins.any (fun x => anySpecial (sVals x)) || pre.any (fun x => anySpecial (sVals x)) ||
    post.any (fun x => anySpecial (vals x))
  (r, if tw then fl ||| flagTW else fl)

/-- One integer K-step: exact sums modulo 2^32, the same in both orders (R169, R174). -/
def intStep (o : KOperands) (t : List (List Nat)) : List (List Nat) :=
  zipBlock (fun (c : Nat) (d : Int) => (((c : Int) + d) % (2 ^ 32 : Int)).toNat) t
    (o.a.map (fun r => o.b.map (fun c => (List.zipWith (fun x y => x.1.toInt * y.1.toInt) r c).sum)))

/-! ### Tiles as rows -/

/-- `n` elements of a tile from key `k`, unlisted ones 0. -/
def expandTab (t : Tab (BitVec 32)) (k : Nat) : Nat → List Nat
  | 0 => []
  | n + 1 =>
    match t with
    | (j, v) :: r => if j = k then v.toNat :: expandTab r (k + 1) n else 0 :: expandTab ((j, v) :: r) (k + 1) n
    | [] => 0 :: expandTab [] (k + 1) n

/-- A list cut into `n` rows of 128. -/
def cutRows (l : List Nat) : Nat → List (List Nat)
  | 0 => []
  | n + 1 => l.take 128 :: cutRows (l.drop 128) n

/-- The 128 rows of a tile. -/
def Tile.rows (t : Tile) : List (List Nat) := cutRows (expandTab t.elems 0 16384) 128

/-- The elements of a tile from its rows; zeros are not listed. -/
def rowsTab (rows : List (List Nat)) : Tab (BitVec 32) :=
  ((rows.flatten.zipIdx).filter (fun e => e.1 % 2 ^ 32 != 0)).map (fun e => (e.2, BitVec.ofNat 32 e.1))

/-- The kind of a tile after a K-step, and its contents (R169). -/
def kStep (o : KOperands) (int : Bool) (t : Tile) : Tile × BitVec 6 :=
  if int then ({ t with kind := .int32, elems := rowsTab (intStep o t.rows) }, 0)
  else
    let rows := t.rows.map (List.map (fun b => (decodeFloat fmtFp32 b false, (0 : BitVec 6))))
    let (r, fl) := if o.plain then plainStep o rows else twillStep o rows
    ({ t with kind := .fp32, elems := rowsTab (r.map (List.map (fun v => (f32Bits v.1).1))) }, fl)

end Sys2Proof.Machine
end

