-- ==== Sys2Proof/Machine/Engine.lean ====
section
/-! DEFINITION. Machine/Engine.lean: the matrix engine: the lines of a K-step and their checks, units, the events of the
engine, and the end of a share (R166 to R186, R190 to R198, R372, R399, R400). -/

namespace Sys2Proof.Machine

/-! ### A command's fields (R187, R188) -/

/-- The fields of a command's word. -/
def MatCmd.form (m : MatCmd) : RForm := RForm.ofWord m.word

/-- OP of a command's word. -/
def MatCmd.op (m : MatCmd) : Nat := (wordOp m.word)

/-- Is a command a matrix product, or a share of one? -/
def MatCmd.isMma (m : MatCmd) : Bool := m.op == 0xA1 || m.op == 0xA2

/-- `.g`: X = 1. -/
def MatCmd.gather (m : MatCmd) : Bool := wordX m.word == 1

/-- The tile number of an accumulator code (R40). -/
def tileNo (c : Code) : Nat := c.toNat - 0x80

/-- K, BAR, MASK, H and IDX of a matrix descriptor (R188). -/
def descK (d : Word) : Nat := fld d 0 13
def descBar (d : Word) : Nat := fld d 16 4
def descMask (d : Word) : Nat := fld d 24 8
def descH (d : Word) : Nat := fld d 32 13
def descIdx (d : Word) : Nat := fld d 46 14 * 256

/-- A tile of a core. -/
def Core.tile (k : Core) (n : Nat) : Tile := tabGet ⟨.none, [], []⟩ k.mat.acc n

/-- Set a tile. -/
def Core.setTile (k : Core) (n : Nat) (t : Tile) : Core := { k with mat := { k.mat with acc := tabPut k.mat.acc n t } }

/-- The accumulator that a command reports as its tile: D, or A of MST (R199). -/
def MatCmd.tile (m : MatCmd) : Nat := if m.op = 0xA3 then tileNo m.form.a else tileNo m.form.d

/-! ### Faults of the engine (R168, R195, R197) -/

/-- How a K-step or single-step command does not go on. -/
inductive EngStop where
  | wait
  | fault (cause : Cause) (tval : Word)
deriving DecidableEq, Repr

/-- TVAL of an engine's tag fault: tag, operand code, K-step (R168). -/
def engTval (t : Tag) (code : Code) (step : Nat) : Word := word (t.toNat + code.toNat * 2 ^ 16 + step * 2 ^ 24)

/-- Stop an engine's work unless a condition holds. -/
def engNeed (ok : Bool) (cause : Cause) (tval : Word) : Except EngStop Unit :=
  if ok then .ok () else .error (.fault cause tval)

/-! ### The lines of a K-step (R167, R168, R170) -/

/-- A line of an operand: its address as the command names it, its image, and whether it is in its window. -/
structure OpLine where
  addr : Nat
  img : LineImg
  ok : Bool
deriving DecidableEq, Repr

/-- Where an operand lies: the core whose scratchpad it is in (none when its work has ended), its address there, the
address as named, and whether the member exists. -/
structure Operand where
  core : Option Nat
  base : Nat
  named : Nat
  exist : Bool
deriving DecidableEq, Repr

/-- Line `n` of an operand, as the M path of the engine's core reads it. -/
def opLine (s : State) (c : Nat) (o : Operand) (n : Nat) : OpLine :=
  let a := o.base + 64 * n
  ⟨o.named + 64 * n, clusterLine s ⟨c, .m⟩ o.core a, o.exist && decide (a + 64 ≤ Config.spBytes)⟩

/-- The core of the leader of a share (R184). -/
def leaderCore (s : State) (c : Nat) (m : MatCmd) : Option Nat :=
  match m.share with
  | none => some c
  | some (_, l) => (s.cores.find? (fun e => sameJobGang (s.core c) e.2 && decide (e.2.placeD.gidx0 = l))).map (·.1)

/-- The B operand: local to the issuing core or the leader, or a cluster address (R167, R399). The leader's cluster is the
partner's, which names its members when the leader's work has ended (R184, R400). -/
def operandB (s : State) (c : Nat) (m : MatCmd) : Operand :=
  let v := m.bv.toNat
  match leaderCore s c m with
  | none =>
    if v < 2 ^ 22 then ⟨none, v, v, true⟩ else ⟨clusterCore s c v, v % 2 ^ 22, v, clusterOk (s.core c) v⟩
  | some l =>
    if v < 2 ^ 22 then ⟨some l, v, v, true⟩
    else ⟨clusterCore s l v, v % 2 ^ 22, v, clusterOk (s.core l) v⟩

/-- The A operand, in the engine's own scratchpad (R167, R193). -/
def operandA (c : Nat) (m : MatCmd) : Operand := ⟨some c, m.av.toNat, m.av.toNat, true⟩

/-- Elements per line of an operand's format, and its panels per K-step (R167). -/
def panels (f : Nat) : Nat := 128 * fmtWidth f / 512

/-- The formats of an operand line (R168 check 3). -/
def opFormat (isB : Bool) (f : Nat) : Bool := (2 ≤ f && f ≤ 7) || (isB && f == fmtCb4)

/-- Check 3 of R168 on a line. -/
def lineFormat (isB : Bool) (code : Code) (step : Nat) (x : OpLine) : Except EngStop Unit := do
  let t := x.img.tag
  engNeed (opFormat isB (tagFmt t) && (tagFmt t == fmtCb4 || tagScale t != 0xFF)) .tagFmt (engTval t code step)
  engNeed (!x.img.mark) .tagWidth (engTval t code step)

/-- Check 2 of R168 on a line. -/
def lineClass (code : Code) (step : Nat) (x : OpLine) : Except EngStop Unit :=
  engNeed (tagClass x.img.tag == 0) .tagClass (engTval x.img.tag code step)

/-- Check 1 of R168 on a line. -/
def lineWindow (x : OpLine) : Except EngStop Unit := engNeed x.ok .bound (word x.addr)

/-- The checks of an operand's row-0 line (R168). -/
def rowZero (isB : Bool) (code : Code) (step : Nat) (x : OpLine) : Except EngStop Nat := do
  lineWindow x
  lineClass code step x
  lineFormat isB code step x
  return panels (tagFmt x.img.tag)

/-- The height of the A panels: H under `.g`, 128 otherwise (R170). -/
def MatCmd.height (m : MatCmd) : Nat := if m.gather then descH m.cv else 128

/-- The line of row `r` within an A panel (R170). -/
def MatCmd.row (m : MatCmd) (r : Nat) : Nat :=
  match m.index with
  | some l => l.getD r 0
  | none => r

/-- Where K-step `n` begins: A line and B line (R167, R188). The row-0 lines of the K-steps before it are read again; one that
fails a check makes K-step `step` fail (log 49). -/
def kStart (s : State) (c : Nat) (m : MatCmd) (step : Nat) : Nat → Nat → Nat → Except EngStop (Nat × Nat)
  | 0, la, lb => .ok (la, lb)
  | n + 1, la, lb => do
    let pa ← rowZero false m.form.a step (opLine s c (operandA c m) (la + m.row 0))
    let pb ← rowZero true m.form.b step (opLine s c (operandB s c m) lb)
    kStart s c m step n (la + pa * m.height) (lb + pb * 128)

/-- The 128 index values, two bytes each, of four lines (R170, R188). -/
def indexValues (ls : List LineImg) : List Nat :=
  ls.flatMap (fun i => (List.range 32).map (fun j => lineBytes i.bits (2 * j) 2))

/-- The index vector, read when K-step 0 starts, or at the resumed step; a line that is not VALID fails TAG_CLASS (R170,
R192). -/
def readIndexVector (s : State) (c : Nat) (m : MatCmd) (step : Nat) : Except EngStop (List Nat) := do
  let ls := (List.range 4).map (fun j => viewImg s ⟨c, .m⟩ (spLoc c (descIdx m.cv + 64 * j)))
  match ls.find? (fun i => tagClass i.tag != 0) with
  | some i => throw (.fault .tagClass (engTval i.tag m.form.c step))
  | none => return indexValues ls

/-- The slot of a CB4 line: UNLOADED faults, PENDING waits, a class that is not VALID faults (R168 check 7). -/
def lineSlot (k : Core) (code : Code) (step : Nat) (x : OpLine) : Except EngStop Unit :=
  let t := x.img.tag
  if tagFmt t ≠ fmtCb4 then .ok ()
  else
    let b := k.bookSlot (tagScale t)
    match b.state with
    | .unloaded => .error (.fault .emptyRead (word (0x100 + tagScale t)))
    | .pending => .error .wait
    | .full => engNeed (b.vclass == 0) .tagClass (engTval (mkTag fmtCb4 b.vclass.toNat (tagScale t)) code step)

/-- The tag that names a tile's kind in TVAL: 0x087F or 0x407F (R168, R195). -/
def kindTag (k : TileKind) : Tag := if k = .int32 then Config.tagInt32 else Config.tagFp32

/-- A decoded line: its elements with the σ they count for (R171, R173). -/
def decodeLine (k : Core) (i : LineImg) : List (Val × Nat) :=
  let f := tagFmt i.tag
  let sc := if f = fmtCb4 then 127 else tagScale i.tag
  (lineValsOf (bookOf k) i.tag (512 / fmtWidth f) i.bits).map (fun v => (v, sc))
where
  /-- The elements of a line as exact values. -/
  lineValsOf (book : Nat → Nat → Nat) (t : Tag) (n : Nat) (b : LineBits) : List Val :=
    (List.range n).map (fun j => decodeElem book (slotOf (fmtWidth (tagFmt t)) b j) t false)

/-- Row `r` of an operand over its panels. -/
def decodeRow (k : Core) (ls : List (List OpLine)) (r : Nat) : List (Val × Nat) :=
  ls.flatMap (fun panel => match panel[r]? with
    | some x => decodeLine k x.img
    | none => [])

/-- Where the K-step at STEP begins: known while the command runs on, found again when it resumes (R167). -/
def kPlace (s : State) (c : Nat) (m : MatCmd) (step : Nat) : Except EngStop (Nat × Nat) :=
  match m.place with
  | some p => .ok p
  | none => kStart s c m step step 0 0

/-- Where the next K-step begins: after the panels of the one whose operands are given (R167). -/
def nextPlace (p : Nat × Nat) (m : MatCmd) (o : KOperands) : Nat × Nat :=
  (p.1 + panels o.fa * m.height, p.2 + panels o.fb * 128)

/-- The checks of a K-step, its operands, and whether it is an integer K-step (R168). A row number is held against H in
check 1 and not in the reading of the row-0 line (log 49). -/
def kOperands (s : State) (c : Nat) (m : MatCmd) (step : Nat) : Except EngStop (KOperands × Bool) := do
  let k := s.core c
  let oa := operandA c m
  let ob := operandB s c m
  let ca := m.form.a
  let cb := m.form.b
  let (la, lb) ← kPlace s c m step
  let pa ← rowZero false ca step (opLine s c oa (la + m.row 0))
  let pb ← rowZero true cb step (opLine s c ob lb)
  let rows := List.range 128
  let as := (List.range pa).map (fun q => rows.map (fun r =>
    let x := opLine s c oa (la + q * m.height + m.row r)
    { x with ok := x.ok && decide (m.row r < m.height) }))
  let bs := (List.range pb).map (fun q => rows.map (fun r => opLine s c ob (lb + q * 128 + r)))
  let al := as.flatten
  let bl := bs.flatten
  al.forM lineWindow
  bl.forM lineWindow
  al.forM (lineClass ca step)
  bl.forM (lineClass cb step)
  al.forM (lineFormat false ca step)
  bl.forM (lineFormat true cb step)
  let fa := ((al.head?).map (fun x => tagFmt x.img.tag)).getD 0
  let fb := ((bl.head?).map (fun x => tagFmt x.img.tag)).getD 0
  al.forM (fun x => engNeed (tagFmt x.img.tag == fa) .tagMix (engTval x.img.tag ca step))
  bl.forM (fun x => engNeed (tagFmt x.img.tag == fb) .tagMix (engTval x.img.tag cb step))
  let e := latticeEntry m.lattice fa fb
  let tb := ((bl.head?).map (fun x => x.img.tag)).getD 0
  engNeed (!leForbid e) .tagPair (engTval tb cb step)
  if leMi e then
    al.forM (fun x => engNeed (tagScale x.img.tag == 127) .tagPair (engTval x.img.tag ca step))
    bl.forM (fun x => engNeed (tagScale x.img.tag == 127) .tagPair (engTval x.img.tag cb step))
  let kind := (k.tile m.tile).kind
  engNeed (decide (kind = .none) || decide (kind = .int32) == leMi e) .tagMix (engTval (kindTag kind) m.form.d step)
  bl.forM (lineSlot k cb step)
  return (⟨rows.map (decodeRow k as), rows.map (decodeRow k bs), fa, fb, mfPl m.form.m⟩, leMi e)

/-! ### Units and residues (R179, R183) -/

/-- The unit that is out: retired, or quarantined. -/
def CoreUnits.missing (u : CoreUnits) : Option Nat :=
  match (List.range 7).find? (fun i => u.unitsOut.getLsbD i) with
  | some i => some i
  | none => u.quarantined

/-- The working units in the order of the recombination schedule in use (R179). -/
def unitOrder (s : State) (c : Nat) : List Nat :=
  let u := (s.core c).units
  let r := s.pfReg (mschedOff c (u.missing.getD 7))
  ((List.range 7).map (fun i => fld r (3 * i) 3)).filter (fun x => x < 7 && some x != u.missing)

/-- Block products of a K-step: 7 in Twill, 8 in Plain (R179). -/
def productCount (plain : Bool) : Nat := if plain then 8 else 7

/-- The residue errors of a K-step, product by product in placement order: a product named once is formed again and
matches, one named twice takes a MATRIX fault. The state with its records, and the fault's unit (R183). -/
def residueErrors (c : Nat) (order bad : List Nat) : Nat → Nat → State → State × Option Nat
  | _, 0, s => (s, none)
  | p, n + 1, s =>
    let k := s.core c
    let unit := order.getD ((k.units.nextUnit + p) % order.length) 0
    let times := bad.count p
    if times = 0 then residueErrors c order bad (p + 1) n s
    else
      let rec1 : ErrRec := ⟨s.timeUs, 0, k.guest, 0, unit, c, 2, 0, 1⟩
      let s := detectError rec1 s
      if times = 1 then residueErrors c order bad (p + 1) n s
      else (detectError { rec1 with sev := 1, action := 5 } s, some unit)

/-- A unit that has failed twice is quarantined, when all units work (R183). -/
def quarantine (c unit : Nat) (s : State) : State :=
  s.modCore c (fun k => if k.units.missing = none then { k with units := { k.units with quarantined := some unit } } else k)

/-- The schedule's place moves on by the products of a K-step (R179). -/
def moveUnits (c n len : Nat) (s : State) : State :=
  s.modCore c (fun k => { k with units := { k.units with nextUnit := (k.units.nextUnit + n) % (Nat.max 1 len) } })

/-! ### Completion, and the end of a share (R184, R185, R194, R290) -/

/-- Named-barrier state of a member (R289). -/
def Core.bar (k : Core) (b : Nat) : Barrier := tabGet ⟨0, 0, 0, 0⟩ k.bars b

/-- Set the state of a barrier. -/
def Core.setBar (k : Core) (b : Nat) (x : Barrier) : Core := { k with bars := tabPut k.bars b x }

/-- The status of a completion merged into STAT: the lowest-indexed faulted partner stays (R289, R290). -/
def mergeStat (old new : BitVec 8) : BitVec 8 :=
  if new.getLsbD 7 = false then old
  else if old.getLsbD 7 && decide (old.toNat ≤ new.toNat) then old else new

/-- A completion of barrier `b` with a status, in one member (R290, R194). -/
def signalMember (b : Nat) (st : BitVec 8) (ganged : Bool) (k : Core) : Core :=
  let x := k.bar b
  let k := k.setBar b { x with done := x.done + 1, stat := mergeStat x.stat st }
  let k := if ganged then { k with mat := { k.mat with gdone := true, gstatus := st, gbar := BitVec.ofNat 4 b } } else k
  (k.setEvf .a).setEvf .x

/-- The cores of a guest's job whose index at placement is in a list. -/
def jobMembers (s : State) (g : Nat) (j : JobId) (is : List Nat) : List Nat :=
  (s.cores.filter (fun e => decide (e.2.guest = some g) && decide (e.2.place.map Place.job = some j) &&
    is.contains e.2.placeD.gidx0)).map (·.1)

/-- Members of a guest's job change, by their index at placement: those on cores and those that have been saved. -/
def onMembers (g : Nat) (j : JobId) (is : List Nat) (f : Core → Core) (s : State) : State :=
  let s := (jobMembers s g j is).foldl (fun s c => s.modCore c f) s
  s.modGuest g (fun x => { x with drained := x.drained.map (fun d =>
    if d.job = j then { d with members := d.members.map (fun m => if is.contains m.idx then { m with core := f m.core } else m) } else d) })

/-- PARTIAL and WHO of a ganged completion (R194). -/
def gangedStatus (faulted : List Nat) : BitVec 8 :=
  match faulted with
  | [] => 0
  | f :: r => BitVec.ofNat 8 (0x80 + r.foldl Nat.min f)

/-- A gang of a guest by its job. -/
def gangOf (x : Guest) (j : JobId) : Option Gang := x.gangs.find? (fun y => y.job = j)

/-- Replace a gang. -/
def Guest.setGang (x : Guest) (y : Gang) : Guest := { x with gangs := x.gangs.map (fun z => if z.job = y.job then y else z) }

/-- A share ends; with the last one the barrier is signalled in every partner and the leader's MSEQ covers the command
(R184, R194). -/
def endShare (g : Nat) (j : JobId) (num partner idx : Nat) (faulted : Bool) (s : State) : State :=
  match (gangOf (s.guest g) j).bind (fun y => (y.ganged.find? (fun z => z.num = num)).map (fun z => (y, z))) with
  | none => s
  | some (y, z) =>
    let z := { z with running := listDel z.running partner, faulted := if faulted then listAdd z.faulted idx else z.faulted }
    let rest := y.ganged.filter (fun w => w.num ≠ num)
    if z.running.isEmpty = false then s.modGuest g (fun x => x.setGang { y with ganged := rest ++ [z] })
    else
      let s := s.modGuest g (fun x => x.setGang { y with ganged := rest })
      onMembers g j [z.leader] (fun k => k.matDone z.seqn) (onMembers g j z.partners (signalMember z.bar (gangedStatus z.faulted) true) s)

/-- The command at the head of a core's queue completes: STEP returns to 0, or takes a value written while it ran, and its flags enter FSTAT as one (R118, R181,
R184, R190, R192). -/
def finishCommand (c : Nat) (m : MatCmd) (s : State) : State :=
  let s := s.modCore c (fun k => { k with mat := { k.mat with
    queue := k.mat.queue.drop 1, step := k.mat.stepNext.getD 0, stepNext := none } }.orFstat m.flags)
  match m.share with
  | none => s.modCore c (fun k => k.matDone m.seqn)
  | some (num, _) =>
    let pl := (s.core c).placeD
    endShare (s.guestOf c) pl.job num pl.gidx0 pl.gidx false s

/-- A held command: what it has read of its place and of its index vector is read again when it restarts (R167, R192). -/
def MatCmd.held (m : MatCmd) : MatCmd := { m with index := none, place := none }

/-- The command at the head faults: the engine halts, and the command stays at the head; a share ends, and its flags enter
FSTAT (R184, R197 to R199). -/
def faultCommand (c : Nat) (m : MatCmd) (cause : Cause) (tval : Word) (s : State) : State :=
  let halt : EngineHalt := ⟨cause, tval, false, none, m.share.map (fun _ => descBar m.cv), m.tile, false⟩
  let held := { m.held with shareOver := m.share.isSome }
  let s := s.modCore c (fun k => { k with mat := { k.mat with halt := some halt, queue := held :: k.mat.queue.drop 1 } }.setEvf .x)
  match m.share with
  | none => s
  | some (num, _) =>
    let pl := (s.core c).placeD
    endShare (s.guestOf c) pl.job num pl.gidx0 pl.gidx true (s.modCore c (fun k => k.orFstat m.flags))

/-! ### The events of the engine -/

/-- Does an engine discard what it holds: both streams have ended, and a fault that no driver answers halts it (R113, R357)? -/
def discards (k : Core) (halt : Option EngineHalt) : Bool :=
  k.a.ended && k.x.ended && (match halt with
    | some h => h.pool.isNone
    | none => false)

/-- CSEQ as a chained command waits for it: CNEXT where the copy engine's commands are discarded (R113, R244, R357). -/
def Core.cseqNow (k : Core) : Word := if discards k k.copy.halt then k.copy.cnext else k.copy.cseq

/-- May the engine work on the command at the head: the core runs, the engine is not halted, a chained command's copy
has completed, and a share's partner is not frozen (R193, R197, R244)? -/
def engineReady (s : State) (c : Nat) (m : MatCmd) : Bool :=
  let k := s.core c
  decide (k.mode = .run) && k.mat.halt.isNone &&
    (match m.after, leaderCore s c m with
     | some q, some l => decide (q.toNat ≤ (s.core l).cseqNow.toNat)
     | _, _ => true) &&
    (m.share.isNone || (k.a.frozen.isNone && k.x.frozen.isNone))

/-- The lines that the copy of a CPYM wrote are visible to its chained command (R244, R258). -/
def startChained (c : Nat) (m : MatCmd) (s : State) : State :=
  match m.after, leaderCore s c m with
  | some _, some l => enterViews (fun r => decide (r.writer = some ⟨l, .c⟩) && r.performed) [⟨c, .m⟩] s
  | _, _ => s

/-- A command starts: a value written to MPROG.STEP while another ran takes effect (R182). -/
def startCommand (c : Nat) (m : MatCmd) (s : State) : State :=
  if m.started then s
  else
    (startChained c m s).modCore c (fun k => { k with mat := { k.mat with
      step := k.mat.stepNext.getD k.mat.step, stepNext := none
      queue := { m with started := true } :: k.mat.queue.drop 1 } })

/-- Replace the command at the head. -/
def setHead (c : Nat) (m : MatCmd) (s : State) : State :=
  s.modCore c (fun k => { k with mat := { k.mat with queue := m :: k.mat.queue.drop 1 } })

/-- The sums of a K-step enter the tile whole (R180); adding into a poisoned granule keeps it poisoned (R372). The command
goes on at the next K-step, with the flags of this one (R118, R192). -/
def addStep (c : Nat) (m : MatCmd) (o : KOperands) (int : Bool) (next : Nat × Nat) (s : State) : State × MatCmd :=
  let r := kStep o int ((s.core c).tile m.tile)
  let m' := { m with flags := m.flags ||| r.2, place := some next }
  (s.modCore c (fun k =>
    let k := (k.setTile m.tile r.1).note 5 none .u 1
    { k with mat := { k.mat with step := k.mat.step + 1, queue := m' :: k.mat.queue.drop 1 } }), m')

/-- Does a product have no K-step left (R182)? -/
def noStepLeft (s : State) (c : Nat) (m : MatCmd) : Bool := decide (descK m.cv / 128 ≤ (s.core c).mat.step.toNat)

/-- A product before its next K-step: under `.g` it has read its index vector, once as it starts (R170, R192). -/
def readyCommand (c : Nat) (m : MatCmd) (s : State) : Except EngStop (MatCmd × State) :=
  if m.isMma && m.gather && m.index.isNone && !noStepLeft s c m then
    match readIndexVector s c m (s.core c).mat.step.toNat with
    | .error e => .error e
    | .ok l => .ok ({ m with index := some l }, setHead c { m with index := some l } s)
  else .ok (m, s)

/-- One K-step of the product at the head (R168, R180, R183, R192). -/
def runStep (c : Nat) (m : MatCmd) (bad : List Nat) (s : State) : Except EngStop State := do
  let step := (s.core c).mat.step.toNat
  if noStepLeft s c m then return finishCommand c m s
  let p ← kPlace s c m step
  let (o, int) ← kOperands s c { m with place := some p } step
  let order := unitOrder s c
  if order.isEmpty then return faultCommand c m .matrix (word (step * 256 + 7)) s
  let n := productCount o.plain
  let (s, fault) := residueErrors c order bad 0 n s
  let s := moveUnits c n order.length s
  match fault with
  | some unit => return faultCommand c m .matrix (word (step * 256 + unit)) (quarantine c unit s)
  | none =>
    let (s, m) := addStep c m o int (nextPlace p m o) s
    if noStepLeft s c m then return finishCommand c m s else return s

/-- The head of a core's queue when the engine may work on it and a test accepts it, started. -/
def headIf (s : State) (c : Nat) (p : MatCmd → Bool) : Option MatCmd :=
  match (s.core c).mat.queue with
  | [] => none
  | m :: _ => if engineReady s c m && p m then some { m with started := true } else none

/-- An event of the engine on the command at its head. -/
def engineEvent (c : Nat) (p : MatCmd → Bool) (run : MatCmd → State → Except EngStop State) (s : State) : Out :=
  match headIf s c p with
  | none => .next s
  | some m =>
    let started := startCommand c (((s.core c).mat.queue.head?).getD m) s
    match readyCommand c m started with
    | .error .wait => .next started
    | .error (.fault cause tval) => .next (faultCommand c m cause tval started)
    | .ok (m, ready) =>
      match run m ready with
      | .ok s' => .next s'
      | .error .wait => .next ready
      | .error (.fault cause tval) => .next (faultCommand c m cause tval ready)

/-- MATRIX_K_STEP (R174, R180, R192): one K-step of a product or share; `residues` names the products whose residue
check fails in this K-step. -/
def execMatrixKStep (core : Nat) (residues : List Nat) (s : State) : Out :=
  engineEvent core MatCmd.isMma (fun m s => runStep core m residues s) s

/-- A single-step command whose STEP is not 0 completes at once and changes nothing (R182, R190). -/
def singleStep (c : Nat) (m : MatCmd) (run : State → Except EngStop State) (s : State) : Except EngStop State :=
  if (s.core c).mat.step ≠ 0 then .ok (finishCommand c m s)
  else match run s with
    | .ok s => .ok (finishCommand c m s)
    | .error e => .error e

/-- ENGINE_MZERO (R191): zeroes, kind NONE, and no poison (R372). -/
def execEngineMzero (core : Nat) (s : State) : Out :=
  engineEvent core (fun m => m.op == 0xA0) (fun m s => singleStep core m (fun s =>
    .ok (s.modCore core (fun k => k.setTile (tileNo m.form.d) ⟨.none, [], []⟩))) s) s

/-- Line `n` of a stored tile: row n / 8, elements 16 (n mod 8) up; a poisoned granule gives zeros and POISON (R195,
R372). -/
def tileLine (rows : List (List Nat)) (t : Tile) (n : Nat) : LineBits × Tag :=
  let tag := kindTag t.kind
  if n ∈ t.poison then (0, mkTag (tagFmt tag) 2 (tagScale tag))
  else (packSlots 32 (((rows.getD (n / 8) []).drop (16 * (n % 8))).take 16), tag)

/-- ENGINE_MST (R195): the tile to 1,024 scratchpad lines, each one write of the M path. -/
def execEngineMst (core : Nat) (s : State) : Out :=
  engineEvent core (fun m => m.op == 0xA3) (fun m s => singleStep core m (fun s =>
    let t := (s.core core).tile (tileNo m.form.a)
    let rows := t.rows
    .ok ((List.range 1024).foldl (fun s n =>
      let (b, tag) := tileLine rows t n
      addWrite (newWrite s core .m (spLoc core (m.bv.toNat + 64 * n)) allBytes b (some tag) (some false)) s) s)) s) s

/-- The lines that MLDACC reads, checked in line order (R195). -/
def mldaccLines (s : State) (core : Nat) (m : MatCmd) : Except EngStop (List LineImg) := do
  let ls := (List.range 1024).map (fun n => viewImg s ⟨core, .m⟩ (spLoc core (m.av.toNat + 64 * n)))
  let f0 := ((ls.head?).map (fun i => tagFmt i.tag)).getD 0
  ls.forM (fun i => do
    let v := engTval i.tag m.form.a 0
    engNeed (tagClass i.tag == 0) .tagClass v
    engNeed ((tagFmt i.tag == fmtFp32 || tagFmt i.tag == fmtInt32) && tagScale i.tag == 127 && !i.mark) .tagFmt v
    engNeed (tagFmt i.tag == f0) .tagMix v)
  return ls

/-- ENGINE_MLDACC (R195). -/
def execEngineMldacc (core : Nat) (s : State) : Out :=
  engineEvent core (fun m => m.op == 0xA4) (fun m s => singleStep core m (fun s => do
    let ls ← mldaccLines s core m
    let kind : TileKind := if ls.any (fun i => tagFmt i.tag == fmtInt32) then .int32 else .fp32
    let rows := [ls.flatMap (fun i => (List.range 16).map (fun j => slotOf 32 i.bits j))]
    return s.modCore core (fun k => k.setTile (tileNo m.form.d) ⟨kind, rowsTab rows, []⟩)) s) s

/-- The sum of two tiles of one kind (R195), with flags; poison of either source, and of the destination, stays (R372). -/
def addTiles (ta tb : Tile) (old : List Nat) (kind : TileKind) : Tile × BitVec 6 :=
  let poison := (ta.poison ++ tb.poison).foldl listAdd old
  match kind with
  | .none => (⟨.none, [], poison⟩, 0)
  | .int32 => (⟨.int32, rowsTab (zipBlock (fun a b => (a + b) % 2 ^ 32) ta.rows tb.rows), poison⟩, 0)
  | .fp32 =>
    let sum := zipBlock (fun a b =>
      let x := valAdd .rne (decodeFloat fmtFp32 a false) (decodeFloat fmtFp32 b false)
      let r := f32Bits x.1
      (r.1, r.2 ||| x.2)) ta.rows tb.rows
    (⟨.fp32, rowsTab (sum.map (List.map (·.1))), poison⟩, orFlags (sum.map (fun r => orFlags (r.map (·.2)))))

/-- ENGINE_MADD (R195). -/
def execEngineMadd (core : Nat) (s : State) : Out :=
  engineEvent core (fun m => m.op == 0xA6) (fun m s => singleStep core m (fun s => do
    let k := s.core core
    let ta := k.tile (tileNo m.form.a)
    let tb := k.tile (tileNo m.form.b)
    engNeed (decide (ta.kind = .none) || decide (tb.kind = .none) || decide (ta.kind = tb.kind)) .tagMix
      (engTval (kindTag ta.kind) m.form.a 0)
    let (t, fl) := addTiles ta tb (k.tile (tileNo m.form.d)).poison (if ta.kind = .none then tb.kind else ta.kind)
    return s.modCore core (fun k => (k.setTile (tileNo m.form.d) t).orFstat fl)) s) s

end Sys2Proof.Machine
end

