-- ==== Sys2Proof/Machine/VectorData.lean ====
section
/-! DEFINITION. Machine/VectorData.lean: scratchpad and queue transfers, cluster gather and scatter, slides and
permutations, reductions, conversions, and codebook expansion (R140 to R161). -/

namespace Sys2Proof.Machine

/-- Segments that a line fills, or 0 (R141). -/
def lineSegs (t : Tag) (mark : Bool) (w : Nat) : Nat := lineElemsOf t mark w * w / 512

/-- Element `j` of a line of elements of `lw` bits. -/
def lineElem (lw : Nat) (b : LineBits) (j : Nat) : Nat := slotOf lw b j

/-- SegmentOf(VL − 1) + 1 (R143). -/
def segEnd (v : Vec) : Nat := (v.vl.toNat + segSlots v.w - 1) / segSlots v.w

/-- Row 5 of R123: does the instruction process no slot? -/
def Vec.done (v : Vec) : Bool := decide (v.vl.toNat ≤ v.vstart.toNat)

/-- The highest local address of a line (R143). -/
def spTop : Nat := Config.spBytes - 64

/-! ### VLDS and VSTS (R143, R144) -/

/-- The walk of VLDS: (first segment, segments, line) of each line. -/
def vldsWalk (c w gEnd base : Nat) (a : Code) : Nat → Nat → Nat → Exec (List (Nat × Nat × LineImg))
  | 0, _, _ => pure []
  | n + 1, sg, l =>
    if gEnd ≤ sg then pure []
    else do
      let addr := base + 64 * l
      watchAddr 1 false addr 64
      need (decide (addr ≤ spTop)) .bound (word addr)
      let i := viewImg (← get) ⟨c, .x⟩ (spLoc c addr)
      watchTag false i.tag a sg
      let k := lineSegs i.tag i.mark w
      need (decide (k ≠ 0) && decide (sg % k = 0)) .tagWidth (tagTval i.tag a sg)
      let r ← vldsWalk c w gEnd base a n (sg + k) (l + 1)
      return (sg, k, i) :: r

/-- The restart of VLDS off a line's first segment traps TAG_WIDTH there (R143). -/
def vldsRestart (lines : List (Nat × Nat × LineImg)) (g0 : Nat) (a : Code) : Exec Unit :=
  if lines.any (fun x => x.1 == g0) then pure ()
  else
    let t := ((lines.find? (fun x => decide (x.1 ≤ g0) && decide (g0 < x.1 + x.2.1))).map (fun x => x.2.2.tag)).getD 0
    throw (.trap .tagWidth (tagTval t a g0))

/-- Write the segments of one line (R143), which leaves VSTART behind it. -/
def vldsLine (w : Nat) (d : Code) (x : Nat × Nat × LineImg) : Exec Unit :=
  (List.range x.2.1).forM (fun j =>
    writeSlots none (x.1 + j) d x.2.2.tag (fun i => lineElem (lineWidth x.2.2.tag w) x.2.2.bits (i - x.1 * segSlots w)))

/-- VLDS (R143). -/
def execVlds (f : MForm) (s : State) : Out :=
  issue (.vlds f) (do
    vectorWaits [mSrcA f, mSrcB f] false f.d
    let s ← get
    let c := s.turn.1
    let av := s.cur.srcValue s.turn.2 f.a
    let v := s.cur.vec
    if v.done = false then
      let base := mAddr f 64 av (s.cur.srcValue s.turn.2 f.b)
      need (base.toNat % 64 == 0) .align base
      modify (comeAfter c ((List.range 16).map (fun l => spLoc c (base.toNat + 64 * l))))
      let lines ← vldsWalk c v.w (segEnd v) base.toNat f.a 16 0 0
      let g0 := v.vstart.toNat / segSlots v.w
      vldsRestart lines g0 f.a
      stopBetween (lines.filter (fun x => decide (g0 ≤ x.1))) (vldsLine v.w f.d)
    endVector
    mUpdate f 64 av) s

/-- The walk of VSTS: (first segment, segments, tag) of each group. The source segments from `g0` on and the lines that they make
are watched (R346). -/
def vstsWalk (s0 : State) (g0 w gEnd base spb : Nat) (b : Code) : Nat → Nat → Nat → Exec (List (Nat × Nat × Tag))
  | 0, _, _ => pure []
  | n + 1, sg, l =>
    if gEnd ≤ sg then pure []
    else do
      let addr := base + 64 * l
      watchAddr 1 true addr 64
      laneCheck sg b
      let t := (((← get).cur.vreg b).seg sg).tag
      let c := if lineWidth t w ≤ w then w / lineWidth t w else 0
      (List.range (c - 1)).forM (fun j => laneCheck (sg + j + 1) b)
      ((List.range (Nat.max c 1)).filter (fun j => decide (g0 ≤ sg + j))).forM (fun j => watchSeg s0 (sg + j) b)
      if g0 ≤ sg then watchTag true t b sg
      let r := (← get).cur.vreg b
      need (decide (c ≠ 0) && decide (sg % c = 0) && (List.range c).all (fun j => (r.seg (sg + j)).tag == t)) .tagWidth
        (tagTval t b sg)
      need (decide (addr ≤ spTop)) .bound (word addr)
      need (decide (addr + 64 ≤ spb)) .residency (word addr)
      let x ← vstsWalk s0 g0 w gEnd base spb b n (sg + c) (l + 1)
      return (sg, c, t) :: x

/-- The line of a group of segments: the low bits of each slot, zero from VL up (R144). -/
def vstsLine (v : Vec) (r : VReg) (first : Nat) (t : Tag) : LineBits :=
  let lw := lineWidth t v.w
  packSlots lw ((List.range (512 / lw)).map (fun e =>
    let i := first * segSlots v.w + e
    if v.vl.toNat ≤ i then 0 else r.slot v.w i))

/-- The write of one line (R144): its first segment, segments and tag, and its place among the lines. It leaves VSTART
behind the group. -/
def vstsWrite (c : Nat) (b : Code) (base : Nat) (x : (Nat × Nat × Tag) × Nat) : Exec Unit :=
  modify (fun s =>
    let v := s.cur.vec
    let s := s.modCore c (fun k => k.note 4 (some .x) .u ((List.range x.1.2.1).map (fun j =>
      (activeIn k.vec none (x.1.1 + j)).length)).sum)
    (addWrite (newWrite s c .x (spLoc c (base + 64 * x.2)) allBytes (vstsLine v (s.cur.vreg b) x.1.1 x.1.2.2)
      (some x.1.2.2) (some false)) s).modCur (fun k => k.setVstart ((x.1.1 + x.1.2.1) * segSlots v.w)))

/-- VSTS (R144): each line is one write of the X path. -/
def execVsts (f : MForm) (s : State) : Out :=
  issue (.vsts f) (do
    vectorWaits [mSrcA f, mSrcB f] false 0
    let s ← get
    let c := s.turn.1
    let av := s.cur.srcValue s.turn.2 f.a
    let v := s.cur.vec
    if v.done = false then
      let base := mAddr f 64 av 0
      need (base.toNat % 64 == 0) .align base
      let g0 := v.vstart.toNat / segSlots v.w
      let groups ← vstsWalk s g0 v.w (segEnd v) base.toNat s.cur.placeD.spBytes f.b 16 0 0
      modify (comeAfter c ((List.range 16).map (fun l => spLoc c (base.toNat + 64 * l))))
      stopBetween (groups.zipIdx.filter (fun x => decide (g0 ≤ x.1.1))) (vstsWrite c f.b base.toNat)
    endVector
    mUpdate f 64 av) s

/-! ### VPOP and VPUSH (R146, R147) -/

/-- The segments of a register after a whole line has moved into it (R146). -/
def VReg.putLine (r : VReg) (w : Nat) (e : QEntry) : VReg :=
  let n := segSlots w
  (List.range (lineSegs e.tag e.mark w)).foldl (fun r g => r.putSeg g
    ⟨packSlots w ((List.range n).map (fun j => lineElem (lineWidth e.tag w) e.bits (g * n + j))), e.tag⟩) r

/-- VPOP (R146). -/
def execVpop (f : RForm) (s : State) : Out :=
  issue (.vpop f) (do
    vectorWaits [srcA f] false f.d
    let s ← get
    let w := s.cur.vec.w
    match s.cur.queue f.a with
    | [] => throw (.wait (.queue f.a false))
    | e :: _ =>
      watchTag false e.tag f.a 0
      need (decide (lineSegs e.tag e.mark w ≠ 0)) .tagWidth (tagTval e.tag f.a 0)
      modify (fun s => s.modCur (fun k => (k.setVreg f.d ((k.vreg f.d).putLine w e)).popAll [srcA f]))
    endVector) s

/-- The line that VPUSH forms from the lowest segments (R147). -/
def vpushLine (w : Nat) (r : VReg) (t : Tag) : LineBits :=
  packSlots (lineWidth t w) ((List.range (512 / lineWidth t w)).map (fun e => r.slot w e))

/-- VPUSH (R147). -/
def execVpush (f : RForm) (s : State) : Out :=
  issue (.vpush f) (do
    vectorWaits [srcA f] false f.d
    let s ← get
    let v := s.cur.vec
    inSegment 0 (laneCheck 0 f.a)
    let t := (((← get).cur.vreg f.a).seg 0).tag
    let c := v.w / lineWidth t v.w
    watchTag true t f.a 0
    need (decide (lineWidth t v.w ≤ v.w)) .tagWidth (tagTval t f.a 0)
    (List.range c).forM (fun g => do
      inSegment g (laneCheck g f.a)
      let tg := (((← get).cur.vreg f.a).seg g).tag
      if v.vstart.toNat / segSlots v.w ≤ g then watchTag false tg f.a g
      need (tg == t) .tagWidth (tagTval tg f.a g))
    destWait f.d
    modify (fun s => s.modCur (fun k => k.push f.d ⟨vpushLine v.w (k.vreg f.a) t, t, false⟩))
    endVector) s

/-! ### Cluster gather and scatter (R148, R149) -/

/-- Index i of a gather or scatter: bytes 4i to 4i + 3 of B (R148). -/
def VReg.index32 (r : VReg) (i : Nat) : Nat := r.slot 32 i

/-- The checks of a gather or scatter over its active slots, and their cluster addresses (R148, R149). -/
def clusterAddrs (a : Word) (b : Code) (scatter : Bool) : Exec (List (Nat × Nat)) := do
  let s ← get
  let k := s.cur
  let v := k.vec
  let is := (List.range v.vl.toNat).filter (fun i => decide (v.vstart.toNat ≤ i))
  is.mapM (fun i => do
    let x := (a + word ((k.vreg b).index32 i)).toNat
    watchClusterAddr k v x scatter
    need (decide (x % (v.w / 8) = 0)) .align (word x)
    need (clusterOk k x) .bound (word x)
    need (!scatter || decide (x % 2 ^ 22 + v.w / 8 ≤ k.placeD.spBytes)) .residency (word x)
    return (i, x))
where
  /-- A cluster address is watched when it names the issuing core (R346). -/
  watchClusterAddr (k : Core) (v : Vec) (x : Nat) (write : Bool) : Exec Unit :=
    if clusterOk k x && clusterMember k x == k.placeD.gidx then watchAddr 1 write (x % 2 ^ 22) (v.w / 8) else pure ()

/-- Segments of B that hold the indices of the active slots. -/
def indexSegs (v : Vec) : List Nat := (segRange { v with vtype := 2 })

/-- VL above 256 traps ILLEGAL (R148). -/
def clusterVl (i : Instr) (v : Vec) : Exec Unit := need (decide (v.vl.toNat ≤ 256)) .illegal (firstWord i)

/-- VGATHC (R148). -/
def execVgathc (f : RForm) (s : State) : Out :=
  issue (.vgathc f) (do
    vectorSources [srcA f, srcB f] false f.d
    let s ← get
    let c := s.turn.1
    let v := s.cur.vec
    if v.done = false then
      clusterVl (.vgathc f) v
      (indexSegs v).forM (readSegs s [f.b])
      let as ← clusterAddrs (s.cur.srcValue s.turn.2 f.a) f.b false
      modify (fun s =>
        let es := as.map (fun x => (x.1, clusterCore s c x.2, x.2 % 2 ^ 22))
        let ls := es.filterMap (gatherPlace s c)
        let s := comeAfter c ls s
        let got := es.map (gatherElem s c v.w)
        s.modCore c (fun k =>
          let k := k.note 4 (some .x) .u as.length
          { k.setVreg f.d { k.vreg f.d with empty := true } with
            producers := k.producers ++ [.gather f.d.toNat es v.w v.vl.toNat got false] }))
    endVector) s

/-- The tag of a gathered segment from the tags of its elements in ascending order (R148). -/
def gatherTag (w : Nat) (ts : List Tag) : Tag :=
  match ts.find? (fun t => tagClass t != 0) with
  | some t => t
  | none =>
    let t := ts.headD 0
    if ts.all (· == t) && (tagFmt t == fmtRaw || fmtWidth (tagFmt t) == w) then t else Config.tagRaw

/-- A register after a gather has written its segments (R148). -/
def VReg.putGather (r : VReg) (w vl : Nat) (es : List (Nat × Tag × Nat)) : VReg :=
  let n := segSlots w
  ((es.map (fun e => e.1 / n)).eraseDups).foldl (fun r g =>
    let mine := es.filter (fun e => e.1 / n == g)
    r.putSeg g (mergeSegBy w vl (fun i => (mine.map (·.1)).contains i) g (r.seg g) (gatherTag w (mine.map (·.2.1)))
      (fun i => ((tabFind mine i).map (·.2)).getD 0))) r

/-- A register is written whole and becomes full: its stream sees an event (R19, R366). -/
def Core.fillVreg (k : Core) (c : Code) (r : VReg) : Core :=
  (k.setVreg c { r with empty := false }).setEvf .x

/-- GATHER_COMPLETE (R148): the producer at place `n` of the core's producers. A gather that nothing has fixed reads its
elements now. -/
def execGatherComplete (core n : Nat) (s : State) : Out :=
  let k := s.core core
  match k.producers[n]? with
  | some (.gather reg es w vl got fixed) =>
    let xs := if fixed then got else es.map (gatherElem s core w)
    let d : Code := BitVec.ofNat 8 reg
    .next (s.setCore core ({ k with producers := k.producers.eraseIdx n }.fillVreg d ((k.vreg d).putGather w vl xs)))
  | _ => .next s

/-- VSCATC (R149): its elements go to their members in ascending order. -/
def execVscatc (f : RForm) (s : State) : Out :=
  issue (.vscatc f) (do
    vectorSources [srcA f, srcB f, srcC f] false 0
    let s ← get
    let c := s.turn.1
    let v := s.cur.vec
    if v.done = false then
      clusterVl (.vscatc f) v
      (indexSegs v).forM (readSegs s [f.b])
      (segRange v).forM (readSegs s [f.c])
      let as ← clusterAddrs (s.cur.srcValue s.turn.2 f.a) f.b true
      let ls := (as.filterMap (fun x => (clusterCore s c x.2).map (fun m => spLoc m (x.2 % 2 ^ 22))))
      modify (fixGathers c (fun l => ls.contains l))
      modify (fun s => s.modCore c (fun k =>
        let r := k.vreg f.c
        let es := as.filterMap (fun x => (clusterCore s c x.2).map (fun m =>
          (⟨m, x.2 % 2 ^ 22, v.w / 8, word (r.slot v.w x.1), (r.seg (x.1 / segSlots v.w)).tag⟩ : Scatter)))
        { k.note 4 (some .x) .u as.length with scatters := k.scatters ++ es }))
    endVector) s

/-! ### Slides, permutations, compression and expansion (R151 to R153) -/

/-- The source of an active slot (R151). -/
inductive SlotSrc where
  | none
  | scalar
  | slot (j : Nat)
deriving DecidableEq, Repr

/-- The tag of a source; none when there is none. -/
def srcTag (w : Nat) (r : VReg) (t : Tag) : SlotSrc → Option Tag
  | .none => Option.none
  | .scalar => some t
  | .slot j => some (r.seg (j / segSlots w)).tag

/-- The bits of a source. -/
def srcBits (w : Nat) (r : VReg) (x : Nat) : SlotSrc → Nat
  | .none => 0
  | .scalar => x
  | .slot j => r.slot w j

/-- The tag of one destination segment, or TAG_MIX (R151). -/
def mixTag (w g : Nat) (a : Code) (r : VReg) (t : Tag) (l : List SlotSrc) : Exec Tag := do
  let ts := l.filterMap (srcTag w r t)
  match ts with
  | [] => return (r.seg g).tag
  | t0 :: rest =>
    match rest.find? (fun x => x != t0) with
    | some x => throw (.trap .tagMix (tagTval x a g))
    | none => return t0

/-- The shared procedure of R151: every check, then every segment with an active slot. -/
def permuteInto (s0 : State) (f : RForm) (acts : List Nat) (src : Nat → SlotSrc) (scalar : Word) : Exec Unit := do
  let v := (← get).cur.vec
  let w := v.w
  let n := segSlots w
  let gs := (acts.map (fun i => i / n)).eraseDups
  gs.forM (fun g => ((acts.filter (fun i => i / n == g)).filterMap (fun i =>
    match src i with
    | .slot j => some (j / n)
    | _ => none)).eraseDups.forM (fun h => do
      laneCheck h f.a
      if v.vstart.toNat / n ≤ h then watchSeg s0 h f.a))
  let r := (← get).cur.vreg f.a
  let tags ← gs.mapM (fun g => do
    let t ← mixTag w g f.a r (elemTag scalar) ((acts.filter (fun i => i / n == g)).map src)
    return (g, t))
  modify (fun s => s.modCur (fun k =>
    let d0 := k.vreg f.d
    let d := tags.foldl (fun d x => d.putSeg x.1 (mergeSegBy w v.vl.toNat (fun i => acts.contains i) x.1 (d0.seg x.1) x.2
      (fun i => srcBits w r (elemSlot w scalar) (src i)))) d0
    (k.setVreg f.d d).note 4 (some .x) .u acts.length))

/-- The active slots of a slide: from VSTART to VL − 1 under the mask (R152). -/
def slideActs (k : Core) (mk : Bool) : List Nat :=
  (List.range k.vec.vl.toNat).filter (activeSlot k.vec (maskReg k mk))

/-- A slide (R152): its active slots and their sources from s[B]; with an inserted scalar, the checks of R135 first. -/
def slideOp (i : Instr) (f : RForm) (inserts : Bool) (acts : Nat → Nat → Bool) (src : Nat → Nat → Nat → SlotSrc)
    (s : State) : Out :=
  issue i (do
    vectorSources [srcA f, srcB f] (mfMk f.m) f.d
    readMask s.cur.vec (mfMk f.m)
    let x := s.cur.srcValue s.turn.2 f.b
    let v := s.cur.vec
    if v.done = false then
      let l := (slideActs s.cur (mfMk f.m)).filter (acts x.toNat)
      if inserts && !l.isEmpty then elemChecks (elemTag x) f.b v.w (l.headD 0 / segSlots v.w)
      permuteInto s f l (src x.toNat v.vl.toNat) x
    modify (fun s => s.modCur (fun k => k.popAll [srcB f]))
    endVector) s

/-- VSLIDE1UP (R152). -/
def execVslide1up (f : RForm) (s : State) : Out :=
  slideOp (.vslide1up f) f true (fun _ _ => true) (fun _ _ i => if i = 0 then .scalar else .slot (i - 1)) s
/-- VSLIDE1DN (R152). -/
def execVslide1dn (f : RForm) (s : State) : Out :=
  slideOp (.vslide1dn f) f true (fun _ _ => true) (fun _ vl i => if i + 1 < vl then .slot (i + 1) else .scalar) s
/-- VSLIDEUP (R152): slots below k are not active. -/
def execVslideup (f : RForm) (s : State) : Out :=
  slideOp (.vslideup f) f false (fun k i => decide (k ≤ i)) (fun k _ i => .slot (i - k)) s
/-- VSLIDEDN (R152). -/
def execVslidedn (f : RForm) (s : State) : Out :=
  slideOp (.vslidedn f) f false (fun _ _ => true) (fun k vl i => if i + k < vl then .slot (i + k) else .none) s

/-- A permutation of slots 0 to VL − 1 (R153), by the slots of B or its mask bits. -/
def permOp (i : Instr) (f : RForm) (bMask : Bool) (src : Nat → Nat → VReg → Nat → SlotSrc) (s : State) : Out :=
  issue i (do
    vectorSources [srcA f, srcB f] false f.d
    let v := s.cur.vec
    let n := if bMask then 512 else segSlots v.w
    (List.range ((v.vl.toNat + n - 1) / n)).forM (fun g => do
      laneCheck g f.b
      if v.vstart.toNat / n ≤ g then watchSeg s g f.b)
    let b := s.cur.vreg f.b
    permuteInto s f (List.range v.vl.toNat) (src v.w v.vl.toNat b) 0
    endVector) s

/-- VPERM (R153). -/
def execVperm (f : RForm) (s : State) : Out :=
  permOp (.vperm f) f false (fun w vl b i => if b.slot w i < vl then .slot (b.slot w i) else .none) s

/-- The slots below `vl` whose mask bit in B is set. -/
def setSlots (b : VReg) (vl : Nat) : List Nat := (List.range vl).filter b.maskBit

/-- VCMPRS (R153). -/
def execVcmprs (f : RForm) (s : State) : Out :=
  permOp (.vcmprs f) f true (fun _ vl b i => match (setSlots b vl)[i]? with
    | some j => .slot j
    | none => .none) s
/-- VEXPND (R153). -/
def execVexpnd (f : RForm) (s : State) : Out :=
  permOp (.vexpnd f) f true (fun _ _ b i => if b.maskBit i then .slot (setSlots b i).length else .none) s

/-! ### Reductions (R94 to R97, R154) -/

/-- VRSTATE: INT, STARTED, ACC (R95). -/
def vrstateOf (int started : Bool) (acc : Nat) : Word := word (b2n int * 2 ^ 33 + b2n started * 2 ^ 32 + acc % 2 ^ 32)

/-- Is the accumulation INT32 over active slots of A: every segment that holds one is INT32, and with none, every
segment of the range (R154)? -/
def redIsInt (v : Vec) (r : VReg) (acts : List Nat) (lo : Nat) : Bool :=
  let n := segSlots v.w
  let gs := if acts.isEmpty then (segRange v).filter (fun g => decide (lo / n ≤ g)) else acts.map (fun i => i / n)
  gs.all (fun g => tagFmt (r.seg g).tag == fmtInt32)

/-- The checks of one source segment of a reduction (R139, R154); those of the result's width are made at the segment `g0`
that VSTART named. -/
def redCheck (f : RForm) (lat : Tab (BitVec 16)) (isInt : Bool) (g0 g : Nat) : Exec Unit := do
  let s ← get
  let w := s.cur.vec.w
  let t := ((s.cur.vreg f.a).seg g).tag
  segChecks w g false [(f.a, t)]
  need (!(latticeLookup lat [tagFmt t]).forbid) .tagPair (tagTval t f.a g)
  if g = g0 ∧ (w = 8 ∨ (w = 16 ∧ isInt = true)) then
    throw (.trap .tagWidth (tagTval (if isInt then Config.tagInt32 else Config.tagFp32) f.d g0))
  if tagFmt t = fmtCb4 then bookCheck (tagScale t) f.ea f.a g

/-- The exact value of a slot of A. -/
def redValue (k : Core) (a : Code) (i : Nat) : Val :=
  let v := k.vec
  decodeSlot k v.fz ((k.vreg a).seg (i / segSlots v.w)).tag ((k.vreg a).slot v.w i)

/-- An FP32 encoding as a value. -/
def fp32Val (n : Nat) : Val := decodeFloat fmtFp32 n false

/-- One addition of an ordered sum: (STARTED, ACC), with its flags (R94). -/
def redStep (isInt : Bool) (rm : Rm) (fz : Bool) (x : Val) (st : Bool × Nat × BitVec 6) : Bool × Nat × BitVec 6 :=
  let (started, acc, fl) := st
  if isInt then (true, ((acc : Int) + x.toInt).emod (2 ^ 32) |>.toNat, fl)
  else if started then
    let (y, f1) := valAdd rm (fp32Val acc) x
    let (b, f2) := roundTo y fmtFp32 127 rm fz
    (true, b, fl ||| f1 ||| f2)
  else
    let (b, f2) := roundTo x fmtFp32 127 rm fz
    (true, b, fl ||| snanFlags [x] ||| f2)

/-- Write the result of a reduction to slot 0 of segment 0; VRSTATE and VSTART become 0 (R154). -/
def redResult (d : Code) (isInt : Bool) (rm : Rm) (acc : Nat) (fl : BitVec 6) : Exec Unit :=
  modify (fun s => s.modCur (fun k =>
    let v := k.vec
    let (tag, n, f2) : Tag × Nat × BitVec 6 :=
      if isInt then (Config.tagInt32, acc, 0)
      else if v.w = 16 then
        let (b, f2) := roundTo (fp32Val acc) fmtBf16 127 rm v.fz
        (Config.tagBf16, b, f2)
      else (Config.tagFp32, acc, 0)
    let k := (k.setVreg d ((k.vreg d).putSeg 0 ⟨BitVec.ofNat 512 n, tag⟩)).orFstat (fl ||| f2)
    { k with vec := { k.vec with vstart := 0, vrstate := 0 } }))

/-- One segment of the ordered sum (R94, R95). -/
def redOrdered (f : RForm) (lat : Tab (BitVec 16)) (isInt : Bool) (rm : Rm) (mk : Option VReg) (g0 g : Nat) : Exec Unit := do
  redCheck f lat isInt g0 g
  modify (fun s => s.modCur (fun k =>
    let v := k.vec
    let acts := activeIn v mk g
    let (st, acc, fl) := acts.foldl (fun st i => redStep isInt rm v.fz (redValue k f.a i) st)
      (bit v.vrstate 32, fld v.vrstate 0 32, 0)
    let k := (k.note 4 (some .x) .u acts.length).orFstat fl
    { k with vec := { k.vec with vrstate := vrstateOf isInt st acc,
                                 vstart := BitVec.ofNat 11 ((g + 1) * segSlots v.w) } }))

/-- Is an ordered sum INT32? A sum that has begun is what VRSTATE says once no active slot is left, and stays INT32 only over INT32
segments (R94, R95, R154). DESIGN CHOICE (log 27): one that goes on over other segments goes on in FP32, with the bits of ACC as they
are. -/
def redOrderedInt (v : Vec) (r : VReg) (acts : List Nat) : Bool :=
  let started := bit v.vrstate 32
  let int := bit v.vrstate 33
  if started && acts.isEmpty then int else redIsInt v r acts v.vstart.toNat && (!started || int)

/-- VREDSUM.O (R94, R154): from VSTART = 0 it ignores VRSTATE; a restart continues the sum. -/
def execVredsumO (f : RForm) (s : State) : Out :=
  issue (.vredsumO f) (do
    vectorSources [srcA f] (mfMk f.m) f.d
    readMask s.cur.vec (mfMk f.m)
    if s.cur.vec.done = false then bookWhole (do
      modify (fun s => s.modCur (fun k =>
        if k.vec.vstart = 0 then { k with vec := { k.vec with vrstate := 0 } } else k))
      let v := (← get).cur.vec
      let mk := maskReg s.cur (mfMk f.m)
      let acts := (List.range v.vl.toNat).filter (activeSlot v mk)
      let isInt := redOrderedInt v (s.cur.vreg f.a) acts
      let rm := rmFor v (mfRmo f.m)
      eachSegment s [f.a] (segRange v) (redOrdered f (latticeOf s) isInt rm mk (v.vstart.toNat / segSlots v.w))
      redResult f.d isInt rm (fld (← get).cur.vec.vrstate 0 32) 0)
    else endVector) s

/-- The tree over 2^n leaves from `lo`: none is ABSENT (R96). -/
def redTree (isInt : Bool) (rm : Rm) (fz : Bool) (x : Nat → Option Val) : Nat → Nat → Option (Nat × BitVec 6)
  | 0, lo => (x lo).map (fun v => (redStep isInt rm fz v (false, 0, 0)).2)
  | n + 1, lo =>
    match redTree isInt rm fz x n lo, redTree isInt rm fz x n (lo + 2 ^ n) with
    | none, b => b
    | a, none => a
    | some (a, fa), some (b, fb) =>
      if isInt then some ((a + b) % 2 ^ 32, fa ||| fb)
      else
        let (y, f1) := valAdd rm (fp32Val a) (fp32Val b)
        let (r, f2) := roundTo y fmtFp32 127 rm fz
        some (r, fa ||| fb ||| f1 ||| f2)

/-- The least n with m ≤ 2^n. -/
def log2Up (m : Nat) : Nat := if m ≤ 1 then 0 else Nat.log2 (m - 1) + 1

/-- The greatest or least of values, +0 above −0 (R97). -/
def redExtreme (greatest : Bool) : List Val → Val
  | [] => .zero false
  | x :: r => r.foldl (fun a b => (valMinMax greatest a b).1) x

/-- A reduction that starts from element 0 and writes at its end; no drain interrupts it (R96, R97, R154). -/
def redWhole (i : Instr) (f : RForm) (result : Bool → Rm → Bool → Nat → (Nat → Option Val) → Nat × BitVec 6) (s : State) : Out :=
  issue i (do
    vectorSources [srcA f] (mfMk f.m) f.d
    let v := s.cur.vec
    let v0 := { v with vstart := 0 }
    if v.done = false then
      readMask v0 (mfMk f.m)
      let mk := maskReg s.cur (mfMk f.m)
      let acts := (List.range v.vl.toNat).filter (activeSlot v0 mk)
      let isInt := redIsInt v0 (s.cur.vreg f.a) acts 0
      let rm := rmFor v (mfRmo f.m)
      bookWhole ((segRange v0).forM (fun g => inSegment g (do
        readSegs s [f.a] g
        redCheck f (latticeOf s) isInt (v.vstart.toNat / segSlots v.w) g)))
      let (acc, fl) := result isInt rm v.fz v.vl.toNat (fun i =>
        if activeSlot v0 mk i then some (redValue s.cur f.a i) else none)
      modify (fun s => s.modCur (fun k => k.note 4 (some .x) .u acts.length))
      redResult f.d isInt rm acc fl
    else endVector) s

/-- VREDSUM.T (R96). -/
def execVredsumT (f : RForm) (s : State) : Out :=
  redWhole (.vredsumT f) f (fun isInt rm fz vl x => (redTree isInt rm fz x (log2Up vl) 0).getD (0, 0)) s

/-- The greatest or least active value, encoded (R97). -/
def redPick (greatest isInt : Bool) (rm : Rm) (fz : Bool) (vl : Nat) (x : Nat → Option Val) : Nat × BitVec 6 :=
  let vs := (List.range vl).filterMap x
  let (b, fl) := roundTo (if vs.any Val.isNan then .nan false else redExtreme greatest vs)
    (if isInt then fmtInt32 else fmtFp32) 127 rm fz
  (b, fl ||| snanFlags vs)

/-- VREDMAX (R97). -/
def execVredmax (f : RForm) (s : State) : Out := redWhole (.vredmax f) f (redPick true) s
/-- VREDMIN (R97). -/
def execVredmin (f : RForm) (s : State) : Out := redWhole (.vredmin f) f (redPick false) s

/-! ### Conversion, retagging, scaling and quantisation (R155 to R158) -/

/-- A conversion: the result format from A's format, and the exact values that are rounded from the decoded ones, with
flags. -/
structure ConvOp where
  rf : Nat → Nat
  values : Rm → Bool → List Val → List (Val × BitVec 6)

/-- One segment of a conversion (R155, R157, R158). -/
def convSegment (op : ConvOp) (f : RForm) (rm : Rm) (mk : Option VReg) (g : Nat) : Exec Unit := do
  let s ← get
  let v := s.cur.vec
  let w := v.w
  let t := ((s.cur.vreg f.a).seg g).tag
  segChecks w g false [(f.a, t)]
  let rf := op.rf (tagFmt t)
  need (decide (fmtWidth rf ≤ w)) .tagWidth (tagTval (mkTag rf 0 127) f.d g)
  if tagFmt t = fmtCb4 then bookCheck (tagScale t) f.ea f.a g
  if rf = fmtCb4 then bookCheckTag 255 false t f.a g
  let act := activeIn v mk g
  let dec := act.map (fun i => decodeSlot s.cur v.fz t ((s.cur.vreg f.a).slot w i))
  let ys := op.values rm v.fz dec
  let k := if rf = fmtCb4 then 255 else scaleFor (ys.map (·.1)) rf
  writeResults mk g f.d rf k ((act.zip ys).map (fun x => (x.1, roundAny (bookOf s.cur) x.2.1 rf k rm v.fz)))
    (snanFlags dec ||| orFlags (ys.map (·.2)))

/-- A conversion instruction: its segments from SegmentOf(VSTART) (R155 to R158). DESIGN CHOICE (log 57): a conversion to
CB4 waits for slot 255 whatever EA is, since A does not supply that slot. -/
def convOp (i : Instr) (f : RForm) (l : List Src) (op : Word → ConvOp) (s : State) : Out :=
  issue i (do
    vectorSources (srcA f :: l) (mfMk f.m) f.d
    readMask s.cur.vec (mfMk f.m)
    let v := s.cur.vec
    let x := s.cur.srcValue s.turn.2 f.b
    bookWhole (eachSegment s [f.a] (segRange v) (convSegment (op x) f (rmFor v (mfRmo f.m)) (maskReg s.cur (mfMk f.m))))
    modify (fun s => s.modCur (fun k => k.popAll l))
    endVector) s

/-- VCVT (R155). -/
def execVcvt (f : RForm) (s : State) : Out :=
  convOp (.vcvt f) f [] (fun _ => ⟨fun _ => mfTov f.m, fun _ _ l => l.map (fun x => (x, 0))⟩) s

/-- The result format of VSCALE and VQNT without TOV: A's own, BF16 for CB4 (R157, R158). -/
def ownFmt (fa : Nat) : Nat := if fa = fmtCb4 then fmtBf16 else fa

/-- The power of VSCALE. Beyond 4,096 every value that is not zero leaves every format at every SCALE, and stands at
that bound. -/
def scalePow (x : Word) : Int := max (-4096) (min 4096 x.toInt)

/-- VSCALE (R157). -/
def execVscale (f : RForm) (s : State) : Out :=
  convOp (.vscale f) f [srcB f] (fun x =>
    ⟨fun fa => if mfTov f.m = 0 then ownFmt fa else mfTov f.m, fun _ _ l => l.map (fun v => (v.shift (scalePow x), 0))⟩) s

/-- The values of VQNT: rounded to the narrow format and decoded again (R158). -/
def quantise (q : Nat) (rm : Rm) (fz : Bool) (l : List Val) : List (Val × BitVec 6) :=
  let kq := scaleFor l q
  l.map (fun x =>
    let (b, fl) := roundTo x q kq rm fz
    (decodeElem (fun _ _ => 0) b (mkTag q 0 kq) false, fl))

/-- VQNT (R158). -/
def execVqnt (f : RForm) (s : State) : Out :=
  convOp (.vqnt f) f [] (fun _ => ⟨ownFmt, fun rm fz l => quantise (mfTov f.m) rm fz l⟩) s

/-- VRETAG (R156). DESIGN CHOICE (log 57): a trap of the check of t leaves VSTART, whichever segment TVAL names, as in VBCAST. -/
def execVretag (f : RForm) (s : State) : Out :=
  issue (.vretag f) (do
    vectorSources [srcA f, srcB f] (mfMk f.m) f.d
    readMask s.cur.vec (mfMk f.m)
    let v := s.cur.vec
    let t : Tag := (s.cur.srcValue s.turn.2 f.b).setWidth 16
    let mk := maskReg s.cur (mfMk f.m)
    match (segRange v).filter (fun g => (activeIn v mk g).isEmpty = false) with
    | [] => pure ()
    | g :: _ => elemChecks t f.b v.w g
    eachSegment s [f.a] (segRange v) (fun g => do
      let k := (← get).cur
      classCheck g f.a ((k.vreg f.a).seg g).tag
      writeSlots mk g f.d t (fun i => (k.vreg f.a).slot v.w i % 2 ^ lineWidth t v.w))
    modify (fun s => s.modCur (fun k => k.popAll [srcB f]))
    endVector) s

/-! ### Codebook expansion (R159, R161) -/

/-- The bits of a register as one stream (R78). -/
def VReg.stream (r : VReg) (b n : Nat) : Nat :=
  ((List.range n).map (fun j => b2n ((r.seg ((b + j) / 512)).bits.getLsbD ((b + j) % 512)) * 2 ^ j)).sum

/-- The segments of a register that an expansion writes, with flags (R159, R161). -/
def vdeqInto (k : Core) (r : VReg) (slot : Nat) (codes : List (Nat × Nat)) (tov w vl : Nat) (rm : Rm) (fz : Bool) :
    VReg × BitVec 6 :=
  let n := segSlots w
  let b := k.bookSlot slot
  let rf := if tov = 0 then fmtBf16 else tov
  ((codes.map (fun e => e.1 / n)).eraseDups).foldl (fun (r, fl) g =>
    let mine := codes.filter (fun e => e.1 / n == g)
    let put := fun (tag : Tag) (res : List (Nat × Nat)) =>
      r.putSeg g (mergeSegBy w vl (fun i => (mine.map (·.1)).contains i) g (r.seg g) tag (fun i => tabGet 0 res i))
    if b.vclass ≠ 0 then (put (mkTag rf b.vclass.toNat 127) [], fl)
    else if tov = 0 then (put Config.tagBf16 (mine.map (fun e => (e.1, bookOf k slot e.2))), fl)
    else
      let xs := mine.map (fun e => (e.1, decodeFloat fmtBf16 (bookOf k slot e.2) fz))
      let sc := scaleFor (xs.map (·.2)) rf
      let rs := xs.map (fun e => (e.1, roundTo e.2 rf sc rm fz))
      (put (mkTag rf 0 sc) (rs.map (fun e => (e.1, e.2.1))),
        fl ||| snanFlags (xs.map (·.2)) ||| orFlags (rs.map (fun e => e.2.2)))) (r, 0)

/-- RM as a number, for a producer. -/
def Rm.code : Rm → Nat
  | .rne => 0 | .rtz => 1 | .rdn => 2 | .rup => 3

/-- The checks of VDEQ and its codes (R159). DESIGN CHOICE (log 57): TVAL of a result wider than W names SegmentOf(VSTART). -/
def vdeqChecks (s0 : State) (f : RForm) (b cw : Word) (mk : Option VReg) : Exec (List (Nat × Nat)) := do
  let k := (← get).cur
  let v := k.vec
  let c := if bit cw 8 then 4 else 3
  let e := b.toNat + c * v.vl.toNat
  need (decide (e ≤ k.vlenb * 8)) .bound (word e)
  let acts := (List.range v.vl.toNat).filter (activeSlot v mk)
  let segs := (List.range 16).filter (fun g => acts.any (fun i =>
    decide ((b.toNat + c * i) / 512 ≤ g) && decide (g ≤ (b.toNat + c * i + c - 1) / 512)))
  segs.forM (fun g => do
    readSegs s0 [f.a] g
    let t := (((← get).cur.vreg f.a).seg g).tag
    classCheck g f.a t
    need (tagFmt t == fmtRaw) .tagFmt (tagTval t f.a g))
  let rf := if mfTov f.m = 0 then fmtBf16 else mfTov f.m
  need (decide (fmtWidth rf ≤ v.w)) .tagWidth (tagTval (mkTag rf 0 127) f.d (v.vstart.toNat / segSlots v.w))
  let slot := fld cw 0 8
  let st := (k.bookSlot slot).state
  need (decide (st ≠ .unloaded) && !(decide (st = .pending) && f.ea)) .emptyRead (word (0x100 + slot))
  return acts.map (fun i => (i, (k.vreg f.a).stream (b.toNat + c * i) c))

/-- VDEQ (R159). -/
def execVdeq (f : RForm) (s : State) : Out :=
  issue (.vdeq f) (do
    vectorSources [srcA f, srcB f, srcC f] (mfMk f.m) f.d
    readMask s.cur.vec (mfMk f.m)
    let v := s.cur.vec
    if v.done = false then
      let cw := s.cur.srcValue s.turn.2 f.c
      let codes ← vdeqChecks s f (s.cur.srcValue s.turn.2 f.b) cw (maskReg s.cur (mfMk f.m))
      let slot := fld cw 0 8
      let rm := rmFor v (mfRmo f.m)
      modify (fun s => s.modCur (fun k =>
        let k := k.note 4 (some .x) .u codes.length
        if (k.bookSlot slot).state = .pending then
          { k.setVreg f.d { k.vreg f.d with empty := true } with
            producers := k.producers ++ [.vdeq f.d.toNat slot codes (mfTov f.m) v.w v.vl.toNat rm.code v.fz] }
        else
          let (r, fl) := vdeqInto k (k.vreg f.d) slot codes (mfTov f.m) v.w v.vl.toNat rm v.fz
          (k.setVreg f.d r).orFstat fl))
    modify (fun s => s.modCur (fun k => k.popAll [srcB f, srcC f]))
    endVector) s

/-- The expansions that wait for a slot which has become FULL: each writes its register and marks it full (R159). -/
def finishVdeqs (slot : Nat) (k : Core) : Core :=
  k.producers.foldl (fun k p =>
    match p with
    | .vdeq reg sl codes tov w vl rm fz =>
      if sl = slot then
        let d : Code := BitVec.ofNat 8 reg
        let (r, fl) := vdeqInto k (k.vreg d) slot codes tov w vl (rmOf rm) fz
        { (k.fillVreg d r).orFstat fl with producers := k.producers.erase p }
      else k
    | _ => k) k

end Sys2Proof.Machine
end

