-- ==== Sys2Proof/Machine/Matrix.lean ====
section
/-! DEFINITION. Machine/Matrix.lean: the matrix instructions and CPYM: the checks at issue and the placing of
commands and shares (R187 to R199, R244). -/

namespace Sys2Proof.Machine

/-! ### Checks at issue (R189) -/

/-- Row 3 of R189: tiles named are among the declared ones. -/
def needTiles (codes : List Code) : Exec Unit := do
  let n := (← get).cur.placeD.tiles
  codes.forM (fun c => need (decide (tileNo c < n)) .residency (word c.toNat))

/-- The rules of a matrix descriptor (R188): `.g`, and MMAG. -/
def descOk (gather ganged : Bool) (d : Word) : Bool :=
  (fld d 60 4 == 0 && fld d 45 1 == 0 && fld d 20 4 == 0 && fld d 13 3 == 0) &&
  (descK d % 128 == 0 && decide (128 ≤ descK d) && decide (descK d ≤ 4096)) &&
  (if ganged then descMask d != 0 else descMask d == 0 && descBar d == 0) &&
  (if gather then decide (1 ≤ descH d) && decide (descH d ≤ 4096) else descH d == 0 && descIdx d == 0)

/-- An address that is a multiple of 64 and local (rows 5 of R189). -/
def localOperand (a : Word) : Exec Unit := do
  alignedTo 64 a
  need (decide (a.toNat < Config.spBytes)) .bound a

/-- Rows 4 and 5 of R189 for a product. -/
def productChecks (gather ganged : Bool) (a b d : Word) : Exec Unit := do
  need (descOk gather ganged d) .illegal d
  localOperand a
  alignedTo 64 b
  need (decide (b.toNat ≤ 0x1FFFFFF)) .bound b

/-- Bytes of a tile in scratchpad (R195). -/
def tileBytes : Nat := 65536

/-- Rows 5 and 6 of R189 for MST and MLDACC. The bytes that MST writes are watched; a read of the engine is not (R346). -/
def tileWindow (store : Bool) (a : Word) : Exec Unit := do
  if store then watchAddr 1 true a.toNat tileBytes
  localOperand a
  need (decide (a.toNat + tileBytes ≤ Config.spBytes)) .bound a
  if store then need (decide (a.toNat + tileBytes ≤ (← get).cur.placeD.spBytes)) .residency a

/-- The gang-relative indices that a descriptor names, lowest first (R188). -/
def partnerIdx (k : Core) (d : Word) : List Nat :=
  ((List.range 8).filter (fun f => bit d (24 + f))).map (fun f => k.placeD.gidx / 8 * 8 + f)

/-- May a member be a partner: below GSIZE, not ended in both streams, and not frozen (row 7 of R189)? -/
def partnerOk (s : State) (idx : Nat) : Bool :=
  decide (idx < s.cur.placeD.gsize) &&
    (match memberCore s s.turn.1 idx with
     | none => false
     | some c =>
       let k := s.core c
       !(k.a.ended && k.x.ended) && k.a.frozen.isNone && k.x.frozen.isNone)

/-- Row 7 of R189. -/
def partnersCheck (d : Word) : Exec Unit := do
  let s ← get
  match (partnerIdx s.cur d).find? (fun i => !partnerOk s i) with
  | some i => throw (.trap .partner (word i))
  | none => pure ()

/-- The cores that a descriptor names as partners. -/
def partnerCores (s : State) (d : Word) : List Nat := (partnerIdx s.cur d).filterMap (memberCore s s.turn.1)

/-- Row 8 of R189: halted by a share fault, the engine takes X's command only at the head of its own queue. -/
def shareCheck (own : Bool) : Exec Unit := do
  let s ← get
  match s.cur.shareHalt with
  | some b => if own && s.turn.2 == .x then pure () else throw (.trap .partner (word b))
  | none => pure ()

/-! ### Placing commands (R184, R189, R190, R198) -/

/-- Has a core's engine queue a free entry? -/
def Core.matFree (k : Core) : Bool := decide (k.mat.queue.length < Config.matrixQueue)

/-- The share fault that X's next command answers, when X has not issued one yet (R198). -/
def Core.openShareHalt (k : Core) : Option EngineHalt :=
  match k.mat.halt with
  | some h => if h.share.isSome && !h.resumed then some h else none
  | none => none

/-- Has a core's engine queue a place for a command of its own X stream: a free entry, or that of the faulted share at the
head (R189, R198)? -/
def Core.matFreeOwn (k : Core) : Bool := k.matFree || k.openShareHalt.isSome

/-- A command enters a core's queue; X's own command after a share fault takes the head from the faulted share and ends the
halt (R198). A fault that X has still to take keeps the engine halted until X has taken it (R355, log 50). -/
def enqueueMat (c : Nat) (own : Bool) (m : MatCmd) (s : State) : State :=
  s.modCore c (fun k =>
    match k.openShareHalt with
    | some h =>
      if own then { k with mat := { k.mat with
        queue := m :: k.mat.queue.drop 1, halt := if h.delivered then none else some { h with resumed := true } } }
      else { k with mat := { k.mat with queue := k.mat.queue ++ [m] } }
    | none => { k with mat := { k.mat with queue := k.mat.queue ++ [m] } })

/-- A command of the current core: its number, word and values, without the queue. -/
def newCommand (s : State) (w a b d : Word) (after : Option Word) : MatCmd :=
  ⟨w, a, b, d, s.cur.mat.mnext + 1, none, after, latticeOf s, false, none, none, 0, false⟩

/-- The next MNEXT value is taken (R28). -/
def takeMnext (s : State) : State := s.modCur (fun k => { k with mat := { k.mat with mnext := k.mat.mnext + 1 } })

/-- A command of this core is queued (R189, R190). -/
def queueOwn (m : MatCmd) (s : State) : State := takeMnext (enqueueMat s.turn.1 true m s)

/-- A number for a new ganged product of a gang. -/
def gangedNum (l : List Ganged) : Nat := l.foldl (fun n z => Nat.max n (z.num + 1)) 0

/-- A gang takes note of a ganged product; a job whose gang is not listed gets it listed. -/
def Guest.addGanged (x : Guest) (pl : Place) (z : Ganged) : Guest :=
  match gangOf x pl.job with
  | some y => x.setGang { y with ganged := y.ganged ++ [z] }
  | none => { x with gangs := x.gangs ++ [⟨pl.job, pl.gsize, [], [z]⟩] }

/-- The shares of an MMAG are placed, one in each partner's queue (R184). -/
def queueShares (m : MatCmd) (s : State) : State :=
  let c := s.turn.1
  let g := s.guestOf c
  let pl := s.cur.placeD
  let cs := partnerCores s m.cv
  let num := gangedNum (((gangOf (s.guest g) pl.job).map Gang.ganged).getD [])
  let idx0 := cs.map (fun p => (s.core p).placeD.gidx0)
  let z : Ganged := ⟨num, pl.gidx0, m.seqn, descBar m.cv, idx0, idx0, []⟩
  let s := s.modGuest g (fun x => x.addGanged pl z)
  takeMnext (cs.foldl (fun s p => enqueueMat p (p == c) { m with share := some (num, pl.gidx0) } s) s)

/-- The wait of a product at issue: a free entry in its queue, or in every partner's (R184, R189), where no completion
count of the barrier is full (R290). -/
def waitMatQueue (ganged : Bool) (d : Word) : Exec Unit := do
  let s ← get
  if ganged then
    waitFor ((partnerCores s d).all (fun p =>
      (if p = s.turn.1 then (s.core p).matFreeOwn else (s.core p).matFree) &&
        decide (((s.core p).bar (descBar d)).done < 65535))) .engine
  else waitFor s.cur.matFreeOwn .engine

/-- Rows 3 to 8 of R189 for a product whose sources are read. -/
def productIssue (f : RForm) (gather ganged : Bool) (vs : List Word) (chain : Bool) : Exec Unit := do
  needTiles [f.d]
  productChecks gather ganged (w0 vs) (w1 vs) (w2 vs)
  if ganged then partnersCheck (w2 vs)
  let s ← get
  shareCheck (!chain && (!ganged || (partnerCores s (w2 vs)).contains s.turn.1))

/-- Place a product: alone, or as shares. -/
def placeProduct (ganged : Bool) (m : MatCmd) (s : State) : State := if ganged then queueShares m s else queueOwn m s

/-- MMA and MMAG with their `.g` forms (R189, R192, R193). -/
def mmaOp (i : Instr) (f : RForm) (gather ganged : Bool) (s : State) : Out :=
  issue i (do
    let vs ← readSources [srcA f, srcB f, srcC f]
    productIssue f gather ganged vs false
    waitMatQueue ganged (w2 vs)
    modify (fun s => placeProduct ganged (newCommand s (firstWord i) (w0 vs) (w1 vs) (w2 vs) none) s)) s

/-- MMA (R192). -/
def execMma (f : RForm) (s : State) : Out := mmaOp (.mma f) f false false s
/-- MMA.g (R192). -/
def execMmaG (f : RForm) (s : State) : Out := mmaOp (.mmaG f) f true false s
/-- MMAG (R193). -/
def execMmag (f : RForm) (s : State) : Out := mmaOp (.mmag f) f false true s
/-- MMAG.g (R193). -/
def execMmagG (f : RForm) (s : State) : Out := mmaOp (.mmagG f) f true true s

/-! ### Single-step commands (R190, R191, R195) -/

/-- A single-step command is queued. -/
def queueSingle (i : Instr) (a b : Word) : Exec Unit := do
  shareCheck true
  waitFor (← get).cur.matFreeOwn .engine
  modify (fun s => queueOwn (newCommand s (firstWord i) a b 0 none) s)

/-- MZERO (R191). -/
def execMzero (f : RForm) (s : State) : Out :=
  issue (.mzero f) (do
    needTiles [f.d]
    queueSingle (.mzero f) 0 0) s

/-- MST (R195). -/
def execMst (f : RForm) (s : State) : Out :=
  issue (.mst f) (do
    let vs ← readSources [srcB f]
    needTiles [f.a]
    tileWindow true (w0 vs)
    queueSingle (.mst f) 0 (w0 vs)) s

/-- MLDACC (R195). -/
def execMldacc (f : RForm) (s : State) : Out :=
  issue (.mldacc f) (do
    let vs ← readSources [srcA f]
    needTiles [f.d]
    tileWindow false (w0 vs)
    queueSingle (.mldacc f) (w0 vs) 0) s

/-- MADD (R195). -/
def execMadd (f : RForm) (s : State) : Out :=
  issue (.madd f) (do
    needTiles [f.d, f.a, f.b]
    queueSingle (.madd f) 0 0) s

/-! ### MACC, MWAIT, MSTAT (R196, R199) -/

/-- The tiles that a command names: D, and the accumulators among A and B. -/
def MatCmd.tilesNamed (m : MatCmd) : List Nat :=
  ([m.form.d, m.form.a, m.form.b].filter codeIsAcc).map tileNo

/-- Segment `g` of a tile row: columns 16 g to 16 g + 15; a poisoned granule gives zeros and POISON (R196, R372). -/
def rowSegment (t : Tile) (row : List Nat) (r g : Nat) : Segment :=
  let tag := kindTag t.kind
  if 8 * r + g ∈ t.poison then ⟨0, mkTag (tagFmt tag) 2 (tagScale tag)⟩
  else ⟨packSlots 32 ((row.drop (16 * g)).take 16), tag⟩

/-- The eight segments of a tile row. -/
def rowSegments (t : Tile) (r : Nat) : List Segment :=
  let row := (List.range 128).map (fun c => (tabGet 0 t.elems (128 * r + c)).toNat)
  (List.range 8).map (rowSegment t row r)

/-- MACC (R196). -/
def execMacc (f : RForm) (s : State) : Out :=
  issue (.macc f) (do
    let vs ← readSources [srcB f]
    needTiles [f.a]
    need (decide ((w0 vs).toNat ≤ 127)) .illegal (w0 vs)
    let s ← get
    Exec.ofExcept (vdestWait s.cur .x f.d)
    waitFor (s.cur.mat.queue.all (fun m => !(m.tilesNamed.contains (tileNo f.a)))) .engine
    let t := s.cur.tile (tileNo f.a)
    need (s.cur.vec.w == 32) .tagWidth (tagTval (kindTag t.kind) f.a 0)
    modify (fun s => s.modCur (fun k =>
      let k := k.popAll [srcB f]
      { k.setVreg f.d { k.vreg f.d with empty := true } with
        producers := k.producers ++ [.macc f.d.toNat (rowSegments t (w0 vs).toNat)] }))
    endVector) s

/-- MACC_ROW_WRITE (R196): the row reaches segments 0 to 7 of the register, which becomes full. -/
def execMaccRowWrite (core n : Nat) (s : State) : Out :=
  let k := s.core core
  match k.producers[n]? with
  | some (.macc reg segs) =>
    let d : Code := BitVec.ofNat 8 reg
    let r := (List.range 8).foldl (fun (r : VReg) g => r.putSeg g (segs.getD g ⟨0, Config.tagRaw⟩)) (k.vreg d)
    .next (s.setCore core ({ k with producers := k.producers.eraseIdx n }.fillVreg d { r with count := Nat.max r.count 512 }))
  | _ => .next s

/-- MWAIT (R199). -/
def execMwait (f : RForm) (s : State) : Out :=
  issue (.mwait f) (do
    let k := (← get).cur
    shareCheck false
    waitFor (decide (k.mat.mseq = k.mat.mnext)) .engine) s

/-- The result of MSTAT (R199). -/
def mstatWord (k : Core) : Word :=
  let m := k.mat
  let (cause, tile, halt) := match m.halt with
    | none => (0, 0, 0)
    | some h => (h.cause.code, h.tile, if h.share.isSome then 2 else 1)
  word (b2n m.gdone * 2 ^ 63 + b2n (m.gstatus.getLsbD 7) * 2 ^ 62 + m.gstatus.toNat % 64 * 2 ^ 56 +
    m.gbar.toNat * 2 ^ 52 + cause % 256 * 2 ^ 36 + m.queue.length % 16 * 2 ^ 32 + tile % 64 * 2 ^ 24 + halt * 2 ^ 10 +
    k.units.munits % 8 * 2 ^ 7 + m.step.toNat)

/-- MSTAT (R199). -/
def execMstat (f : RForm) (s : State) : Out :=
  issue (.mstat f) (do
    destWait f.d
    let k := (← get).cur
    finishScalar [] f.d (mstatWord k)) s

/-! ### CPYM (R244) -/

/-- CPYM (R45, R244): the check of the second word, the checks of CPY, those of R189 for the chained command, both queues,
and both numbers. -/
def execCpym (f : LForm) (s : State) : Out :=
  issue (.cpym f) (do
    let w := f.imm64
    need (chainedOk w) .illegal w
    let r := RForm.ofWord w
    let ganged := wordOp w == 0xA2
    let vs ← readSources [⟨f.d, false⟩, ⟨f.a, f.ea⟩]
    let c ← copyChecks (w1 vs) (w0 vs) (f.imm.setWidth 64) false
    let ms ← readSources [srcA r, srcB r, srcC r]
    productIssue r (wordX w == 1) ganged ms true
    waitFor (!(← get).cur.copyFull) .engine
    waitMatQueue ganged (w2 ms)
    modify (fun s =>
      let s := s.modCur (fun k => k.queueCopy c)
      placeProduct ganged (newCommand s w (w0 ms) (w1 ms) (w2 ms) (some s.cur.copy.cnext)) s)) s

end Sys2Proof.Machine
end

