-- ==== Sys2Proof/Machine/Timetable.lean ====
section
/-! DEFINITION. Machine/Timetable.lean: where a gang can be placed (R305). -/

namespace Sys2Proof.Machine

/-! ### Placement (R305) -/

/-- The cores of a stack that are free, by position. -/
def freeIn (free : List Nat) (st : Nat) : List Nat := ((List.range 8).map (fun p => 8 * st + p)).filter (fun c => free.contains c)

/-- The cores that a gang of `n` takes, in GIDX order, none when it cannot be placed (R305). -/
def choosePlace (free : List Nat) (n : Nat) : Option (List Nat) :=
  if n ≤ 8 then
    (((List.range 8).map (freeIn free)).find? (fun l => decide (n ≤ l.length))).map (fun l => l.take n)
  else
    let whole := (List.range 8).filter (fun st => (freeIn free st).length == 8)
    if n / 8 ≤ whole.length then some ((whole.take (n / 8)).flatMap (fun st => freeIn free st)) else none

/-- Can some row of a table place a gang of `n` for a guest (R301, R307)? -/
def someRowPlaces (t : Timetable) (g n : Nat) : Bool :=
  (List.range (t.lastRow + 1)).any (fun r => (choosePlace (rowCores t.rows r g) n).isSome)

end Sys2Proof.Machine
end

