-- ==== Sys2Proof/Machine/Context.lean ====
section
/-! DEFINITION. Machine/Context.lean: the bytes of a saved context in the guest's save region (R320, R321, R358 to
R361). -/

namespace Sys2Proof.Machine

/-- Bytes of a context: offset, number of bytes, value. -/
abbrev Chunk := Nat × Nat × Nat

/-- Double words from an offset. -/
def dwords (off : Nat) (l : List Nat) : List Chunk := l.zipIdx.map (fun x => (off + 8 * x.2, 8, x.1 % 2 ^ 64))

/-- A bit of a field. -/
def flagAt (b : Bool) (i : Nat) : Nat := b2n b * 2 ^ i

/-- HEADER.STATE (R361). -/
def ctxState (k : Core) : Nat :=
  flagAt k.a.ended 0 + flagAt k.x.ended 1 + flagAt (decide (k.a.level = .s)) 2 + flagAt (decide (k.x.level = .s)) 3 +
  flagAt k.a.frozen.isSome 4 + flagAt k.x.frozen.isSome 5 + flagAt k.copy.frozen.isSome 6 + flagAt k.a.halted 7 +
  flagAt k.x.halted 8 + flagAt k.mat.halt.isSome 9 + flagAt k.copy.halt.isSome 10 + flagAt k.arrival.isSome 11 +
  flagAt k.a.barArrived 12 + flagAt k.x.barArrived 13

/-- HEADER.SPLITS: depth, log2 of the parts of each level, and for each level the parent's GIDX in 6 bits and its GSIZE less 1
in the next 6, the outermost first (R361; the packing of the parents is the model's, log 37). -/
def ctxSplits (p : Place) : Nat :=
  let l := p.splits.reverse
  let sizes := l.map Split.gsize ++ [p.gsize]
  l.length % 8 + (l.zipIdx.map (fun x =>
    (Nat.log2 (sizes.getD x.2 1 / Nat.max 1 (sizes.getD (x.2 + 1) 1))) * 2 ^ (3 + 3 * x.2) % 2 ^ 16 +
    (x.1.gidx % 64 + (x.1.gsize - 1) % 64 * 64) * 2 ^ (16 + 12 * x.2))).sum % 2 ^ 64

/-- The unanswered violation of a core (R361). -/
def ctxViol (k : Core) : Nat :=
  match k.a.frozen.or (k.x.frozen.or k.copy.frozen) with
  | some q => 2 ^ 63 + q % 2 ^ 32
  | none => 0

/-- The unanswered page fault of a core, with the answer held (R361). -/
def ctxFault (k : Core) : Nat :=
  match k.a.pfault.or k.x.pfault with
  | some f => 2 ^ 63 + (match f.answer with | none => 0 | some false => 1 | some true => 2) * 2 ^ 32 + f.seq % 2 ^ 32
  | none =>
    match k.copy.halt.bind EngineHalt.pool with
    | some q => 2 ^ 63 + q % 2 ^ 32
    | none => 0

/-- The kind of a tile as TKIND codes it (R361). -/
def TileKind.code : TileKind → Nat
  | .none => 0 | .fp32 => 1 | .int32 => 2

/-- The writes to a scratchpad, known by number `own`, that have performed and not been folded into it, in line order. -/
def ctxWrites (s : State) (own : Nat) : List WriteRec := s.writes.filter (fun r => decide (r.loc.space = .sp own) && r.performed)

/-- The granules of a scratchpad that have been written since job start (R359). -/
def ctxDirty (s : State) (own : Nat) (k : Core) : List Nat :=
  (ctxWrites s own).foldl (fun l r => listAdd l (r.loc.line / 64)) k.dirty

/-- HEADER (R361). -/
def ctxHeader (k : Core) (dirty : List Nat) : List Chunk :=
  let p := k.placeD
  dwords 0 [1, ctxState k, p.gidx + p.gsize * 2 ^ 8 + p.job.gnum * 2 ^ 32, p.argp.toNat,
    p.job.queue * 2 ^ 56 + p.job.seq % 2 ^ 56, p.spBytes + p.tiles * 2 ^ 24, ctxSplits p,
    k.a.phCount % 2 ^ 32 + k.x.phCount * 2 ^ 32, k.a.rdvCount % 2 ^ 32 + k.x.rdvCount * 2 ^ 32] ++
  [(0x48, 16, ((List.range 48).map (fun i => (k.tile i).kind.code * 2 ^ (2 * i))).sum)] ++
  dwords 0x58 [ctxViol k, ctxFault k, k.copy.cnext.toNat, k.copy.cseq.toNat, k.mat.mnext.toNat, k.mat.mseq.toNat,
    b2n k.a.evf + 2 * b2n k.x.evf] ++
  (List.range 16).map (fun b =>
    let x := k.bar b
    (0x90 + 5 * b, 5, x.arr.toNat + x.done.toNat * 2 ^ 16 + x.stat.toNat * 2 ^ 32)) ++
  [(0x100, 128, (dirty.map (fun g => 2 ^ (g % 1024))).sum)] ++
  dwords 0x180 ((List.range 16).map (fun n => (tabGet 0 k.pmc n).toNat))

/-- AREA_A or AREA_X without VSTATE (R361). -/
def ctxStream (off : Nat) (st : Stream) : List Chunk :=
  dwords off ((List.range 64).map (fun i => (st.reg (BitVec.ofNat 8 i)).toNat)) ++
  dwords (off + 0x200) [2 ^ 64 - 1, ((List.range 16).map (fun i => flagAt (st.pred (BitVec.ofNat 8 (0xD0 + i))) i)).sum,
    st.pc.toNat, st.tcause.toNat, st.tval.toNat, st.tpc.toNat, st.tstat.toNat] ++
  dwords (off + 0x238) ((List.range 16).map (fun i => (tabGet 0 st.wayf i).toNat))

/-- VSTATE of AREA_X, and the zeros of AREA_A's (R361). -/
def ctxVstate (k : Core) : List Chunk :=
  dwords 0x6B8 (List.replicate 7 0) ++
  dwords 0xAB8 [k.vec.vl.toNat, k.vec.vtype.toNat, k.vec.vstart.toNat, k.vec.vrstate.toNat, k.vec.fstat.toNat,
    k.mat.step.toNat, 2 ^ 32 - 1]

/-- CQ, CSTATE, MQ and MSTATE (R361). -/
def ctxEngines (k : Core) : List Chunk :=
  (k.copy.queue.zipIdx.flatMap (fun c => dwords (0xC00 + 32 * c.2) [c.1.src.toNat, c.1.dst.toNat, c.1.lines, c.1.seqn.toNat])) ++
  dwords 0xE00 [k.copy.prog, b2n k.copy.halt.isSome, (k.copy.halt.map (fun h => h.cause.code)).getD 0,
    (k.copy.halt.map (fun h => h.tval.toNat)).getD 0] ++
  (k.mat.queue.zipIdx.flatMap (fun m => dwords (0xE20 + 40 * m.2) [m.1.word.toNat, m.1.av.toNat, m.1.bv.toNat, m.1.cv.toNat,
    (match m.1.share with | some (_, l) => l | none => m.1.seqn.toNat)])) ++
  dwords 0xF60 [(mstatWord k).toNat, (k.mat.halt.map (fun h => h.tval.toNat)).getD 0]

/-- Every pin of the core: those of the stream slots, in slot order, and then those of the copy commands, oldest first. -/
def ctxPins (k : Core) : List Xlat := k.slots.flatMap (fun e => e.2.pins) ++ k.copy.queue.flatMap (fun c => c.pins)

/-- SLOTS, the idle ones as zeros, and PINS (R361; the packing of a pin is the model's: the GVA with the size, the GPA with
class and policy, log 37). -/
def ctxSlots (k : Core) : List Chunk :=
  ((List.range 16).flatMap (fun i =>
    dwords (0x1000 + 64 * i) (match tabFind k.slots i with
      | none => List.replicate 8 0
      | some x =>
        let first := ((k.slots.takeWhile (fun y => y.1 != i)).map (fun y => y.2.pins.length)).sum
        [x.queue.toNat, x.instr.toNat, x.base.toNat, x.step.toNat, x.count, x.next, first, x.pins.length]))) ++
  (List.range 256).flatMap (fun i =>
    dwords (0x1400 + 16 * i) (match (ctxPins k)[i]? with
      | none => [0, 0]
      | some p => [p.gva + Nat.log2 p.size, p.gpa + fld p.leaf 5 5]))

/-- PBSTATE of a slot (R361). -/
def bookByte (x : BookSlot) : Nat := (if x.state = .full then 2 else 0) + 4 * x.vclass.toNat

/-- PBOOK and PBSTATE (R361). -/
def ctxBook (k : Core) : List Chunk :=
  (List.range 256).map (fun i => (0x2400 + 32 * i, 32, (k.bookSlot i).entries.toNat)) ++
    (List.range 256).map (fun i => (0x4400 + i, 1, bookByte (k.bookSlot i)))

/-- VTAGS, VCOUNT and VDATA up to each register's count (R359, R361). -/
def ctxVectors (k : Core) : List Chunk :=
  (List.range 32).flatMap (fun n =>
    let r : VReg := tabGet ⟨[], 0, false, []⟩ k.vec.v n
    (0x4900 + 2 * n, 2, r.count) :: (List.range (r.count / 64)).flatMap (fun g =>
      let x : Segment := tabGet ⟨0, Config.tagRaw⟩ r.segs g
      [(0x4500 + 32 * n + 2 * g, 2, x.tag.toNat), (0xE000 + 1024 * n + 64 * g, 64, x.bits.toNat)]))

/-- QMETA, QCOUNT and QDATA (R361). -/
def ctxQueues (k : Core) : List Chunk :=
  (List.range 8).flatMap (fun m =>
    let l : List QEntry := tabGet [] k.q m
    (0x5200 + 8 * m, 8, l.length) :: l.zipIdx.flatMap (fun e =>
      [(0x4A00 + 4 * (64 * m + e.2), 3, e.1.tag.toNat + b2n e.1.mark * 2 ^ 16), (0x6000 + 64 * (64 * m + e.2), 64, e.1.bits.toNat)]))

/-- The lines of a context with their tags: tiles as MST lines, and the dirty granules of the scratchpad (R359, R361,
R372). -/
def ctxLines (s : State) (own : Nat) (k : Core) (limit : Nat) : List (Nat × LineImg) :=
  ((List.range (Nat.min limit k.placeD.tiles)).flatMap (fun t =>
    let x := k.tile t
    if x.kind = .none then []
    else
      let rows := x.rows
      (List.range 1024).map (fun n =>
        let (b, tag) := tileLine rows x n
        (0x18000 + 65536 * t + 64 * n, ⟨b, tag, false⟩)))) ++
  ((ctxDirty s own k).flatMap (fun g => (List.range 64).map (fun j =>
    let l := 64 * g + j
    (0x18000 + 65536 * limit + 64 * l,
     ((ctxWrites s own).filter (fun r => decide (r.loc.line = l))).foldl (fun i r => applyRec (writerBook s r) i r)
       ⟨BitVec.ofNat 512 (memRead k.sp (64 * l) 64), tabGet Config.tagRaw k.spTags l, decide (l ∈ k.spMarks)⟩))))

/-- The fixed part of a context. -/
def ctxFixed (k : Core) (dirty : List Nat) : List Chunk :=
  ctxHeader k dirty ++ ctxStream 0x400 k.a ++ ctxStream 0x800 k.x ++ ctxVstate k ++ ctxEngines k ++ ctxSlots k ++ ctxBook k ++
    ctxVectors k ++ ctxQueues k

/-- The HPA of a context slot of a guest (R321). -/
def saveHpa (x : Guest) (i : Nat) : Nat := fld x.gsaveIn 16 32 * 65536 + i * contextBound x.gresIn

/-- Write a context, whose scratchpad is known by number `own`, at an HPA of the save region; nothing is written where no HBM
lies. -/
def writeContext (hpa own : Nat) (k : Core) (size : Nat) (s : State) : State :=
  if Config.hbmBytes < hpa + size then s
  else
    let s := (ctxFixed k (ctxDirty s own k)).foldl (fun s c => { s with mem := memWrite s.mem (hpa + c.1) c.2.1 c.2.2 }) s
    (ctxLines s own k k.placeD.tiles).foldl (fun s e => setBase ⟨.hbm, (hpa + e.1) / 64⟩ e.2 s) s

end Sys2Proof.Machine
end

