-- ==== Sys2Proof/Machine/Queue.lean ====
section
/-! DEFINITION. Machine/Queue.lean: launch queues, their rings, and the events that they report (R297 to R301,
R409). -/

namespace Sys2Proof.Machine

/-! ### Queues and records (R297, R300) -/

/-- A launch queue of a guest. -/
def Guest.queue (x : Guest) (q : Nat) : LaunchQueue := tabGet LaunchQueue.reset x.lq q

/-- Set a launch queue. -/
def Guest.setQueue (x : Guest) (q : Nat) (l : LaunchQueue) : Guest := { x with lq := tabPut x.lq q l }

/-- The ring size of a queue, none when its size field is out of range (R409). -/
def LaunchQueue.size (l : LaunchQueue) : Option Nat := ringSize (fld l.ctl 0 5) 16

/-- Is a queue enabled: ENABLE set, and a usable size (R293, R298, R409)? -/
def LaunchQueue.enabled (l : LaunchQueue) : Bool := bit l.ctl 16 && l.size.isSome

/-- FAULTED of LQSTAT. -/
def LaunchQueue.faulted (l : LaunchQueue) : Bool := bit l.stat 63

/-- Is the ring full (R298)? -/
def LaunchQueue.full (l : LaunchQueue) : Bool := decide ((l.size.getD 0) ≤ l.tail - l.head)

/-- A field of a launch record. -/
def recF (r : BitVec 512) (lo n : Nat) : Nat := r.toNat / 2 ^ lo % 2 ^ n

/-- The GVA of a slot of a ring. -/
def LaunchQueue.slotGva (l : LaunchQueue) (n : Nat) : Nat := fld l.base 6 42 * 64 + 64 * (n % (l.size.getD 1))

/-- The place of a ring slot, translated as the function does (R208, R297). -/
def ringPlace (s : State) (g gva : Nat) (acc : Acc) : Except XFail (Xlat × Loc) := do
  let x ← walk s g gva
  leafCheck s g acc x
  let l ← placeGpa s g 1 (decide (acc = .write)) (x.gpaAt gva)
  return (x, l)

/-- Do the homes of what the function reads and writes of a ring slot serve it now (R325)? -/
def ringOpen (s : State) (g gva : Nat) : Bool :=
  walkOpen s g gva && (match ringPlace s g gva .free with
    | .ok (x, l) => reachable s g (x.gpaAt gva) l
    | .error _ => true)

/-- May a post take the next slot of a queue now: no earlier one waits for it (R298), and the slot's home serves it (R325)? -/
def postOpen (s : State) (g q : Nat) : Bool :=
  let l := (s.guest g).queue q
  ringOpen s g (l.slotGva l.tail) && s.hostHeld.all (fun i => match i with
    | .lqpost h p _ _ => !(h == g && p == q)
    | _ => true)

/-- A record is written whole into slot LQTAIL mod size, and LQTAIL advances (R298). A slot whose translation fails
takes no record; the Porter's read of it then faults. The Porter has to evaluate the guest (R302). DESIGN CHOICE (log 52): the slot
takes the tag 0x0000, whichever way the record was posted. -/
def postRecord (g q : Nat) (r : LineBits) (s : State) : State :=
  let l := (s.guest g).queue q
  let s := match ringPlace s g (l.slotGva l.tail) .free with
    | .ok (x, p) => externalWrite g p allBytes r (if p.space = Space.host then none else some Config.tagRaw) none
        (sendLine g (x.gpaAt (l.slotGva l.tail)) p s)
    | .error _ => s
  s.modGuest g (fun x => { x.setQueue q { x.queue q with tail := (x.queue q).tail + 1 } with due := true })

/-- The error vector of a queue (R297). -/
def queueVector (g q : Nat) (s : State) : State := raiseVf g (fld ((s.guest g).queue q).ctl 8 8) s

/-- LQDONE advances over finished records in sequence order (R297, R309). -/
def advanceDone (done : Nat) (fin : List Nat) : Nat → Nat × List Nat
  | 0 => (done, fin)
  | n + 1 => if done ∈ fin then advanceDone (done + 1) (listDel fin done) n else (done, fin)

/-- An advance of LQDONE of queue `q` is noted at a head that stands unread (R303). -/
def LaunchQueue.noteAdvance (q lo hi : Nat) (l : LaunchQueue) : LaunchQueue :=
  if l.headRec.isNone && l.tail != l.head && decide (lo < hi) then { l with advances := l.advances ++ [(q, lo, hi, l.waited)] } else l

/-- A record has completed or failed; an advance of LQDONE makes the Porter evaluate the guest (R302). -/
def finishRecord (g q seq : Nat) (s : State) : State :=
  s.modGuest g (fun x =>
    let l := x.queue q
    let fin := listAdd l.finished seq
    let (d, f) := advanceDone l.done fin fin.length
    let x := { x.setQueue q { l with done := d, finished := f } with due := x.due || decide (l.done < d) }
    { x with lq := x.lq.map (fun e => (e.1, e.2.noteAdvance q l.done d)) })

/-- ERR, CAUSE and LQERRSEQ of a queue, and its error vector (R113, R297, R301). -/
def queueError (g q cause seq : Nat) (s : State) : State :=
  queueVector g q (s.modGuest g (fun x =>
    let l := x.queue q
    x.setQueue q { l with stat := setFld (setFld l.stat 61 1 1) 0 8 cause, errSeq := seq }))

/-- The head leaves its queue. -/
def LaunchQueue.pop (l : LaunchQueue) (q : Nat) : LaunchQueue :=
  { l with head := l.head + 1, headRec := none, waited := 0, reserving := none, prio := q, advances := [] }

/-- The head record fails (R301). -/
def failHead (g q cause : Nat) (s : State) : State :=
  let seq := ((s.guest g).queue q).head
  let s := s.modGuest g (fun x => x.setQueue q ((x.queue q).pop q))
  queueError g q cause seq (finishRecord g q seq s)

/-! ### Accesses from outside that are dropped or wait (R298, R325, R333, R336, R384) -/

/-- The answer to a read of `n` bytes, in words of 8 bytes. -/
def reply (n v : Nat) (s : State) : State :=
  { s with replies := s.replies ++ (List.range ((n + 7) / 8)).map (fun i => word (v / 2 ^ (64 * i) % 2 ^ Nat.min 64 (8 * n))) }

/-- A dropped read returns all ones (R384). -/
def replyOnes (n : Nat) (s : State) : State := reply n (2 ^ (8 * n) - 1) s

/-- A host access is dropped with a reason; a read answers all ones (R384). -/
def dropAccess (fn : FnId) (bar reason : Nat) (r : ApertureReq) (s : State) : State :=
  let s := hostError fn bar r.addr reason s
  if r.write then s else replyOnes r.size s

/-- Offsets of a queue's registers and of its post window (R297). -/
def lqOff (q : Nat) : Nat := 0x500 + 0x40 * q
def lqpostOff (q : Nat) : Nat := 0x600 + 0x40 * q

/-- An access from outside that cannot be served now waits: its home serves save traffic only (R325), its link is not ready
(R336, log 19), or an earlier post to its queue waits (R298). -/
def holdAccess (i : HeldAccess) (s : State) : State := { s with hostHeld := s.hostHeld ++ [i] }

/-- An access performs where it can be served now, and otherwise waits. -/
def whenOpen (i : HeldAccess) (ok : Bool) (eff : State → State) (s : State) : State := if ok then eff s else holdAccess i s

/-- Does an access go through the function of a guest? -/
def HeldAccess.through (g : Nat) (i : HeldAccess) : Bool :=
  match i with
  | .lqpost h _ _ _ => h == g
  | .dataApertureAccess h _ => h == g
  | .tagApertureAccess h _ => h == g
  | _ => false

/-- An access that waits is dropped with REASON 4 (R333, R336, R384). -/
def dropOne (s : State) (i : HeldAccess) : State :=
  match i with
  | .lqpost g q _ _ => hostError (.vf g) 0 (lqpostOff q) 4 s
  | .dataApertureAccess g r => dropAccess (.vf g) 2 4 r s
  | .tagApertureAccess g r => dropAccess (.vf g) 4 4 r s
  | _ => s

/-- The accesses that wait at a function are dropped as it freezes or its guest is disabled (R333, R336). -/
def dropHeld (g : Nat) (s : State) : State :=
  { (s.hostHeld.filter (HeldAccess.through g)).foldl dropOne s with
    hostHeld := s.hostHeld.filter (fun i => !HeldAccess.through g i) }

end Sys2Proof.Machine
end

