-- ==== Sys2Proof/Machine/Sync.lean ====
section
/-! DEFINITION. Machine/Sync.lean: atomics, fences, phase boundaries, named barriers, WAITSEQ and END (R16, R112,
R249 to R259, R278 to R292, R295, R357). -/

namespace Sys2Proof.Machine

/-! ### Atomics (R279 to R283) -/

/-- The elements of AMOFADD: the sums in the line's format, without flags (R281). -/
def amoFadd (t : Tag) (m b : Word) : Word :=
  let f := tagFmt t
  let w := fmtWidth f
  let el := fun (v : Word) (e : Nat) => decodeElem (fun _ _ => 0) (v.toNat / 2 ^ (w * e) % 2 ^ w) t false
  word (((List.range (64 / w)).map (fun e =>
    (roundTo (valAdd .rne (el m e) (el b e)).1 f (tagScale t) .rne false).1 % 2 ^ w * 2 ^ (w * e))).sum)

/-- The value written, none when a comparison fails (R281). -/
def amoValue (op : AmoOp) (t : Tag) (m b d : Word) : Option Word :=
  match op with
  | .add => some (m + b)
  | .min => some (if m.toInt ≤ b.toInt then m else b)
  | .max => some (if m.toInt ≤ b.toInt then b else m)
  | .and => some (m &&& b)
  | .or => some (m ||| b)
  | .xor => some (m ^^^ b)
  | .swp => some b
  | .cas => if m = d then some b else none
  | .fadd => some (amoFadd t m b)

/-- Step 7 of R279: the line's tag (R280). The change that the write of a value would make has its mask and tag. -/
def amoLine (op : AmoOp) (rc : Bool) (line : LineImg) (off : Nat) : Except LineFail Change := do
  if op = .fadd then
    if tagClass line.tag ≠ 0 then throw (.cls line.tag)
    if (tagFmt line.tag ≠ fmtFp32 ∧ tagFmt line.tag ≠ fmtBf16) ∨ tagScale line.tag = 0xFF then throw (.fmt line.tag)
  mergeRaw rc line off 8 0

/-- The 8 bytes that an atomic reads: an UNINIT line reads as zero, and an RC line beyond its span (R280). -/
def amoRead (rc : Bool) (line : LineImg) (off : Nat) : Word :=
  if tagClass line.tag = 1 then 0 else lineWord (rcSpan rc line.tag line.bits) off

/-- The scope at which an atomic is published: system on host memory and in an aperture (R283). -/
def amoScope (l : Loc) (sc : Scope) : Scope := if l.space = .hbm then sc else .system

/-- The paths that an atomic is visible to at once: at core scope the C path too (R257). -/
def amoViewers (c : Nat) (sc : Scope) : List Party := if sc = .core then [⟨c, .a⟩, ⟨c, .c⟩] else [⟨c, .a⟩]

/-- Pending writes to the 8 bytes are published with the atomic, before it in line order; what the atomic reads stands in the
view of the path, with what its publication brings there (R252, R257). -/
def publishUnder (l : Loc) (mask : BitVec 64) (sc : Scope) (s : State) : State :=
  let c := s.turn.1
  let s := publish (fun r => decide (r.loc = l) && r.pub.isNone && r.mask &&& mask != 0) sc (gangReach s c) s
  enterViews (fun r => decide (r.loc = l) && r.performed && r.pub.isSome && (r.mask &&& mask != 0 || reachesParty s r ⟨c, .a⟩))
    (amoViewers c sc) s

/-- The write of an atomic, published as it performs, with every view closed downward (R252, R257). -/
def amoWrite (gpa : Nat) (l : Loc) (ch : Change) (rc : Bool) (psc : Scope) (rel : Option Scope) (s : State) : State :=
  let c := s.turn.1
  let new := applyChange (bookOf s.cur) ch (pageMark l rc) (wholeImg s l)
  let s := homeWrites (some .a) c l (sendLine (s.guestOf c) gpa l (settleGranules c l new s))
  let ids := if rel.isSome then (s.writes.filter (inView ⟨c, .a⟩)).map WriteRec.id else []
  let r := (newWrite s c .a l 0 0 none (pageMark l rc)).ofChange ch
  sealsIn (s.guestOf c) l (addJoined { r with
    pub := some psc, gangCores := gangReach s c, rel := rel, carries := ids, viewers := amoViewers c psc }) s

/-- The line of an atomic: held exclusively in the near cache, and behind an aperture reached at its home in the peer, once
for each atomic (R257, R283). -/
def waitAtomic (gpa : Nat) (l : Loc) : Exec Unit := do
  if l.space = .peer then
    waitHomes
    askHome gpa l true
    modify (fun s => recallLine 64 l true s)
  else waitOwn gpa l

/-- The 8 bytes of an atomic as they stand when it performs, and whether it is on an RC page; the checks of step 7. -/
def amoCheck (op : AmoOp) (f : MForm) (x : Xlat) (l : Loc) (off : Nat) : Exec (LineImg × Change) := do
  let s ← get
  let line := storeImg s s.turn.1 l
  watchTag false line.tag f.a 0
  let ch ← lineExec f.a (amoLine op (pteClass x.leaf == 1) line off)
  return (line, ch)

/-- The AMO family (R279). -/
def amoOp (i : Instr) (op : AmoOp) (f : MForm) (s : State) : Out :=
  issue i (do
    let l0 : List Src := if op = .cas then [⟨f.d, false⟩] else []
    let vs ← readSources (l0 ++ [mSrcA f, mSrcB f])
    let old := if op = .cas then w0 vs else 0
    let base := if op = .cas then w1 vs else w0 vs
    let b := if op = .cas then w2 vs else w1 vs
    let a := mAddr f 8 base 0
    alignedTo 8 a
    watchDirs 0 [false, true] a.toNat 8
    gvaBound a
    let x ← translate .write a.toNat
    let l ← placeOf .write x a.toNat
    classAllowsStore x a.toNat
    destWait f.d
    waitReads (fun y => (mAcq f).isSome || y == l)
    takeCredit (creditFor (← get) l) a.toNat
    waitAtomic (x.gpaAt a.toNat) l
    let off := a.toNat % 64
    let mask := byteMask off 8
    let psc := amoScope l (scopeOfSc f.sc.toNat)
    modify (fun s => orderAt s.turn.1 l (some (off / 8)) (performOwn s.turn.1 s))
    let s0 ← get
    set (publishUnder l mask psc s0)
    let (line, ch) ← (do
      match amoCheck op f x l off (← get) with
      | .ok v s => set s; return v
      | .error e s => set { s with writes := s0.writes }; throw e)
    let rc := pteClass x.leaf == 1
    let m := amoRead rc line off
    let s1 ← get
    let brings := ((mAcq f).map (acquired s1 ⟨s1.turn.1, .a⟩ l mask)).getD []
    match mRel f with
    | none => pure ()
    | some sc => modify (fun s => publishCarried (inView ⟨s.turn.1, .a⟩) sc (gangReach s s.turn.1) s)
    match amoValue op line.tag m b old with
    | none => pure ()
    | some v => modify (amoWrite (x.gpaAt a.toNat) l { ch with bits := setLineBytes 0 off 8 v.toNat } rc psc (mRel f))
    modify (fun s => s.modCur (fun k => k.popAll [mSrcB f]))
    modify (fun s => s.modStrm (fun st => st.setReg f.d m))
    modify (fun s => observeSealed s.turn.1 .a l line s)
    if (mAcq f).isSome then modify (fun s => enterClosed ⟨s.turn.1, .a⟩ brings (orderAll s.turn.1 s))) s

/-- AMOADD (R279, R281). -/
def execAmoadd (f : MForm) (s : State) : Out := amoOp (.amoadd f) .add f s
/-- AMOMIN (R281). -/
def execAmomin (f : MForm) (s : State) : Out := amoOp (.amomin f) .min f s
/-- AMOMAX (R281). -/
def execAmomax (f : MForm) (s : State) : Out := amoOp (.amomax f) .max f s
/-- AMOAND (R281). -/
def execAmoand (f : MForm) (s : State) : Out := amoOp (.amoand f) .and f s
/-- AMOOR (R281). -/
def execAmoor (f : MForm) (s : State) : Out := amoOp (.amoor f) .or f s
/-- AMOXOR (R281). -/
def execAmoxor (f : MForm) (s : State) : Out := amoOp (.amoxor f) .xor f s
/-- AMOSWP (R281). -/
def execAmoswp (f : MForm) (s : State) : Out := amoOp (.amoswp f) .swp f s
/-- AMOCAS (R281, R282). -/
def execAmocas (f : MForm) (s : State) : Out := amoOp (.amocas f) .cas f s
/-- AMOFADD (R280, R281). -/
def execAmofadd (f : MForm) (s : State) : Out := amoOp (.amofadd f) .fadd f s

/-! ### FENCE (R259, R284) -/

/-- The paths of a core that a mask names; F is no path of a core (R42, R284). -/
def maskPaths (c : Nat) (m : Code) : List Party :=
  ((List.range 4).filter (fun i => m.getLsbD i)).map (fun i => ⟨c, corePaths.getD i .a⟩)

/-- The effect of a fence of core `c` (R259). -/
def fenceEffect (c : Nat) (src dst : List Party) (sc : Scope) (s : State) : State :=
  let s := fixGathers c (fun _ => true) (orderAll c (if src.contains ⟨c, .a⟩ then performOwn c s else s))
  let ids := (s.writes.filter (fun r => r.performed && (match r.writer with
    | some p => src.contains p
    | none => false))).map WriteRec.id
  let s := dst.foldl (fun s q => enterClosed q ids s) s
  if sc = .core then s
  else enterPublished sc dst (publish (fun r => src.any (fun p => decide (p ∈ r.viewers))) sc (gangReach s c) s)

/-- FENCE (R284). -/
def execFence (f : RForm) (s : State) : Out :=
  issue (.fence f) (do
    if f.a.getLsbD 0 then waitHomes
    let s0 ← get
    waitFor (slotsOpen s0 s0.turn.1 (fun _ => true) s0.cur.slots) .home
    modify (fun s =>
      fenceEffect s.turn.1 (maskPaths s.turn.1 f.a) (maskPaths s.turn.1 f.b) (scopeOfSc (f.m.toNat / 2048 % 4)) s)) s

/-! ### Members of a gang (R285 to R290) -/

/-- Has a member's work ended in both streams (R288)? -/
def Core.workEnded (k : Core) : Bool := k.a.ended && k.x.ended

/-- The cores of a gang as it stands, with members that have not ended. -/
def liveMembers (s : State) (c : Nat) : List Nat := (gangCores s c).filter (fun m => !(s.core m).workEnded)

/-- A completion of an arrival generation of a barrier in one member (R290). -/
def barGeneration (b : Nat) (k : Core) : Core :=
  let k := signalMember b 0 false k
  k.setBar b { k.bar b with gens := (k.bar b).gens + 1 }

/-- Is no member of a core's gang drained: they drain and are restored together, and until then no boundary and no generation
of the gang completes (R285, R306)? -/
def gangWhole (s : State) (c : Nat) : Bool :=
  match (s.core c).place with
  | some p => (s.guest (s.guestOf c)).drained.all (fun d => decide (d.job ≠ p.job))
  | none => true

/-- Generation n of a barrier completes when every member that has not ended has arrived n times (R288, R290). The counts have
16 bits and wrap (R289, log 30): a member arrives once for each generation. -/
def tryBarrier (c b : Nat) (s : State) : State :=
  let live := liveMembers s c
  let n := ((live.head?).map (fun m => ((s.core m).bar b).gens + 1)).getD 0
  if live.isEmpty = false ∧ gangWhole s c = true ∧ live.all (fun m => decide (((s.core m).bar b).arr = n)) then
    live.foldl (fun s m => s.modCore m (barGeneration b)) s
  else s

/-! ### Phase boundaries (R255, R285 to R288) -/

/-- The kind of the boundary of a gang: that of member 0, or of the lowest member that has not ended. -/
def gangKind (s : State) (live : List Nat) : Nat × Nat :=
  let low := live.foldl (fun (o : Option Nat) m =>
    match o with
    | none => some m
    | some x => if (s.core m).placeD.gidx < (s.core x).placeD.gidx then some m else some x) none
  match low with
  | none => (0, 0)
  | some m => (((s.core m).arrival).map Arrival.kind).getD (0, 0)

/-- Has a member arrived at the boundary it is in (R285)? -/
def Core.arrived (k : Core) : Bool := k.arrival.isSome

/-- The members of a parent gang that have not ended, for a sub-gang path (R287). -/
def parentMembers (s : State) (c : Nat) : List Nat :=
  let up := (s.core c).placeD.path.drop 1
  (jobCores s c).filter (fun m =>
    let p := (s.core m).placeD.path
    decide (p.drop (p.length - up.length) = up) && decide (up.length < p.length) && !(s.core m).workEnded)

/-- Does a member stand at a join of a sub-gang made by the split of core `c`, its whole sub-gang having arrived? -/
def joined (s : State) (c m : Nat) : Bool :=
  let live := liveMembers s m
  decide ((s.core m).placeD.path.length = (s.core c).placeD.path.length) &&
    live.all (fun x => (s.core x).arrived) && (gangKind s live).1 == 2

/-- The members whose boundary completes now that a gang has arrived: the gang, or at a join the parent's members once all
have joined (R285, R287). -/
def completing (s : State) (c : Nat) : List Nat :=
  let live := liveMembers s c
  if live.isEmpty || !live.all (fun m => (s.core m).arrived) then []
  else if (gangKind s live).1 = 2 then
    let all := parentMembers s c
    if all.all (joined s c) then all else []
  else live

/-- The writes that belong to the boundary of members are published at every scope, those of scratchpads within the
gang (R251, R255). DESIGN CHOICE (log 29): the gang is the one that was placed, whatever it has been split into. -/
def publishArrived (ms cores : List Nat) (s : State) : State :=
  let mine := fun (r : WriteRec) => r.arrived && (match r.writer with
    | some p => ms.contains p.core
    | none => false)
  publish (fun r => mine r && r.loc.isSp) .gang cores (publish (fun r => mine r && !r.loc.isSp) .system cores s)

/-- The view of a member at the completion: what the boundary publishes, what was published before it arrived (R255 step
3), and what has been published since then at a scope that contains it (R252). -/
def boundaryView (ids : List Nat) (s : State) (m : Nat) : State :=
  let seen := (((s.core m).arrival).map Arrival.seen).getD []
  (partiesOf m).foldl (fun s p =>
    enterClosed p (ids ++ seen ++ (s.writes.filter (fun r => r.performed && reachesParty s r p)).map WriteRec.id) s) s

/-- Does a stream stand at its phase instruction, waiting for the boundary? -/
def Stream.atPhase (st : Stream) : Bool :=
  match st.wait with
  | some ⟨.phase _, _⟩ => true
  | _ => false

/-- A phase instruction that has retired: it is counted, and a PARTNER trap may follow it (R285, R287). -/
def Stream.phaseRetired (trap : Option Nat) (st : Stream) : Stream :=
  { st with phCount := st.phCount + 1, phIssued := none, phLast := st.phIssued, phDone := none, partnerTrap := trap.or st.partnerTrap }

/-- The boundary of a stream's phase instruction completes: the instruction retires as the stream stands at it, and where a trap
has taken the stream away when it comes back to it (R285); the event reaches the stream (R366). -/
def phaseRelease (trap : Option Nat) (t : StreamId) (k : Core) : Core :=
  let st := k.stream t
  let k :=
    if st.phIssued.isNone then k
    else if st.atPhase then (k.setStream t (st.phaseRetired trap)).retire t st (st.pc + 8)
    else k.setStream t { st with phDone := some trap }
  k.setEvf t

/-- A gang splits, for one member (R287). -/
def splitPlace (k : Nat) (p : Place) : Place :=
  let n := p.gsize / 2 ^ k
  { p with splits := ⟨p.gsize, p.gidx, p.gidx / n⟩ :: p.splits, gsize := n, gidx := p.gidx % n }

/-- A sub-gang joins, for one member (R287). -/
def joinPlace (p : Place) : Place :=
  match p.splits with
  | [] => p
  | x :: r => { p with splits := r, gsize := x.gsize, gidx := x.gidx }

/-- The effect of a boundary's completion on one member: its phase instructions may retire, a split or join changes
its place and returns its barriers to idle (R285, R287), and its near cache gives up host and peer lines (R203). -/
def phaseMember (kind : Nat × Nat) (trap : Option Nat) (k : Core) : Core :=
  let differs := k.arrival.map Arrival.kind != some kind
  let tv := if differs then trap else none
  let place := match kind.1 with
    | 1 => k.place.map (splitPlace kind.2)
    | 2 => k.place.map joinPlace
    | _ => k.place
  { phaseRelease tv .x (phaseRelease tv .a k) with
           arrival := none, place := place,
           bars := if kind.1 = 0 then k.bars else []
           near := k.near.filter (fun l => l.space == .hbm), excl := k.excl.filter (fun l => l.space == .hbm) }

/-- The lowest GIDX whose phase instruction differs from the kind (R287). -/
def lowestDiffering (s : State) (kind : Nat × Nat) (ms : List Nat) : Option Nat :=
  ((ms.filter (fun m => ((s.core m).arrival).map Arrival.kind != some kind)).map (fun m => (s.core m).placeD.gidx)).min?

/-- What each member of a completing boundary does, by the kind of its own gang, as the gangs stood before. -/
def phaseFates (s : State) (ms : List Nat) : List (Nat × (Nat × Nat) × Option Nat) :=
  ms.map (fun m =>
    let live := liveMembers s m
    let kind := gangKind s live
    (m, kind, lowestDiffering s kind live))

/-- The performed writes of cores belong to the boundary (R255, R288). -/
def markArrived (cs : List Nat) (s : State) : State :=
  { s with writes := s.writes.map (fun (r : WriteRec) =>
      if r.performed && (match r.writer with
        | some p => cs.contains p.core
        | none => false) then { r with arrived := true } else r) }

/-- The members whose work has ended in both streams and that count as arrived at a boundary (R288): those of the gang, or
at a join those of the parent gang, whatever they were split into. -/
def endedMembers (s : State) (c : Nat) (ms : List Nat) (join : Bool) : List Nat :=
  let up := (s.core c).placeD.path.drop 1
  (jobCores s c).filter (fun m =>
    let p := (s.core m).placeD.path
    (s.core m).workEnded && (ms.any (fun x => sameGang (s.core x) (s.core m)) ||
      (join && decide (up.length < p.length) && decide (p.drop (p.length - up.length) = up))))

/-- The joins that bring an ended member back to a gang of `n` splits (R287, R288). -/
def joinTo (n : Nat) : Nat → Place → Place
  | 0, p => p
  | fuel + 1, p => if p.splits.length ≤ n then p else joinTo n fuel (joinPlace p)

/-- The effect of a boundary's completion on an ended member, whose engines may still run: its place and its barriers
change as the gang's do, and its near cache gives up host and peer lines (R203, R287, R288). -/
def phaseEnded (kind : Nat × Nat) (n : Nat) (k : Core) : Core :=
  { k with
    place := match kind.1 with
      | 1 => k.place.map (splitPlace kind.2)
      | 2 => k.place.map (fun p => joinTo n p.splits.length p)
      | _ => k.place
    bars := if kind.1 = 0 then k.bars else []
    near := k.near.filter (fun l => l.space == .hbm), excl := k.excl.filter (fun l => l.space == .hbm) }

/-- A phase boundary completes when its last member arrives or ends (R255, R285 to R288). What ended members have scattered is
applied by then (R149). -/
def tryPhase (c : Nat) (s : State) : State :=
  let ms := completing s c
  if ms.isEmpty || !gangWhole s c then s
  else
    let fates := phaseFates s ms
    let kind := (fates.head?.map (fun f => f.2.1)).getD (0, 0)
    let up := (s.core c).placeD.splits.length - 1
    let gone := endedMembers s c ms (kind.1 == 2)
    let s := markArrived gone (gone.foldl (fun s m => settleAll m s) s)
    let ids := (s.writes.filter (fun r => r.arrived && (match r.writer with
      | some p => (ms ++ gone).contains p.core
      | none => false))).map WriteRec.id
    let s := publishArrived (ms ++ gone) (jobCores s c) s
    let s := ms.foldl (boundaryView ids) s
    let s := gone.foldl (fun s m => s.modCore m (phaseEnded kind up)) s
    compact (fates.foldl (fun s f => s.modCore f.1 (phaseMember f.2.1 f.2.2)) s)

/-- The boundary and the generations that a gang's members may complete. -/
def gangSettle (c : Nat) (s : State) : State :=
  (List.range 16).foldl (fun s b => (gangCores s c).foldl (fun s m => tryBarrier m b s) s)
    (((c :: jobCores s c)).foldl (fun s m => tryPhase m s) s)

/-- The checks of a phase instruction (R286), the first against the n-th one of the other stream, which has issued it or retired it. -/
def phaseChecks (i : Instr) (kind : Nat × Nat) : Exec Unit := do
  let s ← get
  let o := s.cur.stream (otherStream s.turn.2)
  let other := if o.phCount = s.strm.phCount then o.phIssued else if o.phCount = s.strm.phCount + 1 then o.phLast else none
  if other.isSome && other != some kind then throw (.trap .illegal (firstWord i))
  let p := s.cur.placeD
  if kind.1 = 1 then need (p.gsize % 2 ^ kind.2 == 0) .illegal (firstWord i)
  if kind.1 = 2 then need (p.splits.isEmpty == false) .illegal (firstWord i)

/-- PHASE, PHASE.SPLIT and PHASE.JOIN (R285 to R287, R295). -/
def phaseOp (i : Instr) (kind : Nat × Nat) (s : State) : Out :=
  issue i (do
    let st := (← get).strm
    match st.phDone with
    | some trap =>
      if st.phIssued ≠ some kind then phaseChecks i kind
      modify (fun s => s.modStrm (fun st => Stream.phaseRetired trap { st with phIssued := some kind }))
    | none =>
      if st.phIssued ≠ some kind then phaseChecks i kind
      modify (fun s => s.modStrm (fun st => { st with phIssued := some kind }))
      let o := (← get).cur.stream (otherStream (← get).turn.2)
      throw (.wait (.phase (!o.ended && o.phIssued.isNone)))) s

/-- PHASE (R285). -/
def execPhase (f : IForm) (s : State) : Out := phaseOp (.phase f) (0, f.imm.toNat) s
/-- PHASE.SPLIT (R287). -/
def execPhaseSplit (f : IForm) (s : State) : Out := phaseOp (.phaseSplit f) (1, f.imm.toNat) s
/-- PHASE.JOIN (R287). -/
def execPhaseJoin (f : IForm) (s : State) : Out := phaseOp (.phaseJoin f) (2, f.imm.toNat) s

/-- Has every MMAG that a member issued or holds a share of signalled its barrier (R285)? -/
def gangedDone (s : State) (c : Nat) : Bool :=
  let p := (s.core c).placeD
  match gangOf (s.guest (s.guestOf c)) p.job with
  | none => true
  | some y => y.ganged.all (fun z => z.leader != p.gidx0 && !z.partners.contains p.gidx0)

/-- May a member arrive at its boundary: it runs, no stream of it is frozen, each stream that has not ended has issued
its phase instruction and waits, its MMAGs have signalled, and the writes that its A and X paths issued have performed
and the homes of what its stream slots read
before the boundary serve them (R254, R255, R285, R288, R325)? -/
def mayArrive (s : State) (c : Nat) : Bool :=
  let k := s.core c
  let at_ := fun (st : Stream) => st.ended || (st.phIssued.isSome && st.phDone.isNone)
  decide (k.mode = .run) && k.place.isSome && k.arrival.isNone && !k.workEnded && at_ k.a && at_ k.x &&
    k.a.frozen.isNone && k.x.frozen.isNone && gangedDone s c && (unperformed s c).isEmpty && k.scatters.isEmpty && slotsOpen s c (fun _ => true) k.slots

/-- A member arrives (R255, R285). -/
def arrive (c : Nat) (s : State) : State :=
  let k := s.core c
  let (kind, n) := if k.a.ended then (k.x.phIssued, k.x.phCount) else (k.a.phIssued, k.a.phCount)
  let seen := (s.writes.filter (fun r => r.performed && reachesParty s r ⟨c, .a⟩)).map WriteRec.id
  (markArrived [c] (fixGathers c (fun _ => true) (orderAll c s))).modCore c (fun k => { k with arrival := some ⟨n + 1, kind.getD (0, 0), seen⟩ })

/-- MEMBER_ARRIVAL (R255, R285). -/
def execMemberArrival (core : Nat) (s : State) : Out :=
  if mayArrive s core then .next (tryPhase core (arrive core s)) else .next s

/-! ### Named barriers (R289, R290) -/

/-- The number of a barrier instruction. -/
def barNo (f : IForm) : Nat := f.imm.toNat % 16

/-- The arrival of a member at a barrier: it waits while its arrivals exceed the generations, by one at most (R290). -/
def barArrive (b : Nat) : Exec Unit := do
  let s ← get
  let x := s.cur.bar b
  waitFor (decide (x.arr = x.gens)) .barrier
  modify (fun s => s.modCur (fun k => k.setBar b { k.bar b with arr := (k.bar b).arr + 1 }))

/-- The wait of BARW, and what it consumes and reports (R290). -/
def barConsume (b : Nat) : Exec Unit := do
  let x := (← get).cur.bar b
  waitFor (decide (0 < x.done)) .barrier
  modify (fun s => s.modCur (fun k =>
    let k := k.setBar b { x with done := x.done - 1, stat := if x.done = 1 then 0 else x.stat }
    { k with mat := { k.mat with gstatus := x.stat, gbar := BitVec.ofNat 4 b } }))

/-- BARA (R290). -/
def execBara (f : IForm) (s : State) : Out :=
  issue (.bara f) (do
    barArrive (barNo f)
    modify (fun s => tryBarrier s.turn.1 (barNo f) s)) s

/-- BARW (R290). -/
def execBarw (f : IForm) (s : State) : Out := issue (.barw f) (barConsume (barNo f)) s

/-- BAR (R290, R295): its arrival counts once. The record of the arrival stands until an instruction retires at U level; DESIGN
CHOICE (log 30): a BAR at S level that meets it takes itself as arrived. -/
def execBar (f : IForm) (s : State) : Out :=
  issue (.bar f) (do
    if (← get).strm.barArrived = false then
      barArrive (barNo f)
      modify (fun s => tryBarrier s.turn.1 (barNo f) (s.modStrm (fun st => { st with barArrived := true })))
    barConsume (barNo f)) s

/-! ### WAITSEQ (R292) and END (R112) -/

/-- The record of a wait at WAITSEQ, kept from its beginning (R311). -/
def waitseqWait (st : Stream) (copy : Bool) (target : Word) (counted : Bool) : Wait :=
  match st.wait with
  | some ⟨.waitseq _ _ c, _⟩ => .waitseq copy target c
  | _ => .waitseq copy target counted

/-- The target of a WAITSEQ (R292). -/
def waitTarget (f : IForm) (a : Word) : Word := a + sext64 f.imm

/-- WAITSEQ.c (R292). -/
def execWaitseqC (f : IForm) (s : State) : Out :=
  issue (.waitseqC f) (do
    let l : List Src := [⟨f.a, f.ea⟩]
    let vs ← readSources l
    let t := waitTarget f (w0 vs)
    let s ← get
    let k := s.cur
    if s.turn.2 = .a then need (decide (t.toNat ≤ k.copy.cnext.toNat)) .illegal t
    waitFor (decide (t.toNat ≤ k.copy.cseq.toNat)) (waitseqWait s.strm true t (decide (k.copy.cnext.toNat < t.toNat)))
    modify (fun s => s.modCur (fun k => k.popAll l))) s

/-- WAITSEQ.m (R292). -/
def execWaitseqM (f : IForm) (s : State) : Out :=
  issue (.waitseqM f) (do
    let l : List Src := [⟨f.a, f.ea⟩]
    let vs ← readSources l
    let t := waitTarget f (w0 vs)
    let s ← get
    let k := s.cur
    match k.shareHalt with
    | some b => throw (.trap .partner (word b))
    | none => pure ()
    waitFor (decide (t.toNat ≤ k.mat.mseq.toNat)) (waitseqWait s.strm false t (decide (k.mat.mnext.toNat < t.toNat)))
    modify (fun s => s.modCur (fun k => k.popAll l))) s

/-- END (R16, R112, R198, R357): at S level the stream stops at once. A member that has ended counts as arrived
(R288). -/
def execEnd (f : RForm) (s : State) : Out :=
  issue (.endj f) (do
    let s ← get
    let t := s.turn.2
    if s.strm.level = .u then
      partnerCheck s.cur t
      waitFor (s.cur.producers.all (fun p => p.strm != t)) .producers
    modify (fun s =>
      let s := s.modStrm (fun st => { st with ended := true })
      if s.cur.workEnded then gangSettle s.turn.1 s else s)) s

end Sys2Proof.Machine
end

