-- ==== Sys2Proof/Machine/Work.lean ====
section
/-! DEFINITION. Machine/Work.lean: the end of a core's work, and the answers to violations of its masters (R113, R288, R307,
R309, R336, R337, R357, R396, R400). -/

namespace Sys2Proof.Machine

/-! ### The end of a core's work (R113, R309, R357) -/

/-- A gang whose members have all ended is over; the record completes with its last gang, unless the queue has been enabled anew
since (R297, R309). -/
def endGang (g : Nat) (y : Gang) (s : State) : State :=
  let s := s.modGuest g (fun x => { x with gangs := x.gangs.filter (fun z => z.job ≠ y.job) })
  let q := y.job.queue
  let l := (s.guest g).queue q
  match l.running.find? (fun r => r.1 == y.job.seq && l.epoch == y.job.epoch) with
  | none => s
  | some (seq, n, count, vec) =>
    let rest := l.running.filter (fun r => r.1 != seq)
    if n + 1 < count then s.modGuest g (fun x => x.setQueue q { x.queue q with running := rest ++ [(seq, n + 1, count, vec)] })
    else raiseVf g vec (finishRecord g q seq (s.modGuest g (fun x => x.setQueue q { x.queue q with running := rest })))

/-- A member's work has ended: the gang counts it, and what waits for it goes on (R288, R309). -/
def memberEnds (g : Nat) (j : JobId) (idx : Nat) (s : State) : State :=
  match gangOf (s.guest g) j with
  | none => s
  | some y =>
    let y := { y with ended := listAdd y.ended idx }
    let s := s.modGuest g (fun x => x.setGang y)
    if y.gsize ≤ y.ended.length then endGang g y s else s

/-- Every write of a core's job is published at every scope, and its scratchpad with the writes to it is gone (R113, R251,
R400). -/
def publishJob (c : Nat) (s : State) : State :=
  let s := publish (fun r => decide (r.writer.map Party.core = some c)) .system (jobCores s c) s
  let mine := fun (r : WriteRec) => match r.loc.space with
    | .sp x => x == c
    | _ => false
  { s with writes := (s.writes.filter (fun r => !mine r)).map (fun r => { r with
      viewers := r.viewers.filter (fun p => p.core != c)
      writer := if r.writer.map Party.core = some c then none else r.writer }) }

/-- The shares among commands that will not run end as faulted (R193, R337). -/
def dropShares (c : Nat) (l : List MatCmd) (s : State) : State :=
  let pl := (s.core c).placeD
  l.foldl (fun s m =>
    match m.share with
    | none => s
    | some (num, _) => if m.shareOver then s else endShare (s.guestOf c) pl.job num pl.gidx0 pl.gidx true s) s

/-- A core that has no job, with what stays on it (R113). -/
def freeCore (k : Core) : Core :=
  { Core.reset with mode := .idle, guest := k.guest, units := k.units, pmc := k.pmc, tlb := k.tlb, near := k.near,
                    excl := k.excl, donated := k.donated, tally := k.tally, pmcX := k.pmcX }

/-- A core of a guest has become free: the Porter has to evaluate the guest (R302). -/
def porterDue (g : Nat) (s : State) : State := s.modGuest g (fun x => { x with due := true })

/-- The work of a core ends: its engines hold nothing, its writes are published, and it returns to the Porter (R113,
R288, R302, R309, R396). -/
def endWork (c : Nat) (s : State) : State :=
  let k := s.core c
  let g := s.guestOf c
  let pl := k.placeD
  let s := dropShares c k.mat.queue s
  let s := returnCredit c (publishJob c s)
  let s := s.modCore c freeCore
  memberEnds g pl.job pl.gidx0 (porterDue g s)

/-- Does an engine let the work end: it is idle, or halted by a fault that no driver answers (R113, R357)? -/
def engineOver (halt : Option EngineHalt) (idle : Bool) : Bool :=
  match halt with
  | some h => h.pool.isNone
  | none => idle

/-- Has an engine fault no stream to take it: not delivered, and not deferred by a handler that then ended (R113, R355,
R357)? -/
def orphanFault (halt : Option EngineHalt) (st : Stream) : Bool :=
  match halt with
  | some h => !h.delivered && h.pool.isNone && !bit st.tstat 10
  | none => false

/-- Does a ganged product that a core leads still run (R184, R199), when the shares in its own halted engine are discarded (R357)? -/
def leadsProduct (s : State) (c : Nat) : Bool :=
  let s := if (s.core c).mat.halt.isSome then dropShares c (s.core c).mat.queue s else s
  let pl := (s.core c).placeD
  match gangOf (s.guest (s.guestOf c)) pl.job with
  | some y => y.ganged.any (fun z => z.leader == pl.gidx0)
  | none => false

/-- May the work of a core end (R113)? -/
def mayEnd (s : State) (c : Nat) : Bool :=
  let k := s.core c
  decide (k.mode = .run) && k.place.isSome && k.workEnded && k.copy.frozen.isNone && k.a.frozen.isNone && k.x.frozen.isNone &&
    engineOver k.copy.halt k.copy.queue.isEmpty && engineOver k.mat.halt k.mat.queue.isEmpty && !leadsProduct s c &&
    (unperformed s c).isEmpty && k.scatters.isEmpty

/-- Has every member of a drained gang been saved: no core holds one (R306, R326)? -/
def wholeDrained (s : State) (g : Nat) (j : JobId) : Bool :=
  s.cores.all (fun e => !(decide (e.2.guest = some g) && decide (e.2.place.map Place.job = some j)))

/-- STRANDED of a guest, and its vector (R307). -/
def strand (g : Nat) (s : State) : State :=
  let v := (s.guest g).reg 0x708
  raiseVf g (fld v 8 8) (s.modGuest g (fun x => x.setReg 0x708 (setFld v 0 1 1)))

/-- A gang that has drained wholly and that no row of the table in force can place is stranded (R306, R307). -/
def strandDrained (g : Nat) (j : JobId) (s : State) : State :=
  match s.ttActive, (s.guest g).drained.find? (fun d => decide (d.job = j)) with
  | some t, some d => if wholeDrained s g j && !someRowPlaces t g d.gsize then strand g s else s
  | _, _ => s

/-- CORE_WORK_END (R113, R309, R357). -/
def execCoreWorkEnd (core : Nat) (s : State) : Out :=
  if mayEnd s core then
    let k := s.core core
    let j := k.placeD.job
    let s := if orphanFault k.copy.halt k.a || orphanFault k.mat.halt k.x then queueError (s.guestOf core) j.queue 4 j.seq s
      else s
    let mates := listDel (jobCores s core) core
    .next (strandDrained (s.guestOf core) j (mates.foldl (fun s m => gangSettle m s) (endWork core (countTally core s))))
  else .next s

/-! ### Answers to violations (R336, R337) -/

/-- A core with every flushed structure cleared (R327); VLCAP stays while the tenant does not change (R115). -/
def clearedCore (same : Bool) (k : Core) : Core :=
  { Core.reset with mode := .hold, units := if same then k.units else { k.units with vlcap := 1024, tenant := none } }

/-- The job's work on a core ends at once: its engines stop, what it has issued performs, its writes are published, the
member counts as ended, and the core passes through CLEAR to the Porter (R115, R327, R337). -/
def discardCore (c : Nat) (s : State) : State :=
  if (s.core c).place.isNone then s
  else
    let mates := listDel (jobCores s c) c
    let m := (s.core c).mode
    let g := s.guestOf c
    let j := (s.core c).placeD.job
    let s := endWork c (settleAll c (performOwn c (countTally c s)))
    let s := s.modCore c (fun k => { clearedCore true k with
      mode := if m = .run then .idle else m, guest := k.guest, donated := k.donated })
    strandDrained g j (mates.foldl (fun s m => gangSettle m s) s)

/-- The answer to a frozen stream: 1 RESUME, 2 TRAP, 3 DISCARD (R337). -/
def answerStream (c : Nat) (t : StreamId) (v : ViolRec) (action : Nat) (s : State) : State :=
  let s' := s.modStream c t (fun st => { st with frozen := none })
  if action = 1 then s'
  else if action = 2 then
    let pc := (s.streamAt c t).pc
    if v.kind = 3 then takeTrap c t .illegal (word v.detail) pc .instr s'
    else takeTrap c t .bound (word v.gva) pc .instr s'
  else if action = 3 then discardCore c s'
  else s

/-- The answer to a frozen copy engine (R243, R337). -/
def answerCopy (c : Nat) (v : ViolRec) (action : Nat) (s : State) : State :=
  let s' := s.modCore c (fun k => { k with copy := { k.copy with frozen := none } })
  if action = 1 then s'
  else if action = 2 then
    s'.modCore c (fun k => { k with copy := { k.copy with halt := some ⟨.bound, word v.gva, false, none, none, 0, false⟩ } }.setEvf .a)
  else if action = 3 then discardCore c s'
  else s

/-- The record of a violation. -/
def violOf (s : State) (seq : Nat) : Option ViolRec := s.viols.find? (fun v => v.seq == seq)

/-- A record is answered: it is gone once it has been written (R335, R337). -/
def dropViol (seq : Nat) (s : State) : State := { s with viols := s.viols.filter (fun v => v.seq != seq || !v.written) }

/-- An answer to a master of a core (R337). -/
def answerCore (c seq action : Nat) (s : State) : State :=
  match violOf s seq with
  | none => s
  | some v =>
    let k := s.core c
    if action = 0 ∨ 3 < action then s
    else if k.a.frozen = some seq then dropViol seq (answerStream c .a v action s)
    else if k.x.frozen = some seq then dropViol seq (answerStream c .x v action s)
    else if k.copy.frozen = some seq then dropViol seq (answerCopy c v action s)
    else s

end Sys2Proof.Machine
end

