-- ==== Sys2Proof/Machine/Porter.lean ====
section
/-! DEFINITION. Machine/Porter.lean: admission, the choice among queues, placement of new and drained gangs, and LAUNCH
(R293, R299 to R309). -/

namespace Sys2Proof.Machine

/-! ### Admission (R299, R301) -/

/-- GSIZE values of R300. -/
def gsizeOk (n : Nat) : Bool := (decide (1 ≤ n) && decide (n ≤ 8)) || n == 16 || n == 32 || n == 64

/-- Step 2 of R301: the record of sequence value `seq` in queue `q`. -/
def recordOk (q seq : Nat) (r : BitVec 512) : Bool :=
  recF r 392 120 == 0 && recF r 379 5 == 0 && recF r 294 26 == 0 && recF r 279 9 == 0 && recF r 200 24 == 0 &&
  recF r 176 16 == 0 && recF r 112 16 == 0 && recF r 48 16 == 0 && gsizeOk (recF r 192 8) && recF r 224 32 != 0 &&
  decide (recF r 288 6 ≤ Config.tiles) && recF r 256 23 % 4096 == 0 && decide (recF r 256 23 ≤ Config.spBytes) &&
  recF r 64 3 == 0 && recF r 0 3 == 0 &&
  !(recF r 378 1 == 1 && recF r 376 2 == q && decide (seq ≤ recF r 320 56))

/-- The queue is FAULTED with a reason (R299). -/
def faultQueue (g q reason : Nat) (s : State) : State :=
  queueVector g q (s.modGuest g (fun x =>
    let l := x.queue q
    x.setQueue q { l with stat := setFld (setFld l.stat 63 1 1) 8 8 reason }))

/-- Is the dependence of a record met (R300)? -/
def depMet (x : Guest) (r : BitVec 512) : Bool := recF r 378 1 == 0 || decide (recF r 320 56 < (x.queue (recF r 376 2)).done)

/-- The wait of a head as it is read: it began when its dependence was met, if that was after it came to the head (R303, log
52). -/
def headWait (x : Guest) (l : LaunchQueue) (r : BitVec 512) : Nat :=
  if depMet x r = false then 0
  else if recF r 378 1 = 0 then l.waited
  else
    match l.advances.find? (fun e => e.1 == recF r 376 2 && decide (e.2.1 ≤ recF r 320 56) && decide (recF r 320 56 < e.2.2.1)) with
    | some e => l.waited - e.2.2.2
    | none => l.waited

/-- The Porter reads the head record of a queue and makes steps 1 and 2 of R301; a home that serves save traffic only answers no
read (R325). DESIGN CHOICE (log 52): a second-stage failure of the read leaves FREASON 0, as R223 has no reason for it. -/
def readHead (g q : Nat) (s : State) : State :=
  let l := (s.guest g).queue q
  if l.enabled = false ∨ l.faulted ∨ l.headRec.isSome ∨ l.tail = l.head ∨ walkOpen s g (l.slotGva l.head) = false then s
  else
    let gva := l.slotGva l.head
    match ringPlace s g gva .read with
    | .error (.fault r) => faultQueue g q r s
    | .error (.violation _ gpa) => faultQueue g q 0 (s.addViolation 2 3 g gpa gva 0 0 (some g))
    | .error (.absent _) => faultQueue g q 0 s
    | .ok (x, p) =>
      let i := readThrough s g x (x.gpaAt gva) (homeImg s p)
      if reachable s g (x.gpaAt gva) p = false then s
      else
        let s := sendRequest g (x.gpaAt gva) p s
        if tagClass i.tag ≠ 0 then failHead g q 2 s
        else if recordOk q l.head i.bits = false then failHead g q 1 s
        else s.modGuest g (fun y => y.setQueue q { y.queue q with
          headRec := some (i.bits, 0), waited := headWait y (y.queue q) i.bits, advances := [] })

/-- Step 3 of R301: residency within the limits in force, and a row that can place a gang. -/
def recordFits (s : State) (g : Nat) (r : BitVec 512) : Bool :=
  let x := s.guest g
  decide (recF r 256 23 ≤ fld x.gresIn 0 23) && decide (recF r 288 6 ≤ fld x.gresIn 24 6) &&
    (match s.ttActive with
     | none => false
     | some t => someRowPlaces t g (recF r 192 8))

/-- The head of a queue is read and checked; failed heads are retired one after another. -/
def admitHead (g q : Nat) : Nat → State → State
  | 0, s => s
  | n + 1, s =>
    let s := readHead g q s
    let l := (s.guest g).queue q
    match l.headRec with
    | some (r, 0) => if recordFits s g r then s else admitHead g q n (failHead g q 3 s)
    | some _ => s
    | none => if l.enabled && !l.faulted && l.tail != l.head then admitHead g q n s else s

/-- Every queue's head is admitted. -/
def admitAll (g : Nat) (s : State) : State :=
  (List.range 4).foldl (fun s q => admitHead g q (2 * (((s.guest g).queue q).tail - ((s.guest g).queue q).head) + 2) s) s

/-- AGE_LIMIT (R297). -/
def Guest.ageLimit (x : Guest) : Nat := fld (x.reg 0x700) 0 20

/-- The effective priority e of a head (R303). -/
def effPrio (x : Guest) (q : Nat) : Nat :=
  if x.ageLimit = 0 then q else q - (x.queue q).waited / x.ageLimit

/-- The heads that stand in the choice: of enabled, non-FAULTED queues with their dependence met (R303). -/
def readyHeads (x : Guest) : List Nat :=
  (List.range 4).filter (fun q =>
    let l := x.queue q
    l.enabled && !l.faulted && (match l.headRec with
      | some (r, _) => depMet x r
      | none => false))

/-- A head whose wait has reached (q + 1) × AGE_LIMIT (R304). -/
def mayReserve (x : Guest) (q : Nat) : Bool :=
  x.ageLimit != 0 && (readyHeads x).contains q && decide ((q + 1) * x.ageLimit ≤ (x.queue q).waited)

/-- The moment a head began to reserve is recorded, at most `back` µs ago; a head that reserves no longer has none (R304). DESIGN
CHOICE (log 52): a head that stood unread past its threshold begins to reserve at the moment it is read. -/
def Guest.noteReserving (now back q : Nat) (x : Guest) : Guest :=
  let l := x.queue q
  if mayReserve x q = false then x.setQueue q { l with reserving := none }
  else if l.reserving.isNone then x.setQueue q { l with reserving := some (now - Nat.min back (l.waited - (q + 1) * x.ageLimit)) }
  else x

/-- The same for every queue of a guest. -/
def Guest.noteAllReserving (now back : Nat) (x : Guest) : Guest := (List.range 4).foldl (fun x q => x.noteReserving now back q) x

/-- The heads that reserve as of now (R304). -/
def noteReserving (g : Nat) (s : State) : State := s.modGuest g (fun x => x.noteAllReserving s.timeUs 0)

/-- The reserving head that holds the reservation: the first to reserve, ties to the lower queue (R304). -/
def reservingHead (x : Guest) : Option Nat :=
  ((List.range 4).filter (mayReserve x)).foldl (fun (o : Option Nat) q =>
    match o with
    | none => some q
    | some p => if (x.queue q).reserving.getD 0 < (x.queue p).reserving.getD 0 then some q else some p) none

/-! ### Placing gangs (R305, R306, R308) -/

/-- The free cores of a guest in the current row. -/
def freeCores (s : State) (g : Nat) : List Nat :=
  allCores.filter (fun c =>
    let k := s.core c
    decide (k.guest = some g) && decide (k.mode = .idle) && k.place.isNone)

/-- Context slots of a guest in use (R321). -/
def slotsUsed (s : State) (g : Nat) : Nat :=
  (s.cores.filter (fun e => decide (e.2.guest = some g) && e.2.place.isSome)).length +
    (((s.guest g).drained.map (fun d => d.members.length)).sum)

/-- The cores for a gang of a queue head, none when it does not fit now (R305, R321). -/
def headPlace (s : State) (g : Nat) (r : BitVec 512) : Option (List Nat) :=
  let n := recF r 192 8
  if slotsUsed s g + n ≤ fld (s.guest g).gsaveszIn 0 32 then choosePlace (freeCores s g) n else none

/-- A stream at an entry point, at U level, with the handler entry in force (R30, R308, R339). -/
def startStream (entry sentry : Word) : Stream := { Stream.reset with pc := entry, sentry := sentry }

/-- A core at job start (R30, R308); its counters, units and flushed structures stay with the guest. -/
def startCore (x : Guest) (r : BitVec 512) (p : Place) (k : Core) : Core :=
  { Core.reset with
    mode := .run, guest := k.guest, place := some p, units := k.units, pmc := k.pmc, tlb := k.tlb, near := k.near,
    excl := k.excl, donated := k.donated
    a := startStream (word (recF r 0 48)) (x.reg 0x830)
    x := startStream (word (recF r 64 48)) (x.reg 0x838) }

/-- What has been published to the guest stands in the views of a newly placed core (R308). -/
def freshViews (c : Nat) (s : State) : State :=
  (partiesOf c).foldl (fun s p => enterViews (fun r => r.performed && r.pubAt .guest && reachesParty s r p) [p] s) s

/-- A gang of a record starts on its cores, in GIDX order (R305, R308). -/
def startGang (g q seq gnum : Nat) (r : BitVec 512) (cs : List Nat) (s : State) : State :=
  let job : JobId := ⟨q, seq, gnum, ((s.guest g).queue q).epoch⟩
  let n := recF r 192 8
  let s := s.modGuest g (fun x => { x with gangs := x.gangs ++ [⟨job, n, [], []⟩] })
  cs.zipIdx.foldl (fun s ci =>
    let x := s.guest g
    let p : Place := ⟨job, word (recF r 128 48), ci.2, n, ci.2, [], recF r 256 23, recF r 288 6⟩
    freshViews ci.1 (s.modCore ci.1 (startCore x r p))) s

/-- The next gang of a queue's head is placed; with its last gang the record leaves the head (R303). -/
def placeHead (g q : Nat) (cs : List Nat) (s : State) : State :=
  let l := (s.guest g).queue q
  match l.headRec with
  | none => s
  | some (r, n) =>
    let s := startGang g q l.head n r cs s
    let count := recF r 224 32
    s.modGuest g (fun x =>
      let l := x.queue q
      let l := if n = 0 then { l with running := l.running ++ [(l.head, 0, count, recF r 384 8)] } else l
      { x.setQueue q (if n + 1 = count then l.pop q else { l with headRec := some (r, n + 1) }) with lastQueue := q })

/-- The queue after `last` in the order 0, 1, 2, 3, 0 among queues of least effective priority (R303). -/
def chooseQueue (x : Guest) (cand : List Nat) : Option Nat :=
  let best := (cand.map (effPrio x)).min?
  let tied := cand.filter (fun q => some (effPrio x q) == best)
  ((List.range 4).map (fun i => (x.lastQueue + 1 + i) % 4)).find? (fun q => tied.contains q)

/-- The loop of R303 over queue heads, one gang at a time. -/
def placeHeads (g : Nat) : Nat → State → State
  | 0, s => s
  | n + 1, s =>
    let s := noteReserving g (admitAll g s)
    let x := s.guest g
    let cand := match reservingHead x with
      | some q => [q]
      | none => readyHeads x
    let fits := cand.filterMap (fun q => ((x.queue q).headRec.bind (fun r => headPlace s g r.1)).map (fun cs => (q, cs)))
    match chooseQueue x (fits.map (·.1)) with
    | none => s
    | some q =>
      match fits.find? (fun e => e.1 == q) with
      | none => s
      | some (_, cs) => placeHeads g n (placeHead g q cs s)

/-! ### Numbers of cores in the writes (R262) -/

/-- Replace a core's number. -/
def renum (a b n : Nat) : Nat := if n = a then b else n

/-- A core's paths and scratchpad take another number in a write. -/
def WriteRec.renumber (a b : Nat) (r : WriteRec) : WriteRec :=
  { r with
    writer := r.writer.map (fun p => { p with core := renum a b p.core })
    viewers := r.viewers.map (fun p => { p with core := renum a b p.core })
    gangCores := r.gangCores.map (renum a b)
    loc := match r.loc.space with
      | .sp c => { r.loc with space := .sp (renum a b c) }
      | _ => r.loc }

/-- Every write names a core by another number. -/
def renumber (a b : Nat) (s : State) : State := { s with writes := s.writes.map (WriteRec.renumber a b) }

/-- The answer that the driver has given a stream's page fault is applied (R224). -/
def applyAnswer (c : Nat) (t : StreamId) (s : State) : State :=
  let st := s.streamAt c t
  match st.pfault with
  | some ⟨_, _, some false⟩ => s.modStream c t (fun st => { st with pfault := none })
  | some ⟨_, gva, some true⟩ =>
    let s := s.modStream c t (fun st => { st with pfault := none })
    if st.level = .s then
      let s := s.modStream c t (fun st => { st with ended := true })
      if (s.core c).workEnded then gangSettle c s else s
    else takeTrap c t .page (word gva) st.pc .instr s
  | _ => s

/-- The contents of a register up to its highest-written count, zeros under 0x0000 above it (R18, R359). -/
def VReg.upToCount (r : VReg) : VReg :=
  { r with segs := r.segs.filter (fun e => decide (64 * e.1 < r.count)), badParity := r.badParity.filter (fun g => decide (64 * g < r.count)) }

/-- A saved context on a core of its guest (R18, R31, R359, R362). A queued matrix command keeps the lattice reading of its
issue (R168, log 51). -/
def restoreCore (x : Guest) (k saved : Core) : Core :=
  let st := fun (y : Stream) (e : Word) => { y with evf := true, sentry := e }
  { saved with
    mode := .run, guest := k.guest, units := k.units, tlb := [], near := [], excl := [], ask := none, credit := 0,
    qidle := 0, active := false, tally := [], pmcX := [], donated := k.donated
    vec := { saved.vec with v := saved.vec.v.map (fun e => (e.1, e.2.upToCount)) }
    a := st saved.a (x.reg 0x830), x := st saved.x (x.reg 0x838) }

/-- A member of a drained gang takes its core (R306, R362); a restored LDQI reads its remaining indices again (R237, R360). -/
def restoreMember (g : Nat) (m : Parked) (c : Nat) (s : State) : State :=
  let s := renumber m.park c s
  let s := freshViews c (s.modCore c (fun k => restoreCore (s.guest g) k m.core))
  s.modCore c (fun k => { k with slots := k.slots.map (fun e => (e.1, rereadIndices s c e.2)) })

/-- The answers that a member's faults and violations have been given while it was off its core (R224, R337). -/
def heldAnswers (m : Parked) (c : Nat) (s : State) : State :=
  m.answers.foldl (fun s r => answerCore c r.1 r.2 s) (applyAnswer c .x (applyAnswer c .a s))

/-- A drained gang resumes on cores in GIDX order (R306, R362): every member takes its core, the answers held for them are applied
(R193, R194, R224, R337), and what a member that has gone meanwhile held up completes (R288). -/
def restoreGang (g : Nat) (d : Drained) (cs : List Nat) (s : State) : State :=
  let on := d.members.zip cs
  let s := on.foldl (fun s e => restoreMember g e.1 e.2 s) s
  let s := s.modGuest g (fun x => { x with drained := x.drained.filter (fun y => y.job ≠ d.job) })
  cs.foldl (fun s c => gangSettle c s) (on.foldl (fun s e => heldAnswers e.1 e.2 s) s)

/-- Members in the order of their index at placement. -/
def sortMembers (l : List Parked) (n : Nat) : List Parked := (List.range n).filterMap (fun i => l.find? (fun m => m.idx == i))

/-- Drained gangs are placed in the order in which they were drained, once every member is saved (R303, R306, R326), and one that
DONATE drained not before the next edge (R294). A gang of which some members have ended keeps its GSIZE. -/
def placeDrained (g : Nat) (s : State) : State :=
  (s.guest g).drained.foldl (fun s d =>
    if wholeDrained s g d.job = false ∨ d.donated = true then s
    else
      match choosePlace (freeCores s g) d.gsize with
      | none => s
      | some cs => restoreGang g { d with members := sortMembers d.members d.gsize }
          ((sortMembers d.members d.gsize).filterMap (fun m => cs[m.idx]?)) s) s

/-- Does a guest own a core (R302)? -/
def ownsCores (s : State) (g : Nat) : Bool := s.cores.any (fun e => decide (e.2.guest = some g))

/-- One evaluation of the Porter (R302, R303). DESIGN CHOICE (log 52): a head is read and checked in an evaluation alone, so while its
guest owns no core it is not. -/
def porterEvaluate (g : Nat) (s : State) : State :=
  if ownsCores s g then
    (placeHeads g 65 (placeDrained g s)).modGuest g (fun x => { x with due := false })
  else s

/-- The evaluations that are due at this moment (R302). -/
def porterSettle (s : State) : State :=
  ((s.guests.filter (fun e => e.2.due)).map (·.1)).foldl (fun s g => porterEvaluate g s) s

/-- PORTER_EVALUATION (R302, R303). -/
def execPorterEvaluation (guest : Nat) (s : State) : Out := .next (porterEvaluate guest s)

/-- AGE_PRIORITY_CHANGE (R302, R303): the head's effective priority has changed, and the Porter evaluates. -/
def execAgePriorityChange (guest queue : Nat) (s : State) : Out :=
  let x := s.guest guest
  if (readyHeads x).contains queue && effPrio x queue != (x.queue queue).prio then
    .next (porterEvaluate guest (s.modGuest guest (fun x => x.setQueue queue { x.queue queue with prio := effPrio x queue })))
  else .next s

/-- HEAD_RESERVING (R304). -/
def execHeadReserving (guest queue : Nat) (s : State) : Out :=
  if queue < 4 ∧ mayReserve (s.guest guest) queue then .next (porterEvaluate guest (noteReserving guest s)) else .next s

/-- The queues whose head waits: a record stands there, and its dependence is met or, in a head not yet read, not known
(R303, log 52). -/
def waitingHeads (x : Guest) : List Nat :=
  (List.range 4).filter (fun q =>
    let l := x.queue q
    l.tail != l.head && (match l.headRec with
      | some (r, _) => depMet x r
      | none => true))

/-- The waits of queue heads grow while their guest owns a core, and those that begin to reserve in these µs do (R303, R304). -/
def ageHeads (us : Nat) (s : State) : State :=
  { s with guests := s.guests.map (fun e =>
      if ownsCores s e.1 then
        (e.1, ((waitingHeads e.2).foldl (fun x q => x.setQueue q { x.queue q with waited := (x.queue q).waited + us }) e.2).noteAllReserving
          s.timeUs us)
      else e) }

/-! ### LAUNCH (R293) -/

/-- LAUNCH (R293). Its requests for the record leave once, as it no longer waits (R393). -/
def execLaunch (f : RForm) (s : State) : Out :=
  issue (.launch f) (do
    let vs ← readSources [srcA f, srcB f]
    let a := w0 vs
    let q := (w1 vs).toNat
    need (decide (q < 4)) .illegal (w1 vs)
    alignedTo 64 a
    watchAddr 0 false a.toNat 64
    gvaBound a
    let x ← translate .read a.toNat
    let l ← placeOf .read x a.toNat
    waitReads (fun y => y == l)
    modify (fun s => orderAt s.turn.1 l none s)
    let s ← get
    let g := s.guestOf s.turn.1
    let lq := (s.guest g).queue q
    if tagClass (lineSeen s s.turn.1 .a x (x.gpaAt a.toNat) l).tag = 0 ∧ lq.enabled = true ∧ lq.faulted = false then
      waitFor (!lq.full) .ring
      waitFor (postOpen s g q) .home
      waitHomes
    let i ← readLineA x a.toNat l
    need (tagClass i.tag == 0) .tagClass (tagTval i.tag f.a 0)
    need lq.enabled .illegal (w1 vs)
    need (!lq.faulted) .page a
    modify (fun s =>
      let c := s.turn.1
      let s := performOwn c s
      postRecord g q i.bits (publish (inView ⟨c, .a⟩) .guest (gangReach s c) s))) s

end Sys2Proof.Machine
end

