-- ==== Sys2Proof/Machine/Lost.lean ====
section
/-! DEFINITION. Machine/Lost.lean: what the restore of a context reads where a line of it was lost in the save region while the
gang was drained (R361, R369 to R372).

The line is zeros under 0x0200 (R370). DESIGN CHOICE (log 58): a field that lies in it reads as 0, and data with a tag of its own whose
data, tag or count lies in it reads as zeros under 0x0200; the Porter's own account of the gang (its job, the index at
placement) and the full/empty bits, always all full in a context (R21), stay. -/

namespace Sys2Proof.Machine

/-- Does line `n` of a context hold the byte at an offset? -/
def lostAt (n o : Nat) : Bool := o / 64 == n

/-- A field at an offset of a context whose line `n` is lost. -/
def lostOr {α : Type} (n o : Nat) (zero v : α) : α := if lostAt n o then zero else v

/-- A table whose entry `i` lies at offset `off` + `size` × `i`. -/
def lostTab {α : Type} (n off size : Nat) (t : Tab α) : Tab α := t.filter (fun e => !lostAt n (off + size * e.1))

/-- AREA_A or AREA_X without VSTATE (R361). -/
def Stream.lost (n off : Nat) (st : Stream) : Stream :=
  { st with
    s := lostTab n off 8 st.s
    p := lostOr n (off + 0x208) [] st.p
    pc := lostOr n (off + 0x210) 0 st.pc
    tcause := lostOr n (off + 0x218) 0 st.tcause
    tval := lostOr n (off + 0x220) 0 st.tval
    tpc := lostOr n (off + 0x228) 0 st.tpc
    tstat := lostOr n (off + 0x230) 0 st.tstat
    wayf := lostTab n (off + 0x238) 8 st.wayf }

/-- The parts of a stream that HEADER holds: STATE, PHCOUNT, RDVCOUNT, VIOL and PFAULT (R361). -/
def Stream.lostHeader (n : Nat) (st : Stream) : Stream :=
  { st with
    ended := lostOr n 8 false st.ended
    level := lostOr n 8 .u st.level
    frozen := if lostAt n 8 || lostAt n 0x58 then none else st.frozen
    barArrived := lostOr n 8 false st.barArrived
    phCount := lostOr n 0x38 0 st.phCount
    rdvCount := lostOr n 0x40 0 st.rdvCount
    pfault := lostOr n 0x60 none st.pfault }

/-- The segments of a vector register (VTAGS, VDATA). -/
def lostSegments (n r : Nat) (t : Tab Segment) : Tab Segment :=
  t.map (fun e => (e.1, if lostAt n (0x4500 + 32 * r + 2 * e.1) || lostAt n (0xE000 + 1024 * r + 64 * e.1)
    then ⟨0, Config.tagPoison⟩ else e.2))

/-- A vector register; one whose VCOUNT is lost has every segment lost. -/
def VReg.lost (n i : Nat) (r : VReg) : VReg :=
  if lostAt n (0x4900 + 2 * i) then { r with segs := (List.range 16).map (fun g => (g, ⟨0, Config.tagPoison⟩)), count := 1024 }
  else { r with segs := lostSegments n i r.segs }

/-- VSTATE, VTAGS, VCOUNT and VDATA (R361). -/
def Vec.lost (n : Nat) (v : Vec) : Vec :=
  { v with
    v := v.v.map (fun e => (e.1, e.2.lost n e.1))
    vl := lostOr n 0xAB8 0 v.vl
    vtype := lostOr n 0xAC0 0 v.vtype
    vstart := lostOr n 0xAC8 0 v.vstart
    vrstate := lostOr n 0xAD0 0 v.vrstate
    fstat := lostOr n 0xAD8 0 v.fstat }

/-- QMETA, QCOUNT and QDATA (R361). -/
def lostQueues (n : Nat) (q : Tab (List QEntry)) : Tab (List QEntry) :=
  (lostTab n 0x5200 8 q).map (fun e => (e.1, e.2.zipIdx.map (fun x =>
    if lostAt n (0x4A00 + 4 * (64 * e.1 + x.2)) || lostAt n (0x6000 + 64 * (64 * e.1 + x.2))
    then ⟨0, Config.tagPoison, false⟩ else x.1)))

/-- Pins from place `first` of PINS on (R361). -/
def lostPins (n first : Nat) (l : List Xlat) : List Xlat :=
  (l.zipIdx.filter (fun x => !lostAt n (0x1400 + 16 * (first + x.2)))).map (·.1)

/-- SLOTS with their pins (R361). -/
def lostSlots (n : Nat) : Nat → Tab StreamSlot → Tab StreamSlot
  | _, [] => []
  | first, e :: r =>
    let rest := lostSlots n (first + e.2.pins.length) r
    if lostAt n (0x1000 + 64 * e.1) then rest else (e.1, { e.2 with pins := lostPins n first e.2.pins }) :: rest

/-- Copy commands with their pins (R361). -/
def lostCopies (n : Nat) : Nat → Nat → List CopyCmd → List CopyCmd
  | _, _, [] => []
  | i, first, c :: r =>
    let c' := { c with pins := lostPins n first c.pins }
    (if lostAt n (0xC00 + 32 * i) then { c' with src := 0, dst := 0, lines := 0, seqn := 0 } else c') ::
      lostCopies n (i + 1) (first + c.pins.length) r

/-- CQ and CSTATE, with CNEXT and CSEQ (R361). -/
def CopyEngine.lost (n first : Nat) (c : CopyEngine) : CopyEngine :=
  { c with
    cnext := lostOr n 0x68 0 c.cnext
    cseq := lostOr n 0x70 0 c.cseq
    queue := lostCopies n 0 first c.queue
    prog := lostOr n 0xE00 0 c.prog
    halt := if lostAt n 0xE00 || lostAt n 8 then none else c.halt
    frozen := if lostAt n 8 || lostAt n 0x58 then none else c.frozen }

/-- A matrix command at place `i` of MQ (R361). -/
def lostCommand (n i : Nat) (m : MatCmd) : MatCmd :=
  let o := 0xE20 + 40 * i
  { m with
    word := lostOr n o 0 m.word
    av := lostOr n (o + 8) 0 m.av
    bv := lostOr n (o + 16) 0 m.bv
    cv := lostOr n (o + 24) 0 m.cv
    seqn := lostOr n (o + 32) 0 m.seqn }

/-- A tile: the line of TILES that is lost has its granule poisoned, and a tile whose TKIND is lost every granule (R372). -/
def lostTile (n t : Nat) (x : Tile) : Tile :=
  if x.kind ≠ .none ∧ lostAt n (0x48 + t / 4) then { x with poison := List.range 1024 }
  else if x.kind ≠ .none ∧ 0x600 + 1024 * t ≤ n ∧ n < 0x600 + 1024 * (t + 1) then
    { x with poison := listAdd x.poison (n - (0x600 + 1024 * t)) }
  else x

/-- MQ, MSTATE, MPROG and the tiles, with MNEXT and MSEQ (R361). -/
def MatrixEngine.lost (n : Nat) (m : MatrixEngine) : MatrixEngine :=
  { m with
    mnext := lostOr n 0x78 0 m.mnext
    mseq := lostOr n 0x80 0 m.mseq
    queue := m.queue.zipIdx.map (fun x => lostCommand n x.2 x.1)
    step := lostOr n 0xAE0 0 m.step
    halt := if lostAt n 0xF60 || lostAt n 8 then none else m.halt
    gdone := lostOr n 0xF60 false m.gdone
    gstatus := lostOr n 0xF60 0 m.gstatus
    gbar := lostOr n 0xF60 0 m.gbar
    acc := m.acc.map (fun e => (e.1, lostTile n e.1 e.2)) }

/-- A slot of the pattern book: PBOOK and PBSTATE (R361). -/
def lostBook (n i : Nat) (b : BookSlot) : BookSlot :=
  let b := { b with entries := lostOr n (0x2400 + 32 * i) 0 b.entries }
  if lostAt n (0x4400 + i) then { b with state := .unloaded, vclass := 0 } else b

/-- PLACE, ARGP, RES and SPLITS of HEADER (R361). -/
def Place.lost (n : Nat) (p : Place) : Place :=
  { p with
    argp := lostOr n 0x18 0 p.argp
    gidx := lostOr n 0x10 0 p.gidx
    gsize := lostOr n 0x10 0 p.gsize
    splits := lostOr n 0x30 [] p.splits
    spBytes := lostOr n 0x28 0 p.spBytes
    tiles := lostOr n 0x28 0 p.tiles }

/-- A scratchpad line of a saved core takes another contents. -/
def Core.putScratch (i : LineImg) (k : Core) (l : Nat) : Core :=
  { k with
    sp := memWrite k.sp (64 * l) 64 i.bits.toNat
    spTags := tabPut k.spTags l i.tag
    spMarks := setMark k.spMarks l i.mark }

/-- The scratchpad line whose place in SCRATCH is line `n`: of a granule that the context holds (R359, R361). -/
def lostScratch (k : Core) (dirty : List Nat) (n : Nat) : List Nat :=
  let l := n - (0x600 + 1024 * k.placeD.tiles)
  if 0x600 + 1024 * k.placeD.tiles ≤ n ∧ l / 64 ∈ dirty then [l] else []

/-- The scratchpad lines of the granules that the context holds whose bit of DIRTY is lost. -/
def lostGranules (dirty : List Nat) (n : Nat) : List Nat :=
  (dirty.filter (fun i => lostAt n (0x100 + i / 8))).flatMap (fun i => (List.range 64).map (fun j => 64 * i + j))

/-- A saved core as its restore reads it after line `n` of its context is lost. -/
def Core.lost (dirty : List Nat) (n : Nat) (k : Core) : Core :=
  let slots := (k.slots.map (fun e => e.2.pins.length)).sum
  let k' := { k with
    place := k.place.map (Place.lost n)
    a := (k.a.lost n 0x400).lostHeader n
    x := (k.x.lost n 0x800).lostHeader n
    vec := k.vec.lost n
    q := lostQueues n k.q
    copy := k.copy.lost n slots
    mat := k.mat.lost n
    book := k.book.map (fun e => (e.1, lostBook n e.1 e.2))
    pmc := lostTab n 0x180 8 k.pmc
    slots := lostSlots n 0 k.slots
    bars := k.bars.filter (fun e => !(lostAt n (0x90 + 5 * e.1) || lostAt n (0x94 + 5 * e.1)))
    arrival := lostOr n 8 none k.arrival }
  (lostScratch k dirty n ++ lostGranules dirty n).foldl (Core.putScratch ⟨0, Config.tagPoison, false⟩) k'

/-- The saved contexts whose slot in the save region holds a line of HBM: the guest, and the context. -/
def savedAt (s : State) (line : Nat) : List (Nat × Parked) :=
  s.guests.flatMap (fun e => (e.2.drained.flatMap Drained.members).filterMap (fun m =>
    match m.slot with
    | some i =>
      let a := saveHpa e.2 i
      if a ≤ 64 * line ∧ 64 * line < a + contextBound e.2.gresIn then some (e.1, m) else none
    | none => none))

/-- Line `n` of a saved context is lost: its restore reads it so, and the writes to a scratchpad line that lay in it are gone. -/
def losePart (g n : Nat) (m : Parked) (s : State) : State :=
  let dirty := ctxDirty s m.park m.core
  let gone := lostScratch m.core dirty n ++ lostGranules dirty n
  let s := { s with writes := s.writes.filter (fun r => !(decide (r.loc.space = Space.sp m.park) && r.performed && gone.contains r.loc.line)) }
  s.modGuest g (fun x => { x with drained := x.drained.map (fun d => { d with members := d.members.map (fun y =>
    if y.park = m.park then { y with core := Core.lost dirty n y.core } else y) }) })

/-- Every saved context that holds a line of HBM loses it. -/
def loseContexts (line : Nat) (s : State) : State :=
  (savedAt s line).foldl (fun s e => losePart e.1 (line - saveHpa (s.guest e.1) (e.2.slot.getD 0) / 64) e.2 s) s

/-- A saved context of a guest that its ways hold (R321), by number. -/
def pinnedSave (s : State) (g park : Nat) : Option Parked :=
  ((s.guest g).drained.flatMap Drained.members).find? (fun m => m.park == park && m.slot.isNone)

end Sys2Proof.Machine
end

