-- ==== Sys2Proof/Machine/Retire.lean ====
section
/-! DEFINITION. Machine/Retire.lean: the outcomes of detected errors (R370 to R372), and the retirements that a core
makes in CLEAR (R183, R377, R378). -/

namespace Sys2Proof.Machine

/-! ### Detected errors (R370) -/

/-- The guest whose carve-out holds an HPA. -/
def guestOfHpa (s : State) (hpa : Nat) : Option Nat :=
  (s.guests.find? (fun e => e.2.en && decide (e.2.base * 65536 ≤ hpa) && decide (hpa < (e.2.base + e.2.bound) * 65536))).map (·.1)

/-- A line is lost: whatever writes have performed there are gone with it, published or not, and it becomes zeros under 0x0200;
only a write that has still to reach it comes after (R370, R371). -/
def loseLine (l : Loc) (s : State) : State :=
  setBase l ⟨0, Config.tagPoison, false⟩ { s with writes := s.writes.filter (fun r => decide (r.loc ≠ l) || !r.performed) }

/-- A line of HBM becomes zeros under 0x0200 (R370, R371), for the restore of a context that lies there too. A line that held
granules holds four (R217, log 54). -/
def poisonLine (line : Nat) (s : State) : State :=
  let l : Loc := ⟨.hbm, line⟩
  let g := (guestOfHpa s (64 * line)).getD 0
  loseContexts line (holdGranules g l (if s.held l = 0 then 0 else 4) (loseLine l s))

/-- The error record of a line of HBM, an LLC or a near cache. -/
def lineRecord (s : State) (line type unit sev action : Nat) : ErrRec :=
  ⟨s.timeUs, 64 * line, guestOfHpa s (64 * line), 0, unit, line / 64 % 8, type, sev, action⟩

/-- A scratchpad line of a core becomes zeros under 0x0200 with its mark clear (R370, R371). -/
def poisonScratch (c line : Nat) (s : State) : State := loseLine ⟨.sp c, line⟩ s

/-- Does an HPA line exist (R11)? -/
def lineExists (line : Nat) : Bool := decide (64 * line < Config.hbmBytes)

/-- The HBM stack of a base die that holds a line: HPA[15] (R204). -/
def hbmUnit (line : Nat) : Nat := line / 64 / 8 % 2

/-- Has a core written a line that it holds exclusively, in a way that its home does not hold yet (R205, R370)? -/
def nearDirty (s : State) (core : Nat) (l : Loc) : Bool :=
  decide (l ∈ (s.core core).excl) && s.writes.any (fun r => decide (r.loc = l) && r.performed && decide (r.writer.map Party.core = some core))

/-- Does a cache hold a line newer than HBM (R205, R370)? -/
def newerHeld (s : State) (line : Nat) : Bool :=
  s.llcDirty.any (fun e => e.2.2 == line) || s.cores.any (fun e => nearDirty s e.1 ⟨.hbm, line⟩)

/-- The home's own copy of a line is lost: zeros under 0x0200, unless a cache holds a newer one, which stays (R205, R370, R379). -/
def loseHome (line : Nat) (s : State) : State := if newerHeld s line then s else poisonLine line s

/-- An error that a check detects, with its outcome and its record (R370, R373). A cached line is clean or dirty as the machine has
it; one that is not held meets none, and a line of HBM that a cache holds newer stays as the cache has it. DESIGN CHOICE (log 58): a
saved context in its reservation is dirty, and the record of its error has ADDR 0. -/
def takeUpset (u : Upset) (s : State) : State :=
  match u with
  | .hbm line ok =>
    let r := lineRecord s line 7 (hbmUnit line) (b2n !ok) (if ok then 1 else 3)
    let s := countErrorAt (hbmUnit line + 2 * Config.hbmRow line) r (writeError r s)
    if ok then s else loseHome line s
  | .llc stack line ok bus =>
    let held := s.llc.filter (fun e => e.1 == stack && e.2.2 == line)
    let dirty := held.any (fun e => e ∈ s.llcDirty)
    if held.isEmpty then s
    else
      let r := lineRecord s line (if bus then 6 else 5) (bankOf s stack line) (b2n !ok) (if ok then 1 else if dirty then 3 else 2)
      let s := detectError { r with place := stack } s
      if ok then s
      else
        let s := dropLlcLines held s
        if dirty then loseHome line s else s
  | .save g park line ok bus =>
    match pinnedSave s g park with
    | none => s
    | some m =>
      let s := detectError ⟨s.timeUs, 0, some g, 0, Config.saveBank park line % 128, m.stack, if bus then 6 else 5, b2n !ok,
        if ok then 1 else 3⟩ s
      if ok then s else losePart g line m s
  | .near core line ok =>
    let l : Loc := ⟨.hbm, line⟩
    let dirty := nearDirty s core l
    if l ∉ (s.core core).near then s
    else
      let r := lineRecord s line 5 (bankOf s (homeStack line) line) (b2n !ok) (if ok then 1 else if dirty then 3 else 2)
      let s := writeError { r with guest := (s.core core).guest } s
      if ok then s
      else
        let s := s.modCore core (fun k => { k with near := listDel k.near l, excl := listDel k.excl l })
        if dirty then poisonLine line s else s
  | .scratch core line ok =>
    let s := detectError ⟨s.timeUs, 64 * line, (s.core core).guest, 0, Config.spBank line, core, 3, b2n !ok, if ok then 1 else 3⟩ s
    if ok then s else poisonScratch core line s
  | .acc core tile granule ok =>
    let s := detectError ⟨s.timeUs, 65536 * tile + 64 * granule, (s.core core).guest, 0, Config.accBank tile granule, core, 4,
      b2n !ok, if ok then 1 else 3⟩ s
    if ok then s
    else s.modCore core (fun k =>
      let t := tabGet ⟨.none, [], []⟩ k.mat.acc tile
      { k with mat := { k.mat with acc := tabPut k.mat.acc tile { t with poison := listAdd t.poison granule } } })
  | .segment core reg seg =>
    s.modCore core (fun k =>
      let r := tabGet ⟨[], 0, false, []⟩ k.vec.v reg
      { k with vec := { k.vec with v := tabPut k.vec.v reg { r with badParity := listAdd r.badParity seg } } })

/-- An error in a structure that exists. -/
def applyUpset (u : Upset) (s : State) : State :=
  let ok := match u with
    | .hbm line _ => lineExists line
    | .llc _ line _ _ => lineExists line
    | .save g _ line _ _ => decide (g < Config.guests) && decide (64 * line < contextBound (s.guest g).gresIn)
    | .near _ line _ => lineExists line
    | .scratch core line _ => decide (core < Config.cores) && decide (64 * line < Config.spBytes)
    | .acc core tile granule _ => decide (core < Config.cores) && decide (tile < Config.tiles) && decide (granule < 1024)
    | .segment core reg seg => decide (core < Config.cores) && decide (reg < 32) && decide (seg < 16)
  if ok then takeUpset u s else s

/-! ### Retirement of lane groups and block units (R377, R378) -/

/-- A structure counts again from zero, unmarked. -/
def clearCount (e : ErrCount) (s : State) : State := setErrCounter { e with times := [], marked := false, edge := false } s

/-- The record of a retirement: SEV 3, or SEV 4 when it cannot be made. -/
def retireRecord (s : State) (c : Nat) (e : ErrCount) (done : Bool) : ErrRec :=
  ⟨s.timeUs, 0, none, 0, e.unit, c, e.type, if done then 3 else 4, 0⟩

/-- A marked lane group of a core is retired: the logical lane groups halve (R377, R378). -/
def retireLane (c : Nat) (e : ErrCount) (s : State) : State :=
  let u := (s.core c).units
  let done := decide (1 < u.lanes)
  let s := clearCount e s
  let s := if done then s.modCore c (fun k => { k with units :=
      { u with lanesOut := u.lanesOut ||| BitVec.ofNat 16 (2 ^ e.unit), lanes := u.lanes / 2 } }) else s
  writeError (retireRecord s c e done) s

/-- A marked block unit of a core is retired (R377, R378). -/
def retireUnit (c : Nat) (e : ErrCount) (s : State) : State :=
  let u := (s.core c).units
  let done := decide (u.unitsOut = 0)
  let s := clearCount e s
  let s := if done then s.modCore c (fun k => { k with units := { u with unitsOut := BitVec.ofNat 7 (2 ^ e.unit) } }) else s
  writeError (retireRecord s c e done) s

/-- Written values that waited for an edge enter the registers that a test selects (R332, R386, R391). -/
def applyPending (sel : Nat → Bool) (s : State) : State :=
  let s' := (s.pendPf.filter (fun e => sel e.1)).foldl (fun s e => s.setPf e.1 e.2) s
  { s' with pendPf := s.pendPf.filter (fun e => !sel e.1) }

/-- The retirements that a core makes in CLEAR at an edge at which it changes hands or goes idle; a unit out by R183 returns to
service, and schedules written since take effect (R377, R378, R391). -/
def retireCore (c : Nat) (s : State) : State :=
  let s := applyPending (fun off => decide (mschedOff c 0 ≤ off) && decide (off < mschedOff c 8)) s
  let s := s.modCore c (fun k => { k with units := { k.units with quarantined := none } })
  let marked := s.errCounts.filter (fun e => e.marked && e.place == c && (e.type == 1 || e.type == 2))
  marked.foldl (fun s e => if e.type = 1 then retireLane c e s else retireUnit c e s) s

end Sys2Proof.Machine
end

