-- ==== Sys2Proof/Machine/Slots.lean ====
section
/-! DEFINITION. Machine/Slots.lean: slot edges, contexts, DONATE, the Timetable's commit and validation, and the enabling
of guests (R294, R306, R307, R315 to R333). -/

namespace Sys2Proof.Machine

/-! ### TTCTL and TTSTAT (R316) -/

/-- Offsets of TTCTL, TTSTAT and TTOVR. -/
def ttctlOff : Nat := 0x20000
def ttstatOff : Nat := 0x20008
def ttovrOff : Nat := 0x20010

/-- Set a field of a register of the physical function. -/
def State.setPfFld (s : State) (off lo n v : Nat) : State := s.setPf off (setFld (s.pfReg off) lo n v)

/-- The vector of TTCTL (R316). -/
def ttVector (s : State) : State := raisePf (fld (s.pfReg ttctlOff) 16 8) s

/-! ### Fit of an edge (R320, R326) -/

/-- B(c) of R320 for an outgoing guest of a row, under the residency limits `gres`. -/
def drainBytes (gres : Nat → Word) (t : Timetable) (g : Nat) : Nat :=
  let own := contextBound (gres g)
  match (guestEntry t.rows t.row g).bind tenDonee with
  | some d => Nat.max own (contextBound (gres (tenGuest (tenant t.rows t.row d))))
  | none => own

/-- The cores of a stack that L and H count: every core whose guest owns a core of the package that changes hands (R320). -/
def countedCores (t t' : Timetable) (st : Nat) : List (Nat × Nat) :=
  let moving := allCores.filter (changesHands t t')
  ((List.range 8).map (fun p => 8 * st + p)).filterMap (fun c =>
    match rowOwner t.rows t.row c with
    | none => none
    | some g => if moving.any (fun m => rowOwner t.rows t.row m == some g) then some (c, g) else none)

/-- Does the edge between two rows fit in a stack (R320)? Retired banks take their share of the 10 TB/s, and a reservation that
has lost its room sends its saves to HBM (R326, log 53). -/
def edgeFitsStack (s : State) (gres : Nat → Word) (t t' : Timetable) (st : Nat) : Bool :=
  let cs := countedCores t t' st
  let ways := fun (g : Nat) => ((guestEntry t.rows t.row g).map tenWays).getD 0
  let inWays := fun (g : Nat) => savesInStack s gres (ways g) g st
  let l := ((cs.filter (fun c => inWays c.2)).map (fun c => drainBytes gres t c.2)).sum
  let h := ((cs.filter (fun c => !inWays c.2)).map (fun c => drainBytes gres t c.2)).sum
  let work := 128 - banksOut s st
  let l := if work = 0 then l * 128 else l * 128 / work
  decide (30000000 + 2 * l + 5 * h ≤ 20000000 * rowDrain t.rows t.row)

/-- The lowest stack in which an edge fails. -/
def edgeFails (s : State) (gres : Nat → Word) (t t' : Timetable) : Option Nat :=
  (List.range 8).find? (fun st => !edgeFitsStack s gres t t' st)

/-- The first edge of a table that fails: its row and stack. -/
def tableEdgeFails (s : State) (gres : Nat → Word) (t : Timetable) : Option (Nat × Nat) :=
  (List.range (t.lastRow + 1)).findSome? (fun r =>
    let r' := if r < t.lastRow then r + 1 else 0
    (edgeFails s gres { t with row := r } { t with row := r' }).map (fun st => (r, st)))

/-- After a retirement every edge of the active table is checked again (R326). -/
def recheckEdges (s : State) : State :=
  match s.ttActive with
  | none => s
  | some t =>
    match tableEdgeFails s (fun g => (s.guest g).gresIn) t with
    | none => s
    | some (r, st) =>
      ttVector ((((s.setPfFld ttstatOff 45 1 1).setPfFld ttstatOff 40 4 8).setPfFld ttstatOff 31 9 r).setPfFld ttstatOff 24 7 st)

/-! ### Validation (R319) -/

/-- Bytes of a row that must be zero. -/
def zeroIn (rows : Memory) (r off n : Nat) : Bool := rowRead rows r off n == 0

/-- Reserved bits of a tenant entry. -/
def entryReserved (rows : Memory) (r i : Nat) : Bool :=
  let e := tenant rows r i
  fld e 48 16 != 0 || bit e 46 || fld e 38 2 != 0 || fld e 7 9 != 0 || !zeroIn rows r (128 + 48 * i + 40) 8

/-- The failure of one reason in one row: ERRIDX. -/
def rowFailure (rows : Memory) (r : Nat) (reason : Nat) : Option Nat :=
  let n := rowTenants rows r
  let hd := rowRead rows r 0 8
  let es := List.range n
  let ent := tenant rows r
  if reason = 1 then
    let d := hd / 2 ^ 20 % 32
    if rowDur rows r < 100 ∨ d = 1 ∨ 21 ≤ d then some 0 else none
  else if reason = 2 then
    if hd / 2 ^ 38 ≠ 0 ∨ hd / 2 ^ 25 % 2 ^ 7 ≠ 0 ∨ zeroIn rows r 8 8 = false ∨ zeroIn rows r 80 48 = false then some 0
    else
      (List.range 64).find? (fun i => if i < n then entryReserved rows r i else !zeroIn rows r (128 + 48 * i) 48)
  else if reason = 3 then allCores.find? (fun c => rowMap rows r c != 0xFF && decide (n ≤ rowMap rows r c))
  else if reason = 4 then
    es.find? (fun i => (List.range i).any (fun j => tenGuest (ent j) == tenGuest (ent i)))
  else if reason = 6 then
    ((List.range 16).find? (fun h => decide (256 < (es.map (fun i => rowRead rows r (128 + 48 * i + 8 + h) 1)).sum))).or
      ((List.range 16).find? (fun j => decide (256 < (es.map (fun i => rowRead rows r (128 + 48 * i + 24 + j) 1)).sum)))
  else if reason = 7 then
    es.find? (fun i =>
      match tenDonee (ent i) with
      | none => false
      | some d => d == i || decide (n ≤ d) || tenGroup (ent d) != tenGroup (ent i))
  else none

/-- Reason 5: a guest's ways differ from an earlier entry of it, or overlap an earlier entry of another guest. -/
def waysFailure (rows : Memory) (last : Nat) : Option (Nat × Nat) :=
  let all := (List.range (last + 1)).flatMap (fun r => (List.range (rowTenants rows r)).map (fun i => (r, i, tenant rows r i)))
  (all.zipIdx.find? (fun x =>
    (all.take x.2).any (fun y =>
      let a := x.1.2.2
      let b := y.2.2
      if tenGuest a = tenGuest b then tenWays a != tenWays b else tenWays a &&& tenWays b != 0))).map (fun x => (x.1.1, x.1.2.1))

/-- Reason 9: a guest's save slots against the cores it owns and those of its donors in a row. -/
def saveFailure (rows : Memory) (save : Nat → Word) (r : Nat) : Option Nat :=
  (List.range (rowTenants rows r)).find? (fun i =>
    let g := tenGuest (tenant rows r i)
    let donors := (List.range (rowTenants rows r)).filter (fun j => tenDonee (tenant rows r j) == some i)
    let n := (rowCores rows r g).length + (donors.map (fun j => (rowCores rows r (tenGuest (tenant rows r j))).length)).sum
    decide (fld (save g) 0 32 < n))

/-- The first failure of a shadow: REASON, ERRROW and ERRIDX (R319). -/
def validate (s : State) (rows : Memory) (last : Nat) (gres save : Nat → Word) : Option (Nat × Nat × Nat) :=
  let rs := List.range (last + 1)
  let byRow := fun (reason : Nat) => rs.findSome? (fun r => (rowFailure rows r reason).map (fun i => (reason, r, i)))
  let t : Timetable := ⟨rows, last, 0, 0⟩
  ((([1, 2, 3, 4].findSome? byRow).or ((waysFailure rows last).map (fun x => (5, x.1, x.2)))).or ([6, 7].findSome? byRow)).or
    (((tableEdgeFails s gres t).map (fun x => (8, x.1, x.2))).or
      ((rs.findSome? (fun r => (saveFailure rows save r).map (fun i => (9, r, i)))).or
        (match s.ttActive with
         | none => none
         | some a => (edgeFails s gres { a with row := a.lastRow } t).map (fun st => (10, a.lastRow, st)))))

/-- Is COMMIT or PENDING 1 (R316)? -/
def ttBusy (s : State) : Bool := bit (s.pfReg ttctlOff) 31 || s.ttNext.isSome

/-- The residency and save registers of every guest as they stand: GRES, GSAVESZ, GSAVE (R319, R321). -/
def residencyNow (s : State) : List (Nat × Word × Word × Word) := s.guests.map (fun e => (e.1, e.2.gres, e.2.gsavesz, e.2.gsave))

/-- A write of TTCTL (R316, R319): VEC is stored; LASTROW is stored, or dropped with
REASON 6 while COMMIT or PENDING is 1; COMMIT starts a validation, also while an accepted shadow is pending. -/
def execTtctlCommit (value : Word) (s : State) : Out :=
  let old := s.pfReg ttctlOff
  let busy := ttBusy s
  let v := setFld old 16 8 (fld value 16 8)
  let v := if busy then v else setFld v 0 9 (fld value 0 9)
  let s := if busy && fld value 0 9 != fld old 0 9 then hostError .pf 0 ttctlOff 6 s else s
  if bit value 31 && !bit old 31 then .next { s.setPf ttctlOff (setFld v 31 1 1) with ttCommit := residencyNow s }
  else .next (s.setPf ttctlOff v)

/-- The limits and the save regions that a commit carried take effect (R321). -/
def takeResidency (l : List (Nat × Word × Word × Word)) (s : State) : State :=
  l.foldl (fun s e => s.modGuest e.1 (fun x => { x with gresIn := e.2.1, gsaveszIn := e.2.2.1, gsaveIn := e.2.2.2 })) s

/-- Is a drained gang, or the rest of a head record, placed in no row of a table (R301, R307)? -/
def isStranded (t : Timetable) (g : Nat) (x : Guest) : Bool :=
  x.drained.any (fun d => !someRowPlaces t g d.gsize) ||
    (List.range 4).any (fun q => match (x.queue q).headRec with
      | some (r, n) => n != 0 && !someRowPlaces t g (recF r 192 8)
      | none => false)

/-- A table becomes active: GEN, and the guests that it strands (R307, R316). -/
def activate (t : Timetable) (s : State) : State :=
  let s := { (s.setPfFld ttstatOff 48 16 (fld (s.pfReg ttstatOff) 48 16 + 1)).setPfFld ttstatOff 47 1 0 with
    ttActive := some t, ttNext := none }
  (s.guests.filter (fun e => e.2.en && isStranded t e.1 e.2)).foldl (fun s e => strand e.1 s) s

/-! ### The slot edge (R322) -/

/-- The cores that drain at the edge ahead: those that change hands, donated ones, and those of a gang with a member on
one of them (R306, R322, R328). -/
def drainingCores (t t' : Timetable) (s : State) : List Nat :=
  let direct := (s.cores.filter (fun e => e.2.guest.isSome && (changesHands t t' e.1 || e.2.donated.isSome))).map (·.1)
  (s.cores.filter (fun e => e.2.guest.isSome &&
    (direct.contains e.1 || direct.any (fun d => sameJobGang (s.core d) e.2)))).map (·.1)

/-- A core stops: its streams, engines and counters (R322, R323). One that is draining for a donation drains for the edge from
now on (R328). -/
def stopCore (c : Nat) (s : State) : State :=
  let k := s.core c
  if k.mode = .run ∨ k.mode = .idle then (countTally c s).modCore c (fun k => { k with mode := .stop, donated := none })
  else s.modCore c (fun k => { k with donated := none })

/-- SLOT_STOP (R322). -/
def execSlotStop (s : State) : Out :=
  match s.ttActive with
  | none => .next s
  | some t =>
    if inDrain t s.timeUs then .next ((drainingCores t (nextRow t s.ttNext) s).foldl (fun s c => stopCore c s) s)
    else .next s

/-- Has every party of a core stopped: register producers, PENDING slots, and scattered elements from and to it (R323)? -/
def partiesStopped (s : State) (c : Nat) : Bool :=
  let k := s.core c
  k.producers.isEmpty && k.scatters.isEmpty && k.book.all (fun e => decide (e.2.state ≠ .pending)) &&
    s.cores.all (fun e => e.2.scatters.all (fun x => x.member != c))

/-- A number for a context that is off its core. -/
def freshPark (s : State) : Nat :=
  let held := s.guests.flatMap (fun e => e.2.drained.flatMap (fun d => d.members.map Parked.park))
  let used := s.writes.flatMap (fun r => (match r.loc.space with | .sp c => [c] | _ => []) ++ r.viewers.map Party.core ++
    r.gangCores ++ (match r.writer with | some p => [p.core] | none => []))
  (held ++ used).foldl (fun n m => Nat.max n (m + 1)) 64

/-- The lowest free context slot of a guest's save region. -/
def freeSaveSlot (x : Guest) : Nat :=
  let used := x.drained.flatMap (fun d => d.members.filterMap Parked.slot)
  ((List.range (used.length + 1)).find? (fun i => !used.contains i)).getD 0

/-- Is a context of a core saved into the ways of its own stack, or into the save region (R321, R326)? -/
def savesInWays (s : State) (g c : Nat) : Bool :=
  match s.ttActive with
  | none => false
  | some t => savesInStack s (fun g => (s.guest g).gresIn) (guestWays t g) g (c / 8)

/-- A context joins the drained gangs of its guest. A gang is drained when its last member is saved: these are in the order of
their latest saves (R306, R326). -/
def Guest.park (x : Guest) (j : JobId) (n : Nat) (donated : Bool) (m : Parked) : Guest :=
  let old := (x.drained.find? (fun d => decide (d.job = j))).getD ⟨j, n, [], false⟩
  { x with drained := x.drained.filter (fun d => decide (d.job ≠ j)) ++
      [{ old with members := old.members ++ [m], donated := old.donated || donated }] }

/-- GSIZE of a job's gang at placement. -/
def gangSize (x : Guest) (j : JobId) (d : Nat) : Nat := ((gangOf x j).map Gang.gsize).getD d

/-- The part of a core that a save keeps (R167, R192, R237, R360, R361): lines that a slot has read ahead and a matrix
command's place and index vector are read again after the restore. -/
def savedCore (k : Core) : Core :=
  { k with mat := { k.mat with queue := k.mat.queue.map MatCmd.held } }

/-- The context of a stopped core is written (R262, R322, R361). -/
def saveContext (c : Nat) (s : State) : State :=
  let s := (returnCredit c (performOwn c (fixGathersFrom c s))).modCore c savedCore
  let k := s.core c
  let g := s.guestOf c
  let p := freshPark s
  let x := s.guest g
  let slot := if savesInWays s g c then none else some (freeSaveSlot x)
  let s := match slot with
    | some i => writeContext (saveHpa x i) c k (contextBound x.gresIn) s
    | none => s
  let s := renumber c p s
  let s := llcTrim (c / 8) (s.modGuest g (fun x => x.park k.placeD.job (gangSize x k.placeD.job k.placeD.gsize) k.donated.isSome
    ⟨k.placeD.gidx0, p, slot, c / 8, k, []⟩))
  strandDrained g k.placeD.job (s.modCore c (fun k => { k with place := none }))

/-- CONTEXT_SAVE (R322, R361). -/
def execContextSave (core : Nat) (s : State) : Out :=
  let k := s.core core
  if decide (k.mode = .stop) && partiesStopped s core then
    let s := if k.place.isSome then saveContext core s else s
    .next (s.modCore core (fun k => { k with mode := .clear }))
  else .next s

/-- The donee of a guest in the row in force (R318, R328). -/
def doneeOf (s : State) (g : Nat) : Option Nat :=
  match s.ttActive with
  | none => none
  | some t => ((guestEntry t.rows t.row g).bind tenDonee).map (fun d => tenGuest (tenant t.rows t.row d))

/-- The guest that the next edge gives a core (R315, R322). -/
def tenantAfter (s : State) (c : Nat) : Option Nat :=
  match s.ttActive with
  | none => none
  | some t => rowOwner (nextRow t s.ttNext).rows (nextRow t s.ttNext).row c

/-- A core goes to a guest, idle; VLCAP is 1,024 unless it is that guest's own (R115). -/
def Core.toTenant (g : Nat) (k : Core) : Core :=
  { k with mode := .idle, guest := some g, units := if k.units.tenant = some g then k.units else { k.units with vlcap := 1024, tenant := some g } }

/-- CONTEXT_CLEAR (R322, R327, R328): the core is cleared; VLCAP stays where the next edge gives the core the same tenant
(R115), and otherwise the pending retirements apply (R377), but not in a donation; a donated core goes to the donee at
once. -/
def execContextClear (core : Nat) (s : State) : Out :=
  let k := s.core core
  if k.mode = .clear then
    match k.donated with
    | none =>
      let same := k.guest.isSome && decide (tenantAfter s core = k.guest)
      let s := s.modCore core (clearedCore same)
      .next (if same then s else retireCore core s)
    | some g =>
      let s := s.modCore core (clearedCore false)
      match doneeOf s g with
      | none => .next s
      | some d =>
        if (s.guest d).en then
          .next (porterDue d (s.modCore core (fun k => { k.toTenant d with donated := some g })))
        else .next s
  else .next s

/-- Pending GBASE and GBOUND values of a guest, and its aperture entries, take effect (R332, R386). -/
def applySecondStage (g : Nat) (s : State) : State :=
  let s := s.modGuest g (fun x => { x with
    base := x.pendBase.getD x.base, bound := x.pendBound.getD x.bound, pendBase := none, pendBound := none })
  applyPending (fun off => (decide (0x80000 ≤ off) && decide (off < 0x90000)) && off / 0x100 % 0x80 == g) s

/-- Is an edge a slot start of a guest: it owned no core before, and owns one after (R332)? -/
def slotStarts (t t' : Timetable) (held : List Nat) (g : Nat) : Bool :=
  (rowCores t.rows t.row g).isEmpty && !held.contains g && !(rowCores t'.rows t'.row g).isEmpty

/-- A slot ends: the gangs that DONATE drained in it may be placed (R294). -/
def endDonations (s : State) : State :=
  { s with guests := s.guests.map (fun e => (e.1, { e.2 with drained := e.2.drained.map (fun d => { d with donated := false }) })) }

/-- A core in HOLD, or one that no guest owns, takes the tenant of the incoming row (R318, R322). -/
def giveCore (t : Timetable) (c : Nat) (s : State) : State :=
  let k := s.core c
  if k.guest.isNone ∧ (k.mode = .hold ∨ k.mode = .idle) then
    match rowOwner t.rows t.row c with
    | none => s
    | some g => if (s.guest g).en then s.modCore c (Core.toTenant g) else s
  else s

/-- Contexts left in a reservation go to the save region: those of a guest that a test selects (R321, R379). -/
def moveReserved (sel : Parked → Bool) (g : Nat) (s : State) : State :=
  (s.guest g).drained.foldl (fun s d => d.members.foldl (fun s m =>
    if m.slot.isSome || !sel m then s
    else
      let x := s.guest g
      let i := freeSaveSlot x
      let s := writeContext (saveHpa x i) m.park m.core (contextBound x.gresIn) s
      s.modGuest g (fun x => { x with drained := x.drained.map (fun d' => { d' with members := d'.members.map (fun n =>
        if n.park = m.park then { n with slot := some i } else n) }) })) s) s

/-- The guests that own cores, each once. -/
def owningGuests (s : State) : List Nat := (s.cores.filterMap (fun e => e.2.guest)).eraseDups

/-- A core of no guest that changes hands at an edge takes the pending retirements, and a unit out by R183 returns to service
(R183, R377). -/
def decideUnits (t t' : Timetable) (c : Nat) (s : State) : State :=
  let k := s.core c
  if k.guest.isNone && (decide (k.mode = .hold) || decide (k.mode = .idle)) && changesHands t t' c then retireCore c s else s

/-- The cores that E finds outside HOLD though they drain at it (R322, R326): those in STOP or CLEAR, and those that have not
stopped, which stop now. -/
def overrunCores (t t' : Timetable) (s : State) : List Nat :=
  (s.cores.filter (fun e => decide (e.2.mode = .stop) || decide (e.2.mode = .clear) ||
    (decide (e.2.mode ≠ .hold) && (drainingCores t t' s).contains e.1))).map (·.1)

/-- SLOT_RESTORE (R319, R322, R326, R332): the edge E. The retirements that wait for an edge of the table may now be made
(R377). -/
def execSlotRestore (s : State) : Out :=
  match s.ttActive with
  | none => .next s
  | some t =>
    if s.timeUs < edgeTime t then .next s
    else
      let t' := nextRow t s.ttNext
      let overrun := overrunCores t t' s
      let s := overrun.foldl (fun s c => stopCore c s) s
      let held := overrun.filterMap (fun c => (s.core c).guest)
      let s := if overrun.isEmpty then s
        else ttVector ((s.setPf ttovrOff (overrun.foldl (fun v c => v ||| word (2 ^ (c % 64))) 0)).setPfFld ttstatOff 44 1 1)
      let s := { s with errCounts := s.errCounts.map (fun e => { e with edge := e.edge || e.marked }) }
      let s := if t.row < t.lastRow ∨ (match s.ttNext with | some (_, _, a) => inTime t a | none => false) = false
        then { s with ttActive := some t' } else activate t' s
      let s := endDonations (s.setPfFld ttstatOff 0 9 t'.row)
      let starts := (s.guests.map (·.1)).filter (slotStarts t t' held)
      let s := starts.foldl (fun s g => applySecondStage g s) s
      let s := allCores.foldl (fun s c => giveCore t' c (decideUnits t t' c s)) s
      let s := (owningGuests s).foldl (fun s g => porterEvaluate g s) s
      .next (starts.foldl (fun s g => moveReserved (fun _ => true) g s) s)

/-- TIMETABLE_VALIDATION (R319). -/
def execTimetableValidation (s : State) : Out :=
  if bit (s.pfReg ttctlOff) 31 = false then .next s
  else
    let last := fld (s.pfReg ttctlOff) 0 9
    let look := fun (g : Nat) => (tabGet (gresReset, 0, 0) s.ttCommit g : Word × Word × Word)
    let s1 := { s.setPfFld ttctlOff 31 1 0 with ttCommit := [] }
    match validate s s.ttShadow last (fun g => (look g).1) (fun g => (look g).2.1) with
    | some (reason, row, idx) =>
      .next (ttVector ((((s1.setPfFld ttstatOff 46 1 1).setPfFld ttstatOff 40 4 reason).setPfFld ttstatOff 31 9 row).setPfFld
        ttstatOff 24 7 idx))
    | none =>
      let s1 := takeResidency s.ttCommit s1
      if s.ttActive.isSome then .next ({ s1 with ttNext := some (s.ttShadow, last, s.timeUs) }.setPfFld ttstatOff 47 1 1)
      else
        let t : Timetable := ⟨s.ttShadow, last, s.timeUs, 0⟩
        let s2 := (activate t s1).setPfFld ttstatOff 0 9 0
        let starts := (s2.guests.map (·.1)).filter (fun g => !(rowCores t.rows 0 g).isEmpty)
        let s2 := starts.foldl (fun s g => applySecondStage g s) s2
        let s2 := allCores.foldl (fun s c => giveCore t c s) s2
        .next ((owningGuests s2).foldl (fun s g => porterEvaluate g s) s2)

/-! ### DONATE (R294, R328) -/

/-- Can the donee place something on the cores of a gang: a drained gang that may be placed (R294, R306), or a head, the reserving one
alone where there is one (R304, R328)? -/
def doneeReady (s : State) (d : Nat) (cs : List Nat) : Bool :=
  let x := s.guest d
  let heads := match reservingHead x with
    | some q => [q]
    | none => readyHeads x
  x.en && (x.drained.any (fun y => wholeDrained s d y.job && !y.donated && (choosePlace cs y.gsize).isSome) ||
    heads.any (fun q => match (x.queue q).headRec with
      | some (r, _) => (choosePlace cs (recF r 192 8)).isSome && decide (slotsUsed s d + recF r 192 8 ≤ fld x.gsaveszIn 0 32)
      | none => false))

/-- The gang of the issuing core leaves its cores to the donee (R328). -/
def donateCores (cs : List Nat) (g : Nat) (s : State) : State :=
  cs.foldl (fun s c => (countTally c s).modCore c (fun k => if k.mode = .run then { k with mode := .stop, donated := some g } else k)) s

/-- The retirement of a DONATE is counted, although its core has stopped (R294, R343, R394). -/
def countDonate (c : Nat) (o : Out) : Out :=
  match o with
  | .next s => if (s.core c).mode = .stop then .next (countTally c s) else o
  | _ => o

/-- DONATE (R294, R328). -/
def execDonate (f : RForm) (s : State) : Out :=
  countDonate s.turn.1 (issue (.donate f) (modify (fun s =>
    let c := s.turn.1
    let g := s.guestOf c
    match s.ttActive, doneeOf s g with
    | some t, some d =>
      if inDrain t s.timeUs || s.cur.donated.isSome then s
      else
        let s' := noteReserving d (admitAll d s)
        if doneeReady s' d (jobCores s c) then donateCores (jobCores s c) g s' else s
    | _, _ => s)) s)

/-! ### Guests (R331 to R333, R395) -/

/-- GUEST_ENABLE (R333, R395): EN rises from 0 to 1. -/
def enableGuest (g : Nat) (s : State) : State :=
  if (s.guest g).en then s
  else
    let s := dropLlcLines (s.llc.filter (fun e => e.2.1 == g)) s
    s.modGuest g (fun x => { x with
      en := true, lattice := [], drained := [], frozen := none, pending := [], period := none, lastQueue := 3, due := false })

/-- Every performed write of a guest is published at system scope; the scratchpads of its jobs are gone (R262, R333). -/
def publishGuest (g : Nat) (s : State) : State :=
  let s := publish (fun r => decide (r.guest = g)) .system [] s
  { s with writes := s.writes.filter (fun r => !(decide (r.guest = g) && r.loc.isSp)) }

/-- A core of a disabled guest goes through CLEAR and stays idle (R333). -/
def evictCore (c : Nat) (s : State) : State :=
  let s := returnCredit c (performOwn c (countTally c s))
  s.modCore c (clearedCore false)

/-- No view of a core remains in the writes. -/
def dropViewers (cs : List Nat) (s : State) : State :=
  { s with writes := s.writes.map (fun r => { r with
      viewers := r.viewers.filter (fun p => !cs.contains p.core)
      writer := r.writer.bind (fun p => if cs.contains p.core then none else some p) }) }

/-- Is a violation record one of a virtual function as the master (R335)? -/
def ViolRec.byFunction (v : ViolRec) (g : Nat) : Bool := v.mtype == 3 && v.midx == g

/-- A core that a guest has left keeps nothing of its VLCAP once the guest is disabled (R115). -/
def forgetTenant (g : Nat) (k : Core) : Core :=
  if k.units.tenant = some g then { k with units := { k.units with vlcap := 1024, tenant := none } } else k

/-- GUEST_DISABLE (R262, R333): EN falls from 1 to 0; the accesses that wait at the function are dropped. -/
def disableGuest (g : Nat) (s : State) : State :=
  if (s.guest g).en = false then s
  else
    let cs := (s.cores.filter (fun e => decide (e.2.guest = some g))).map (·.1)
    let parks := (s.guest g).drained.flatMap (fun d => d.members.map Parked.park)
    let s := cs.foldl (fun s c => evictCore c s) s
    let s := { s with cores := s.cores.map (fun e => (e.1, forgetTenant g e.2)) }
    let s := dropViewers (cs ++ parks) (publishGuest g s)
    let s := { s with viols := s.viols.filter (fun v => !(decide (v.guest = some g) || v.byFunction g)) }
    dropHeld g (s.modGuest g (fun x => { x with
      en := false, gangs := [], drained := [], frozen := none, faults := [], pending := [], period := none,
      lq := x.lq.map (fun e => (e.1, { e.2 with
        ctl := setFld e.2.ctl 16 1 0, headRec := none, running := [], finished := [], waited := 0, reserving := none, advances := [] })) }))

/-- GUEST_ENABLE (R333). -/
def execGuestEnable (guest : Nat) (s : State) : Out := if guest < Config.guests then .next (enableGuest guest s) else .next s

/-- GUEST_DISABLE (R333). -/
def execGuestDisable (guest : Nat) (s : State) : Out := .next (disableGuest guest s)

/-- Does a guest own a core in the current row, cores held in OVERRUN included (R332)? -/
def ownsNow (s : State) (g : Nat) : Bool :=
  ownsCores s g || ((s.guest g).en && (match s.ttActive with
    | some t => !(rowCores t.rows t.row g).isEmpty
    | none => false))

/-- GBASE_GBOUND_WRITE (R332). -/
def execGbaseGboundWrite (guest : Nat) (isBound : Bool) (value : Word) (s : State) : Out :=
  let v := if isBound then fld value 16 31 else fld value 16 32
  if Config.guests ≤ guest then .next s
  else if ownsNow s guest then
    .next (s.modGuest guest (fun x => if isBound then { x with pendBound := some v } else { x with pendBase := some v }))
  else .next (s.modGuest guest (fun x => if isBound then { x with bound := v, pendBound := none } else { x with base := v, pendBase := none }))

end Sys2Proof.Machine
end

