-- ==== Sys2Proof/Machine/Faults.lean ====
section
/-! DEFINITION. Machine/Faults.lean: the records of page faults and violations, the driver's and the host's answers, and
the queue-cycle detector (R222 to R224, R311, R334 to R337). -/

namespace Sys2Proof.Machine

/-! ### Writes of the LN840 itself to guest-physical memory -/

/-- A write of up to 64 bytes of one line at a GPA of a guest, one write at the home; none where the GPA has no place
(R209, R263). An UNINIT line becomes RAW, and any other tag stays (R60). -/
def selfWrite (g gpa n v : Nat) (s : State) : Option State :=
  match placeGpa s g 1 true gpa with
  | .error _ => none
  | .ok l =>
    let off := gpa % 64
    let s := sendLine g gpa l s
    match l.space with
    | .host => some (externalWrite g l (byteMask off n) (setLineBytes 0 off n v) none none s)
    | _ =>
      match mergeRaw false (homeImg s l) off n v with
      | .ok ch => some (externalChange g l ch none s)
      | .error _ => some (externalWrite g l (byteMask off n) (setLineBytes 0 off n v) none none s)

/-- Records that a ring holds, from its 64-bit counters. -/
def ringHeld (tail head : Word) : Nat := (tail - head).toNat

/-! ### Fault records (R223) -/

/-- The 32 bytes of a fault record (R223). -/
def faultRecBits (r : FaultRec) : Nat :=
  r.seq % 2 ^ 32 * 2 ^ 192 + r.lseq % 2 ^ 56 * 2 ^ 136 + r.lq % 4 * 2 ^ 128 + r.gnum % 2 ^ 32 * 2 ^ 96 +
    r.gidx % 64 * 2 ^ 80 + b2n r.fetch * 2 ^ 75 + b2n r.wr * 2 ^ 74 + r.source % 4 * 2 ^ 72 + r.reason % 256 * 2 ^ 64 +
    r.gva % 2 ^ 48

/-- The record is marked as written, and FQTAIL advances. -/
def faultWritten (r : FaultRec) (x : Guest) : Guest :=
  { x.setReg 0x420 (x.reg 0x420 + 1) with
    faults := x.faults.map (fun y => if y.seq = r.seq then { y with written := true } else y) }

/-- FAULT_RECORD_WRITE (R223, R409): the oldest record that waits, once the queue has room and its home serves it (R325); then the vector
of FQCTL. -/
def execFaultRecordWrite (guest : Nat) (s : State) : Out :=
  let x := s.guest guest
  match x.faults.find? (fun r => !r.written), ringSize (fld (x.reg 0x418) 0 5) 16 with
  | some r, some n =>
    let gpa := fld (x.reg 0x410) 5 43 * 32 + 32 * ((x.reg 0x420).toNat % n)
    if n ≤ ringHeld (x.reg 0x420) (x.reg 0x428) ∨ gpaOpen s guest gpa = false then .next s
    else
      match selfWrite guest gpa 32 (faultRecBits r) s with
      | none => .next s
      | some s => .next (raiseVf guest (fld (x.reg 0x418) 8 8) (s.modGuest guest (faultWritten r)))
  | _, _ => .next s

/-! ### Violation records (R335) -/

/-- The 64 bytes of a violation record (R335). -/
def violRecBits (r : ViolRec) : Nat :=
  r.detail % 2 ^ 64 * 2 ^ 256 + r.pc % 2 ^ 64 * 2 ^ 192 + r.gva % 2 ^ 64 * 2 ^ 128 + r.gpa % 2 ^ 64 * 2 ^ 64 +
    r.seq % 2 ^ 32 * 2 ^ 32 + r.midx % 256 * 2 ^ 16 + r.mtype % 16 * 2 ^ 8 + r.kind % 256

/-- Does a violation leave its master running? The Porter's ring read freezes a launch queue only (R334). -/
def violFreezes (s : State) (r : ViolRec) : Bool :=
  !(r.mtype == 3 && decide ((s.guest r.midx).frozen ≠ some r.seq))

/-- The record is marked as written; one that no answer awaits is done with. -/
def violWritten (r : ViolRec) (s : State) : State :=
  if violFreezes s r then
    { s with viols := s.viols.map (fun v => if v.seq = r.seq then { v with written := true } else v) }
  else { s with viols := s.viols.filter (fun v => v.seq != r.seq) }

/-- VIOLATION_RECORD_WRITE (R335, R409): the oldest record that waits, once the ring has room; then the vector of VQCTL. -/
def execViolationRecordWrite (s : State) : Out :=
  match s.viols.find? (fun r => !r.written), ringSize (fld (s.pfReg 0x50008) 0 5) 12 with
  | some r, some n =>
    let tail := s.pfReg 0x50010
    if n ≤ ringHeld tail (s.pfReg 0x50018) then .next s
    else
      let a := fld (s.pfReg 0x50000) 6 58 * 64 + 64 * (tail.toNat % n)
      .next (raisePf (fld (s.pfReg 0x50008) 8 8)
        ((hostWrite a 64 (violRecBits r) (violWritten r s)).setPf 0x50010 (tail + 1)))
  | _, _ => .next s

/-! ### Answers to page faults (R222, R224, R243) -/

/-- The answer is noted in a stream that holds the fault. -/
def noteAnswer (seq : Nat) (abort : Bool) (st : Stream) : Stream :=
  match st.pfault with
  | some p => if p.seq = seq then { st with pfault := some { p with answer := some abort } } else st
  | none => st

/-- The answer to a POOL fault of a copy engine: RETRY restarts the group, ABORT delivers PAGE to A (R243). -/
def answerPool (seq : Nat) (abort : Bool) (k : Core) : Core :=
  match k.copy.halt with
  | some h =>
    if h.pool = some seq then
      if abort then { k with copy := { k.copy with halt := some { h with pool := none } } }.setEvf .a
      else { k with copy := { k.copy with halt := none } }
    else k
  | none => k

/-- The answer in a core's state, on the core or saved. -/
def answerIn (seq : Nat) (abort : Bool) (k : Core) : Core :=
  answerPool seq abort { k with a := noteAnswer seq abort k.a, x := noteAnswer seq abort k.x }

/-- The answer in a drained gang. -/
def Drained.answer (seq : Nat) (abort : Bool) (d : Drained) : Drained :=
  { d with members := d.members.map (fun m => { m with core := answerIn seq abort m.core }) }

/-- The driver answers a written record; a core that runs applies the answer at once, and any other when its context is
restored (R224). -/
def answerFault (g seq : Nat) (abort : Bool) (s : State) : State :=
  let x := s.guest g
  if x.faults.any (fun r => r.seq == seq && r.written) then
    let s := s.setGuest g { x with
      faults := x.faults.filter (fun r => r.seq != seq), drained := x.drained.map (Drained.answer seq abort) }
    let cs := (s.cores.filter (fun e => decide (e.2.guest = some g))).map (·.1)
    cs.foldl (fun s c =>
      let s := s.modCore c (answerIn seq abort)
      if (s.core c).mode = .run then applyAnswer c .x (applyAnswer c .a s) else s) s
  else s

/-- A write by a guest's driver: dropped while the function is frozen (R336, R384). -/
def driverWrite (g off : Nat) (eff : State → State) (s : State) : State :=
  if (s.guest g).frozen.isSome then hostError (.vf g) 0 off 4 s else eff s

/-- FRESP_RETRY (R224). -/
def execFrespRetry (guest seq : Nat) (s : State) : Out := .next (driverWrite guest 0x430 (answerFault guest seq false) s)

/-- FRESP_ABORT (R224). -/
def execFrespAbort (guest seq : Nat) (s : State) : Out := .next (driverWrite guest 0x430 (answerFault guest seq true) s)

/-! ### Answers to violations (R337) -/

/-- Does a core's state hold a master that a record froze? -/
def frozenIn (seq : Nat) (k : Core) : Bool :=
  decide (k.a.frozen = some seq) || decide (k.x.frozen = some seq) || decide (k.copy.frozen = some seq)

/-- An answer is held with the drained context of its master. -/
def holdAnswer (seq action : Nat) (d : Drained) : Drained :=
  { d with members := d.members.map (fun m =>
      if frozenIn seq m.core && !m.answers.any (fun r => r.1 == seq) then { m with answers := m.answers ++ [(seq, action)] } else m) }

/-- The answer to a frozen virtual function (R337): RESUME and TRAP let it go on and its held messages leave; DISCARD
disables and enables its guest. -/
def answerFunction (g seq action : Nat) (s : State) : State :=
  if action = 3 then enableGuest g (disableGuest g s)
  else dropViol seq (sendPending g (s.modGuest g (fun x => { x with frozen := none })))

/-- Offset of LINKCTL (R391). -/
def linkctlOff : Nat := 0xA8020

/-- The answer to a frozen fabric peer (R337): its link is down until it is trained again; DISCARD takes it down for good: the
host has to ask for training anew (log 55). -/
def answerPeer (link seq action : Nat) (s : State) : State :=
  let s := dropViol seq ({ s with peerFrozen := tabErase s.peerFrozen link }.setPfFld linkstatOff link 1 0)
  if action = 3 then s.setPfFld linkctlOff link 1 0 else s

/-- The host answers a violation (R337). -/
def answerViolation (seq action : Nat) (s : State) : State :=
  match s.cores.find? (fun e => frozenIn seq e.2) with
  | some (c, _) => answerCore c seq action s
  | none =>
    match s.guests.find? (fun e => decide (e.2.frozen = some seq)) with
    | some (g, _) => answerFunction g seq action s
    | none =>
      match s.peerFrozen.find? (fun e => e.2 == seq) with
      | some (l, _) => answerPeer l seq action s
      | none => { s with guests := s.guests.map (fun e => (e.1, { e.2 with drained := e.2.drained.map (holdAnswer seq action) })) }

/-- FRZRESP_RESUME (R337). -/
def execFrzrespResume (seq : Nat) (s : State) : Out := .next (answerViolation seq 1 s)
/-- FRZRESP_TRAP (R337). -/
def execFrzrespTrap (seq : Nat) (s : State) : Out := .next (answerViolation seq 2 s)
/-- FRZRESP_DISCARD (R337). -/
def execFrzrespDiscard (seq : Nat) (s : State) : Out := .next (answerViolation seq 3 s)

/-! ### The queue-cycle detector (R26, R311) -/

/-- Is a wait of a stream a counted one, for which it still has to wait (R26, R311)? DESIGN CHOICE (log 60): a wait for pin entries
counts whatever holds them. -/
def countedWait (s : State) (c : Nat) (t : StreamId) (w : Wait) : Bool :=
  let k := s.core c
  let o := k.stream (otherStream t)
  match w with
  | .queue q full => if full then k.queueFull q else (k.queue q).isEmpty
  | .rdv => !rdvMet (k.stream t) o
  | .push q => !(k.slotsOf q).isEmpty
  | .pins n => decide (Config.pins < k.pinsUsed + (appendPins s c).length + n)
  | .waitseq copy target b => b && decide ((if copy then k.copy.cseq else k.mat.mseq).toNat < target.toNat)
  | .phase _ => !o.ended && o.phIssued.isNone && (k.stream t).phDone.isNone
  | _ => false

/-- Does a stream of a core stand in a counted wait? -/
def State.inCounted (s : State) (c : Nat) (t : StreamId) : Bool :=
  match (s.streamAt c t).wait with
  | some w => countedWait s c t w.why
  | none => false

/-- Has a stream slot a line request outstanding: a line left, and room for it (R236, R311)? -/
def slotRequests (k : Core) : Bool :=
  k.slots.any (fun e => decide (e.2.next < e.2.count) && !k.queueFull e.2.queue)

/-- Does QIDLE of a core advance in this cycle (R311)? -/
def qidleAdvances (s : State) (c : Nat) : Bool :=
  let k := s.core c
  let free := fun (st : Stream) => st.pfault.isNone && st.frozen.isNone && !st.halted
  decide (k.mode = .run) && k.place.isSome && (k.a.ended || s.inCounted c .a) && (k.x.ended || s.inCounted c .x) &&
    !(k.a.ended && k.x.ended) && !k.active && !slotRequests k && free k.a && free k.x

/-- TVAL of QUEUE_CYCLE (R311). DESIGN CHOICE (log 60): of a scalar push behind an earlier stream, the first word. -/
def queueCycleTval (w : WaitRec) : Word :=
  match w.why with
  | .queue c _ => word c.toNat
  | .rdv => 0
  | _ => w.word

/-- The counted wait that a stream of a core stands in. -/
def State.countedRec (s : State) (c : Nat) (t : StreamId) : Option WaitRec :=
  if s.inCounted c t then (s.streamAt c t).wait else none

/-- A stream traps QUEUE_CYCLE at the instruction it waits at, which has no effect (R311). -/
def queueCycleTrap (c : Nat) (t : StreamId) (w : Option WaitRec) (s : State) : State :=
  match w with
  | none => s
  | some w =>
    takeTrap c t .queueCycle (queueCycleTval w) (s.streamAt c t).pc .instr
      (s.modStream c t (fun st => { st with phIssued := none }))

/-- QUEUE_CYCLE (R311): every stream of the core in a counted wait traps. -/
def execQueueCycle (core : Nat) (s : State) : Out :=
  if decide (65536 ≤ (s.core core).qidle) && qidleAdvances s core then
    let s := queueCycleTrap core .x (s.countedRec core .x) (queueCycleTrap core .a (s.countedRec core .a) s)
    .next (s.modCore core (fun k => { k with qidle := 0 }))
  else .next s

end Sys2Proof.Machine
end

