-- ==== Sys2Proof/Machine/Rings.lean ====
section
/-! DEFINITION. Machine/Rings.lean: the driver's posts and launch-queue registers, the Fuller, and the grant of granule
credit (R217 to R221, R261, R297 to R299). -/

namespace Sys2Proof.Machine

/-! ### Launch queues (R297 to R299) -/

/-- A post to a full ring sets OVF (R297). -/
def lqOverflow (g q : Nat) (s : State) : State :=
  s.modGuest g (fun x => x.setQueue q { x.queue q with stat := setFld (x.queue q).stat 62 1 1 })

/-- LQPOST (R298, R325, R384, R409). -/
def execLqpost (guest queue : Nat) (whole : Bool) (data : LineBits) (s : State) : Out :=
  let x := s.guest guest
  if Config.guests ≤ guest ∨ 4 ≤ queue then .next s
  else if x.maySend = false then .next (hostError (.vf guest) 0 (lqpostOff queue) 4 s)
  else if whole = false then .next (hostError (.vf guest) 0 (lqpostOff queue) 5 s)
  else if (x.queue queue).enabled = false then .next (hostError (.vf guest) 0 (lqpostOff queue) 9 s)
  else if (x.queue queue).full then .next (lqOverflow guest queue s)
  else .next (whenOpen (.lqpost guest queue whole data) (postOpen s guest queue) (postRecord guest queue data) s)

/-- What a write of LQCTL stores: LOGSZ only while the queue is not enabled (R297). -/
def lqctlStored (old v : Word) : Word :=
  word ((if bit old 16 then fld old 0 5 else fld v 0 5) + fld v 8 8 * 2 ^ 8 + b2n (bit v 16) * 2 ^ 16)

/-- A queue after a write of LQCTL: ENABLE from 0 to 1 starts it anew (R297). -/
def LaunchQueue.writeCtl (l : LaunchQueue) (q : Nat) (v : Word) : LaunchQueue :=
  let ctl := lqctlStored l.ctl v
  if bit v 16 && !bit l.ctl 16 then
    { l with ctl := ctl, tail := 0, head := 0, done := 0, headRec := none, waited := 0, reserving := none, prio := q,
             running := [], finished := [], advances := [], epoch := l.epoch + 1 }
  else { l with ctl := ctl }

/-- LQCTL_WRITE (R297). -/
def execLqctlWrite (guest queue : Nat) (value : Word) (s : State) : Out :=
  if Config.guests ≤ guest ∨ 4 ≤ queue then .next s
  else .next (driverWrite guest (lqOff queue + 8)
    (fun s => s.modGuest guest (fun x => x.setQueue queue ((x.queue queue).writeCtl queue value))) s)

/-- LQSTAT takes a write: FAULTED, OVF and ERR clear where 1 is written, and with FAULTED clear the Porter reads the head
again (R297, R299). -/
def storeLqstat (g q : Nat) (value : Word) (s : State) : State :=
  let held := ((s.guest g).queue q).faulted
  let s := s.modGuest g (fun x =>
    let l := x.queue q
    x.setQueue q { l with stat := l.stat &&& ~~~(value &&& maskFld 61 3) })
  if held && bit value 63 then porterDue g (readHead g q s) else s

/-- LQSTAT_WRITE (R297, R299). -/
def execLqstatWrite (guest queue : Nat) (value : Word) (s : State) : Out :=
  if Config.guests ≤ guest ∨ 4 ≤ queue then .next s
  else .next (driverWrite guest (lqOff queue + 0x28) (storeLqstat guest queue value) s)

/-! ### The Fuller (R219 to R221, R261) -/

/-- Bytes at a GPA of a guest, at most one line of them, as its home shows them; none where the GPA has no place. -/
def selfRead (s : State) (g gpa n : Nat) : Option Nat :=
  match placeGpa s g 2 false gpa with
  | .ok l => some ((homeImg s l).bits.toNat / 2 ^ (8 * (gpa % 64)) % 2 ^ (8 * n))
  | .error _ => none

/-- The read of a line of a guest by the LN840 itself, where the line is behind an aperture (R386, R388). -/
def selfAsk (g gpa : Nat) (s : State) : State :=
  match placeGpa s g 2 false gpa with
  | .ok l => sendRequest g gpa l s
  | .error _ => s

/-- The GPA of the record `i` places after the one at FWHEAD, when the ring holds one (R219, R409). -/
def fullerSlot (x : Guest) (i : Nat) : Option Nat :=
  match ringSize (fld (x.reg 0x448) 0 5) 16 with
  | none => none
  | some n =>
    if (x.reg 0x450 - x.reg 0x458).toNat ≤ i then none
    else some (fld (x.reg 0x440) 4 44 * 16 + 16 * (((x.reg 0x458).toNat + i) % n))

/-- The work on the record `i` places after the one at FWHEAD. -/
def Guest.fullerAt (x : Guest) (i : Nat) : FullerWork := x.fuller.getD i FullerWork.reset

/-- The record that a stack's Fuller is at: the first that it has not finished its part of (R219). -/
def Guest.fullerIndex (x : Guest) (stack : Nat) : Nat := (x.fuller.takeWhile (fun w => w.finished.contains stack)).length

/-- Set the work on a record. -/
def Guest.setFuller (x : Guest) (i : Nat) (w : FullerWork) : Guest :=
  { x with fuller := if i < x.fuller.length then x.fuller.set i w else x.fuller ++ [w] }

/-- A Fuller works for a guest while the guest owns a core (R221). -/
def fullerWorks (s : State) (g : Nat) : Bool := (s.guest g).en && s.cores.any (fun e => decide (e.2.guest = some g))

/-- The region of a record: its first GPA, and its bytes (R219). -/
def regionGpa (r : Nat) : Nat := r / 2 ^ 12 % 2 ^ 36 * 4096
def regionBytes (r : Nat) : Nat :=
  match r / 2 ^ 10 % 4 with
  | 0 => 4096 | 1 => 65536 | 2 => 2 ^ 21 | _ => 2 ^ 30
/-- The POLICY of a record. -/
def regionPolicy (r : Nat) : Nat := r / 2 ^ 7 % 8

/-- Is a record well formed, and its whole region within the bound (R219, R220)? DESIGN CHOICE (log 6): a region that reaches beyond
the HBM that exists is refused too. -/
def fullerOk (s : State) (g r : Nat) : Bool :=
  decide (r / 2 ^ 66 % 2 ^ 30 = 0) && decide (r / 2 ^ 48 % 2 ^ 16 = 0) && decide (r % 2 ^ 7 = 0) &&
    decide (1 ≤ regionPolicy r) && decide (regionPolicy r ≤ 4) && decide (regionGpa r % regionBytes r = 0) &&
    gpaPasses (s.guest g) (regionGpa r + regionBytes r - 1) &&
    decide (hpaOf (s.guest g) (regionGpa r) + regionBytes r ≤ Config.hbmBytes)

/-- The record at FWHEAD is complete: LINES and STATUS are written, FWHEAD advances, and the vector of FWCTL is raised
(R219, R226). -/
def fullerComplete (g : Nat) (w : FullerWork) (s : State) : State :=
  let status := if w.refused then 2 else 1
  let s := ((fullerSlot (s.guest g) 0).bind (fun gpa => selfWrite g (gpa + 8) 8 (w.lines % 2 ^ 32 * 2 ^ 32 + status) s)).getD s
  raiseVf g (fld ((s.guest g).reg 0x448) 8 8) (s.modGuest g (fun x =>
    { x.setReg 0x458 (x.reg 0x458 + 1) with fuller := x.fuller.tail }))

/-- Has every Fuller finished its part of a record (R219)? -/
def FullerWork.complete (w : FullerWork) : Bool := (List.range 8).all (fun i => w.finished.contains i)

/-- Records complete in ring order (R219): those at FWHEAD that every Fuller has finished, at most `n` of them, each once its home
serves it (R325). -/
def fullerSettle (g : Nat) : Nat → State → State
  | 0, s => s
  | n + 1, s =>
    match (s.guest g).fuller with
    | [] => s
    | w :: _ => if w.complete && ((fullerSlot (s.guest g) 0).all (gpaOpen s g)) then fullerSettle g n (fullerComplete g w s) else s

/-- A line of a region homed in a stack, at or after line `n` of `m` (R204); the search looks at eight 4 KiB blocks. -/
def nextHomed (hpa stack m : Nat) : Nat → Nat → Option Nat
  | 0, _ => none
  | i + 1, n =>
    if m ≤ n then none
    else if homeStack (hpa / 64 + n) = stack then some n
    else nextHomed hpa stack m i ((n / 64 + 1) * 64)

/-- A stack has no line of the region left. -/
def FullerWork.finish (w : FullerWork) (stack : Nat) : FullerWork := { w with finished := listAdd w.finished stack }

/-- The work on a record changes, and what it completes completes. -/
def fullerWork (g i : Nat) (f : FullerWork → FullerWork) (s : State) : State :=
  let s := s.modGuest g (fun x => x.setFuller i (f (x.fullerAt i)))
  fullerSettle g (s.guest g).fuller.length s

/-- A stack that has taken record `i` goes to its next line, or finishes its part when none is left. -/
def fullerAdvance (g i stack hpa m n : Nat) (s : State) : State :=
  match nextHomed hpa stack m 9 n with
  | some j => fullerWork g i (fun w => { w with next := tabPut w.next stack (j + 1) }) s
  | none => fullerWork g i (fun w => w.finish stack) s

/-- FULLER_RECORD_TAKE (R219): a Fuller takes the next record, once its home serves it (R325); the first to take it reads it, and
checks it before any line changes. DESIGN CHOICE (log 39): every Fuller works by the record as it was read then. -/
def execFullerRecordTake (guest stack : Nat) (s : State) : Out :=
  if fullerWorks s guest = false ∨ 8 ≤ stack then .next s
  else
    let s := fullerSettle guest (s.guest guest).fuller.length s
    let x := s.guest guest
    let i := x.fullerIndex stack
    match fullerSlot x i with
    | none => .next s
    | some gpa =>
      let w := x.fullerAt i
      if stack ∈ w.taken ∨ gpaOpen s guest gpa = false then .next s
      else
        match (if w.taken.isEmpty then selfRead s guest gpa 16 else some w.record) with
        | none => .next s
        | some r =>
          let s := if w.taken.isEmpty then selfAsk guest gpa s else s
          if w.taken.isEmpty && !fullerOk s guest r then
            .next (fullerWork guest i (fun w => { w with taken := [stack], record := r, finished := List.range 8, refused := true }) s)
          else
            let s := s.modGuest guest (fun x => x.setFuller i { w with taken := w.taken ++ [stack], record := r })
            .next (fullerAdvance guest i stack (hpaOf x (regionGpa r)) (regionBytes r / 64) 0 s)

/-- The line with every published write to it applied: what a recoding converts (R261). -/
def publishedImg (s : State) (l : Loc) : LineImg := imageOf s (fun r => r.performed && r.pub.isSome) l

/-- The recoding of one line at its home: one write, published at system scope, which converts the published image and each
pending one (R221, R261). -/
def recodeLine (g i policy : Nat) (l : Loc) (s : State) : State :=
  let table := fullerTable (s.guest g)
  if recodes policy (publishedImg s l) then
    let s := recallLine 64 l true (outsideChange g l ⟨allBytes, table.setWidth 512, none, .recode policy⟩ none s)
    let s := holdGranules g l (granulesOf (wholeImg s l)) s
    s.modGuest g (fun x => x.setFuller i { x.fullerAt i with lines := (x.fullerAt i).lines + 1 })
  else s

/-- FULLER_LINE_RECODE (R220, R221, R261): the next line of a stack in the record that its Fuller has taken. It waits for a
stack that serves save traffic only (R325). -/
def execFullerLineRecode (guest stack : Nat) (s : State) : Out :=
  let x := s.guest guest
  let i := x.fullerIndex stack
  let w := x.fullerAt i
  if fullerWorks s guest = false ∨ stack ∉ w.taken then .next s
  else
    let n := tabGet 1 w.next stack
    let hpa := hpaOf x (regionGpa w.record)
    let l : Loc := ⟨.hbm, hpa / 64 + (n - 1)⟩
    if homeOpen s l = false then .next s
    else .next (fullerAdvance guest i stack hpa (regionBytes w.record / 64) n (recodeLine guest i (regionPolicy w.record) l s))

/-! ### Granule credit (R218) -/

/-- GRANULE_CREDIT_GRANT (R218): the free-space manager answers a core that waits for credit. -/
def execGranuleCreditGrant (core : Nat) (s : State) : Out :=
  match (s.core core).a.wait with
  | some ⟨.credit n, _⟩ =>
    match grantCredit core n s with
    | some s => .next s
    | none => .next (s.modStream core .a (fun st => { st with creditRefused := true }))
  | _ => .next s

end Sys2Proof.Machine
end

