-- ==== Sys2Proof/Machine/EngineFault.lean ====
section
/-! DEFINITION. Machine/EngineFault.lean: an engine fault awaiting delivery to its stream, and its delivery
(R197, R243, R355). -/

namespace Sys2Proof.Machine

/-- The fault that a stream is owed: of the copy engine in A, of the matrix engine in X. A POOL page fault of the
copy engine goes to the driver and not to the stream (R243). -/
def Core.owedFault (k : Core) (t : StreamId) : Option EngineHalt :=
  let h := match t with
    | .a => k.copy.halt
    | .x => k.mat.halt
  match h with
  | none => none
  | some e => if e.delivered || e.pool.isSome then none else some e

/-- The halt of a stream's engine is replaced. -/
def Core.setHalt (k : Core) (t : StreamId) (h : Option EngineHalt) : Core :=
  match t with
  | .a => { k with copy := { k.copy with halt := h } }
  | .x => { k with mat := { k.mat with halt := h } }

/-- TSTAT.SRC of an engine fault (R353). -/
def engineSrc (t : StreamId) : TrapSrc :=
  match t with
  | .a => .copyEngine
  | .x => .matrixEngine

/-- TSTAT.DEFER, bit 10 (R353). -/
def Stream.setDefer (st : Stream) (b : Bool) : Stream := { st with tstat := setFld st.tstat 10 1 (b2n b) }

/-- The delivery of an owed fault at a boundary: at U level the stream traps before the instruction at its pc; at S
level DEFER is set (R197, R355). A share's fault after which X has already issued its next command ends its halt now
(R198, log 50). -/
def deliverEngineFault (c : Nat) (t : StreamId) (s : State) : State :=
  let k := s.core c
  match k.owedFault t with
  | none => s
  | some e =>
    if (k.stream t).level = .u then
      let s' := s.setCore c ((k.setHalt t (if e.resumed then none else some { e with delivered := true })).setStream t
        ((k.stream t).setDefer false))
      trapBefore c t e.cause e.tval (engineSrc t) s'
    else s.modStream c t (fun st => st.setDefer true)

/-- Does a boundary of the stream deliver an engine fault as a trap? -/
def owesTrap (k : Core) (t : StreamId) : Bool := (k.owedFault t).isSome && decide ((k.stream t).level = .u)

/-- May a stream take an instruction boundary: its core runs a job, and it is neither ended, frozen, halted nor held
by a page fault (R222, R322, R336, R347)? -/
def Core.canIssue (k : Core) (t : StreamId) : Bool :=
  let st := k.stream t
  decide (k.mode = .run) && k.place.isSome && !st.ended && st.frozen.isNone && st.pfault.isNone && !st.halted

/-- Does something come before row 2 of R352 at a boundary: the halt that HALTREQ asks for (R347), or at U level a STEP
trap (R346, R355)? -/
def Stream.firstCause (st : Stream) : Bool := bit st.wctl 7 || (st.stepPending && decide (st.level = .u))

/-- ENGINE_FAULT_DELIVERY (R197, R243, R355): at a boundary at which nothing comes before it. -/
def execEngineFaultDelivery (core : Nat) (strm : StreamId) (s : State) : Out :=
  if (s.core core).canIssue strm && !(s.streamAt core strm).firstCause then .next (deliverEngineFault core strm s) else .next s

end Sys2Proof.Machine
end

