-- ==== Sys2Proof/Machine/System.lean ====
section
/-! DEFINITION. Machine/System.lean: the system instructions (R363 to R368), the timeout of WFE (R366) and the end of a
replica shootdown (R216, R368). -/

namespace Sys2Proof.Machine

/-! ### SYSCALL, BKPT and ERET (R364, R365) -/

/-- A trap that the instruction itself asks for, with TPC at the next instruction (R364). -/
def callOp (i : Instr) (cause : Cause) (imm : Word) (s : State) : Out :=
  issue i (throw (.trapAt cause imm (s.strm.nextPc i) .call)) s

/-- SYSCALL (R364). -/
def execSyscall (f : IForm) (s : State) : Out := callOp (.syscall f) .syscall (f.imm.setWidth 64) s

/-- BKPT (R364). -/
def execBkpt (f : IForm) (s : State) : Out := callOp (.bkpt f) .brk (f.imm.setWidth 64) s

/-- VTYPE as ERET writes it: W = 3 becomes W = 2 (R365). -/
def vtypeOf (n : Nat) : BitVec 5 := BitVec.ofNat 5 (if n % 4 = 3 then n - 1 else n)

/-- The level that ERET returns to: TSTAT.PL (R365). -/
def returnLevel (st : Stream) : Level := if bit st.tstat 11 then .s else .u

/-- The vector state that ERET restores in X (R365). -/
def restoreVec (ts : Word) (v : Vec) : Vec :=
  { v with vl := BitVec.ofNat 11 (fld ts 32 11), vtype := vtypeOf (fld ts 24 5), vstart := BitVec.ofNat 11 (fld ts 48 11) }

/-- A halt that a return from the handler ends: a fault that the stream has taken, not of a share and not before the driver
(R198, R243). -/
def endHalt (h : Option EngineHalt) : Option EngineHalt :=
  match h with
  | some e => if e.delivered && e.share.isNone && e.pool.isNone then none else h
  | none => none

/-- ERET on a core: the level, the vector state of X, and the engine of the stream: a copy command held in A's engine restarts
whatever the level (R243), a matrix command when X returns to U level (R198, R365). DEFER clears, and a fault that the engine
still owes is delivered at the next boundary at U level (R355). -/
def eretCore (t : StreamId) (k : Core) : Core :=
  let st := k.stream t
  let l := returnLevel st
  let k := k.setStream t (if l = .u then { st.setDefer false with level := l } else { st with level := l })
  let k := match t with
    | .a => k
    | .x => { k with vec := restoreVec st.tstat k.vec }
  match t with
  | .a => { k with copy := { k.copy with halt := endHalt k.copy.halt } }
  | .x => if l = .u then { k with mat := { k.mat with halt := endHalt k.mat.halt } } else k

/-- ERET (R365). -/
def execEret (f : IForm) (s : State) : Out :=
  issueTo (.eret f) (do
    let pc := (← get).strm.tpc
    modify (fun s => s.modCur (eretCore s.turn.2))
    return pc) s

/-! ### WFE (R366) -/

/-- The event flag clears, and the wait is over. -/
def Stream.takeEvent (st : Stream) : Stream := { st with evf := false, wfeCycles := 0 }

/-- Does a stream wait at a WFE? -/
def Stream.atWfe (st : Stream) : Bool :=
  match st.wait with
  | some w => decide (w.why = .event)
  | none => false

/-- WFE (R366). -/
def execWfe (f : IForm) (s : State) : Out :=
  issue (.wfe f) (do
    let st := (← get).strm
    if st.evf = false then
      if st.atWfe = false then modify (fun s => s.modStrm (fun st => { st with wfeCycles := 0 }))
      throw (.wait .event)
    modify (fun s => s.modStrm Stream.takeEvent)) s

/-- WFE_TIMEOUT (R366): the WFE retires after 65,536 cycles. -/
def execWfeTimeout (core : Nat) (strm : StreamId) (s : State) : Out :=
  let st := s.streamAt core strm
  if (s.core core).canIssue strm && st.atWfe && decide (65536 ≤ st.wfeCycles) then
    let s := { s with turn := (core, strm) }
    .next ((s.modStrm Stream.takeEvent).retire st (st.pc + 8))
  else .next s

/-! ### TLBINV (R367) -/

/-- Does a TLBINV operand name a translation? -/
def tlbinvHits (v : Word) (x : Xlat) : Bool := bit v 0 || x.covers (fld v 12 36 * 4096)

/-- The pins of a core (R210). -/
def Core.pinList (k : Core) : List Xlat :=
  k.slots.flatMap (fun e => e.2.pins) ++ k.copy.queue.flatMap (fun c => c.pins)

/-- The pins of a guest, those of drained contexts and of appends included (R210, R367). -/
def guestPins (s : State) (g : Nat) : List Xlat :=
  (s.cores.filter (fun e => decide (e.2.guest = some g))).flatMap (fun e => e.2.pinList) ++
    (s.guest g).drained.flatMap (fun d => d.members.flatMap (fun m => m.core.pinList)) ++
    s.writes.filterMap (fun r => if r.performed = false ∧ r.guest = g then r.pin else none)

/-- Steps 1 and 2 of TLBINV (R367). -/
def invalidate (v : Word) (s : State) : State :=
  let c := s.turn.1
  let g := s.guestOf c
  let s := performOwn c s
  let s := publish (inView ⟨c, .a⟩) .guest (gangReach s c) s
  { s with cores := s.cores.map (fun e =>
      if e.2.guest = some g then (e.1, { e.2 with tlb := e.2.tlb.filter (fun x => !tlbinvHits v x) }) else e) }

/-- TLBINV (R367). -/
def execTlbinv (f : RForm) (s : State) : Out :=
  issue (.tlbinv f) (do
    let v := w0 (← readSources [srcA f])
    need (fld v 48 16 == 0 && fld v 1 11 == 0) .illegal v
    waitHomes
    modify (invalidate v)
    let s ← get
    waitFor ((guestPins s (s.guestOf s.turn.1)).all (fun x => !tlbinvHits v x)) .system) s

/-! ### SEALFREE (R216, R368) -/

/-- The page that a SEALFREE frees: steps 1 to 3. -/
def sealfreePage (v : Word) : Exec Xlat := do
  need (fld v 48 16 == 0) .bound v
  let x ← translate .free v.toNat
  let _ ← placeOf .free x v.toNat
  if pteClass x.leaf ≠ 3 then throw (.page false false reasonClass v.toNat)
  let s ← get
  match pageState s (s.guestOf s.turn.1) x.gpa with
  | .error e => throw (stopOfX v.toNat .free e)
  | .ok w => if psSealed w then return x else throw (.page false false reasonClass v.toNat)

/-- Has a stream asked for the shootdown of a page, which is done (R368)? -/
def State.sealfreed (s : State) (x : Xlat) : Bool :=
  let y := s.guest (s.guestOf s.turn.1)
  s.strm.freeing.contains x.gpa && y.freed.contains x.gpa && !y.shooting.contains x

/-- SEALFREE (R368): once the shootdown that the stream has asked for is done it retires, whatever has come between; otherwise it
joins the shootdown of the page, or starts one. -/
def execSealfree (f : RForm) (s : State) : Out :=
  issue (.sealfree f) (do
    let v := w0 (← readSources [srcA f])
    let x ← sealfreePage v
    let s ← get
    if s.sealfreed x then set (s.modStrm (fun st => { st with freeing := listDel st.freeing x.gpa }))
    else
      set ((s.modGuest (s.guestOf s.turn.1) (fun y => { y with shooting := listAdd y.shooting x })).modStrm
        (fun st => { st with freeing := listAdd st.freeing x.gpa }))
      throw (.wait .sealfree)) s

/-- The lines of a page, by GPA. -/
def pageLines (x : Xlat) : List Nat := (List.range (x.size / 64)).map (fun n => x.gpa + 64 * n)

/-- A line of a freed page becomes zeros under 0x0300 with no granules, for every reader (R216, R217, R368). -/
def revokeLine (g : Nat) (s : State) (gpa : Nat) : State :=
  match placeGpa s g 1 true gpa with
  | .ok l =>
    let id := s.nextWrite
    let s := outsideWrite g l allBytes 0 (if l.space = .host then none else some Config.tagRevoked)
      (if l.space = .hbm then some false else none) s
    let s := if l.space = .hbm then holdGranules g l 0 s else s
    ((s.writes.filter (fun r => r.id == id)).flatMap (liveParties s)).foldl (fun s p => enterClosed p [id] s) s
  | .error _ => s

/-- The replicas of a page's lines are dropped in every stack (R216, R368). -/
def dropReplicas (g : Nat) (x : Xlat) (s : State) : State :=
  let b := hpaOf (s.guest g) x.gpa / 64
  let out := fun (h n : Nat) => h == g && decide (b ≤ n) && decide (n < b + x.size / 64)
  { s with replicas := s.replicas.filter (fun r => !out r.guest r.line)
           llc := s.llc.filter (fun e => !out e.2.1 e.2.2 || e.1 == homeStack e.2.2) }

/-- REPLICA_SHOOTDOWN_DONE (R216, R368): the shootdown of the page of a GVA is done, and its lines are REVOKED. -/
def execReplicaShootdownDone (guest gva : Nat) (s : State) : Out :=
  match (s.guest guest).shooting.find? (fun x => x.covers gva) with
  | none => .next s
  | some x =>
    if (pageLines x).all (gpaOpen s guest) = false then .next s
    else
    let s := (pageLines x).foldl (revokeLine guest) (dropReplicas guest x s)
    .next (s.modGuest guest (fun y => { y with shooting := listDel y.shooting x, freed := listAdd y.freed x.gpa }))

end Sys2Proof.Machine
end

