-- ==== Sys2Proof/Machine/Host.lean ====
section
/-! DEFINITION. Machine/Host.lean: what the host does through its functions: the data and tag apertures, HDM accesses,
interrupts and overflow entries, and the Wayfarer window (R225, R263, R340, R344, R347, R383, R384). -/

namespace Sys2Proof.Machine

/-- Is a request one access: some bytes within one line? -/
def reqFits (r : ApertureReq) : Bool := decide (1 ≤ r.size) && decide (r.addr % 64 + r.size ≤ 64)

/-! ### The apertures of a guest (R225) -/

/-- The translation of a host access, by the first stage of the guest's tables and the comparator. -/
def hostPlace (s : State) (g gva : Nat) (write : Bool) : Except XFail (Xlat × Loc) := do
  let x ← walk s g gva
  leafCheck s g (if write then .free else .read) x
  let l ← placeGpa s g 1 write (x.gpaAt gva)
  return (x, l)

/-- What a host data write changes of a line: with HWRAW a whole line becomes RAW and a part merges as RAW data; else the
bytes alone, within the span of an RC line (R225). -/
def hostChange (hwraw : Bool) (rc : Bool) (line : LineImg) (off n : Nat) (v : LineBits) : Change :=
  let keep := if rc && fmtWidth (tagFmt line.tag) != 0 then 4 * fmtWidth (tagFmt line.tag) else 64
  let plain : Change := ⟨byteMask off (Nat.min n (keep - off)), setLineBytes 0 off n v.toNat, none, .plain⟩
  if hwraw = false then plain
  else if n = 64 then ⟨allBytes, v, some Config.tagRaw, .plain⟩
  else
    match mergeRaw rc line off n v.toNat with
    | .ok ch => ch
    | .error _ => plain

/-- A host data write to a line of a guest. Host lines carry no tag, and a line of an RC page is stored with its span (R69,
R203). -/
def hostDataWrite (g : Nat) (x : Xlat) (l : Loc) (r : ApertureReq) (s : State) : State :=
  let rc := pteClass x.leaf == 1
  if l.space = .host then externalWrite g l (byteMask (r.addr % 64) r.size) (setLineBytes 0 (r.addr % 64) r.size r.data.toNat) none none s
  else sealsIn g l (externalChange g l (hostChange (bit x.leaf 10) rc (homeImg s l) (r.addr % 64) r.size r.data) (pageMark l rc)) s

/-- A host data read of a line of a guest: bytes beyond the span of an RC line read as zero (R225). -/
def hostDataRead (g : Nat) (x : Xlat) (l : Loc) (r : ApertureReq) (s : State) : State :=
  let i := spanned x (hostImg s g x (x.gpaAt r.addr) l)
  reply r.size (i.bits.toNat / 2 ^ (8 * (r.addr % 64)) % 2 ^ (8 * r.size)) s

/-- DATA_APERTURE_ACCESS (R225, R333, R336, R384). -/
def execDataApertureAccess (guest : Nat) (req : ApertureReq) (s : State) : Out :=
  if Config.guests ≤ guest ∨ reqFits req = false ∨ 2 ^ 48 ≤ req.addr then .next s
  else if (s.guest guest).maySend = false then .next (dropAccess (.vf guest) 2 4 req s)
  else if walkOpen s guest req.addr = false then .next (holdAccess (.dataApertureAccess guest req) s)
  else
    match hostPlace s guest req.addr req.write with
    | .error (.absent hpa) => .fault (.outsideHbm hpa)
    | .error _ => .next (dropAccess (.vf guest) 2 1 req s)
    | .ok (x, l) =>
      if req.write then
        if 2 ≤ pteClass x.leaf then .next (dropAccess (.vf guest) 2 2 req s)
        else .next (whenOpen (.dataApertureAccess guest req) (reachable s guest (x.gpaAt req.addr) l)
          (fun s => hostDataWrite guest x l req (sendAccess true guest (x.gpaAt req.addr) l s)) s)
      else .next (whenOpen (.dataApertureAccess guest req) (reachable s guest (x.gpaAt req.addr) l)
        (fun s => hostDataRead guest x l req (sendAccess false guest (x.gpaAt req.addr) l s)) s)

/-- Is a tag one that no line may hold: FMT 10 to 31, or VCLASS 4 to 7 (R225, R387)? -/
def badTag (t : Tag) : Bool := decide (10 ≤ tagFmt t) || decide (4 ≤ tagClass t)

/-- A host write of a line's tag (R225): one write at the home, which leaves the data within the span of the new tag. -/
def hostTagWrite (g : Nat) (x : Xlat) (l : Loc) (t : Tag) (s : State) : State :=
  externalWrite g l 0 0 (if l.space = .host then none else some t) (pageMark l (pteClass x.leaf == 1)) s

/-- TAG_APERTURE_ACCESS (R225, R384): the 2 bytes at twice the line's number. DESIGN CHOICE (log 40): an access of another size or
alignment is no access of this row and does nothing. -/
def execTagApertureAccess (guest : Nat) (req : ApertureReq) (s : State) : Out :=
  let gva := req.addr / 2 * 64
  let t := req.data.setWidth 16
  if Config.guests ≤ guest ∨ req.size ≠ 2 ∨ req.addr % 2 = 1 ∨ 2 ^ 48 ≤ gva then .next s
  else if (s.guest guest).maySend = false then .next (dropAccess (.vf guest) 4 4 req s)
  else if walkOpen s guest gva = false then .next (holdAccess (.tagApertureAccess guest req) s)
  else
    match hostPlace s guest gva req.write with
    | .error (.absent hpa) => .fault (.outsideHbm hpa)
    | .error _ => .next (dropAccess (.vf guest) 4 1 req s)
    | .ok (x, l) =>
      if req.write then
        if 2 ≤ pteClass x.leaf then .next (dropAccess (.vf guest) 4 2 req s)
        else if badTag t then .next (dropAccess (.vf guest) 4 3 req s)
        else .next (whenOpen (.tagApertureAccess guest req) (reachable s guest (x.gpaAt gva) l)
          (fun s => hostTagWrite guest x l t (sendAccess true guest (x.gpaAt gva) l s)) s)
      else .next (whenOpen (.tagApertureAccess guest req) (reachable s guest (x.gpaAt gva) l)
        (fun s => reply 2 (hostImg s guest x (x.gpaAt gva) l).tag.toNat (sendAccess false guest (x.gpaAt gva) l s)) s)

/-- HDM_ACCESS (R263, R383): HBM by HPA, data only; tags stay. -/
def execHdmAccess (req : ApertureReq) (s : State) : Out :=
  let l : Loc := ⟨.hbm, req.addr / 64⟩
  if reqFits req = false ∨ Config.hbmBytes ≤ req.addr then .next s
  else if req.write then
    let g := (guestOfHpa s req.addr).getD 0
    .next (whenOpen (.hdmAccess req) (homeOpen s l) (sealsIn g l (externalWrite g l (byteMask (req.addr % 64) req.size)
      (setLineBytes 0 (req.addr % 64) req.size req.data.toNat) none none)) s)
  else .next (whenOpen (.hdmAccess req) (homeOpen s l)
    (fun s => reply req.size ((systemImg s l).bits.toNat / 2 ^ (8 * (req.addr % 64)) % 2 ^ (8 * req.size)) s) s)

/-! ### Interrupts and overflow entries (R340, R344) -/

/-- COALESCE_PERIOD_END (R338, R340): the messages of the pending vectors leave, unless the function is frozen. -/
def execCoalescePeriodEnd (guest : Nat) (s : State) : Out :=
  let x := s.guest guest
  match x.period with
  | none => .next s
  | some (e, _) =>
    if s.timeUs < e then .next s
    else if x.maySend then .next (sendPending guest s)
    else .next (s.setGuest guest { x with period := none })

/-- A register read of a frozen function is dropped (R336, R384). -/
def droppedRead (g off : Nat) (s : State) : State := replyOnes 8 (hostError (.vf g) 0 off 4 s)

/-- PMOVHI_READ (R336, R339, R344, R384): the high half of the head entry, which is popped; a frozen function answers all ones. -/
def execPmovhiRead (guest : Nat) (s : State) : Out :=
  let x := s.guest guest
  if x.frozen.isSome then .next (droppedRead guest 0x818 s)
  else
    let v := ((x.overflow.head?).map (·.2)).getD 0
    .next (reply 8 v.toNat (s.setGuest guest { x with overflow := x.overflow.drop 1 }))

/-! ### The Wayfarer window (R345, R347) -/

/-- DBGSEL and its fields (R347). -/
def dbgSel (s : State) : Word := s.pfReg 0x60000
def dbgCore (s : State) : Nat := fld (dbgSel s) 0 6
def dbgStream (s : State) : StreamId := if bit (dbgSel s) 6 then .x else .a
def dbgSpace (s : State) : Nat := fld (dbgSel s) 8 2
def dbgCsr (s : State) : Nat := fld (dbgSel s) 10 10
def dbgCode (s : State) : Nat := fld (dbgSel s) 20 8
def dbgIdx (s : State) : Nat := fld (dbgSel s) 32 7

/-- Does the window reach its target now (R347)? -/
def dbgOpen (s : State) : Bool :=
  let k := s.core (dbgCore s)
  let st := k.stream (dbgStream s)
  decide (k.mode = .run) && k.place.isSome && (dbgSpace s == 0 || st.halted || st.frozen.isSome)

/-- Does DBGSEL name a register of the stream? -/
def dbgNames (s : State) : Bool :=
  let c := dbgCode s
  match dbgSpace s with
  | 0 => csrHeld (dbgStream s) (dbgCsr s)
  | 1 => decide (c < 64) || (decide (0xD0 ≤ c) && decide (c < 0xE0))
  | 2 => decide (dbgStream s = .x) && decide (0x40 ≤ c) && decide (c < 0x60)
  | _ => decide (dbgStream s = .x) && decide (0x40 ≤ c) && decide (c < 0x60) && decide (dbgIdx s < 16)

/-- The register that DBGSEL names. -/
def dbgValue (s : State) : Word :=
  let k := s.core (dbgCore s)
  let st := k.stream (dbgStream s)
  let c : Code := BitVec.ofNat 8 (dbgCode s)
  match dbgSpace s with
  | 0 => csrRead k (dbgStream s) (dbgCsr s)
  | 1 => if dbgCode s < 64 then st.reg c else word (b2n (st.pred c))
  | 2 => lineWord ((k.vreg c).seg (dbgIdx s / 8)).bits (8 * (dbgIdx s % 8))
  | _ => ((k.vreg c).seg (dbgIdx s)).tag.setWidth 64

/-- RW and W1C bits of a CSR for the host's window, which reaches every field (R347, log 33). -/
def dbgMasks (t : StreamId) (a : Nat) : Word × Word :=
  let m := csrMasks t a
  if a = 1 ∨ a = 5 then (0x7FF, 0)
  else if a = 2 then (0x1F, 0)
  else if a = 7 then (7, 0)
  else if a = 0x21 then (0x3F, 0)
  else if a = 0x22 then (0x7F, 0)
  else if a = 0x23 then (0xFFFFFFFF, 0)
  else if 0x10 ≤ a ∧ a ≤ 0x13 then (BitVec.allOnes 64, 0)
  else if a = 0x20 then (0xFFFFFFFFFFFF, 0)
  else if a = 0x303 then (m.1 ||| 0x400, m.2)
  else if a = 0x310 then (0x87, 0)
  else if a = 0x311 then (0x8000, m.2)
  else if (0x312 ≤ a ∧ a ≤ 0x315) ∨ (0x31A ≤ a ∧ a ≤ 0x31F) then (m.1 ||| 0x4000000000000000, m.2)
  else m

/-- Is a value one that VLCAP and VLENB can hold (R115)? -/
def isWidth (n : Nat) : Bool := [64, 128, 256, 512, 1024].contains n

/-- MUNITS written by the host (log 33): 7 puts every unit to work, 6 takes unit 6 out where none is out. -/
def setMunits (n : Nat) (u : CoreUnits) : CoreUnits :=
  if n = 7 then { u with unitsOut := 0, quarantined := none }
  else if n = 6 ∧ u.munits = 7 then { u with quarantined := some 6 }
  else u

/-- Store a CSR through the window. A value that VLCAP cannot hold leaves it unchanged (R115), and so, DESIGN CHOICE (log 33), does
one that VLENB cannot hold. -/
def dbgStore (t : StreamId) (a : Nat) (v : Word) (k : Core) : Core :=
  if a = 1 then { k with vec := { k.vec with vl := v.setWidth 11 } }
  else if a = 2 then { k with vec := { k.vec with vtype := vtypeOf (fld v 0 5) } }
  else if a = 0x10 then { k with copy := { k.copy with cnext := v } }
  else if a = 0x11 then { k with copy := { k.copy with cseq := v } }
  else if a = 0x12 then { k with mat := { k.mat with mnext := v } }
  else if a = 0x13 then { k with mat := { k.mat with mseq := v } }
  else if a = 0x20 then { k with place := k.place.map (fun p => { p with argp := v }) }
  else if a = 0x21 then { k with place := k.place.map (fun p => { p with gidx := v.toNat }) }
  else if a = 0x22 then { k with place := k.place.map (fun p => { p with gsize := v.toNat }) }
  else if a = 0x23 then { k with place := k.place.map (fun p => { p with job := { p.job with gnum := v.toNat } }) }
  else if a = 5 then if isWidth v.toNat then { k with units := { k.units with lanes := v.toNat / 64 } } else k
  else if a = 7 then { k with units := setMunits v.toNat k.units }
  else if a = 0x200 ∧ isWidth v.toNat = false then k
  else csrStore t a v k

/-- What a write of WCTL or WSTAT through the window does to a halt (R347): a halt by HALTREQ ends when HALTREQ clears, any
halt when HALTED is written 0; HALTED written 1 halts. -/
def dbgHalt (a : Nat) (old : Stream) (st : Stream) : Stream :=
  if a = 0x310 ∧ bit old.wctl 7 ∧ bit st.wctl 7 = false ∧ old.haltByReq then
    { st with wayf := tabPut st.wayf 1 (setFld st.wstat 15 1 0), haltByReq := false }
  else if a = 0x311 then
    if st.halted ∧ old.halted = false then { st with wait := none, haltByReq := false }
    else if st.halted = false then { st with haltByReq := false }
    else st
  else st

/-- A CSR written through the window. -/
def dbgWriteCsr (t : StreamId) (a : Nat) (v : Word) (k : Core) : Core :=
  let old := csrRead k t a
  let k' := dbgStore t a (csrStored .write (dbgMasks t a) old v) k
  k'.setStream t (dbgHalt a (k.stream t) (k'.stream t))

/-- A register other than a CSR written through the window. -/
def dbgWriteReg (s : State) (v : Word) (k : Core) : Core :=
  let t := dbgStream s
  let c : Code := BitVec.ofNat 8 (dbgCode s)
  match dbgSpace s with
  | 1 => k.setStream t (if dbgCode s < 64 then (k.stream t).setReg c v else (k.stream t).setPred c (bit v 0))
  | 2 =>
    let g := (k.vreg c).seg (dbgIdx s / 8)
    k.setVreg c ((k.vreg c).putSeg (dbgIdx s / 8) ⟨setLineBytes g.bits (8 * (dbgIdx s % 8)) 8 v.toNat, g.tag⟩)
  | _ =>
    let g := (k.vreg c).seg (dbgIdx s)
    k.setVreg c ((k.vreg c).putSeg (dbgIdx s) ⟨g.bits, v.setWidth 16⟩)

/-- DBGDATA_WRITE (R345, R347). -/
def execDbgdataWrite (value : Word) (s : State) : Out :=
  if dbgOpen s && dbgNames s then
    if dbgSpace s = 0 then .next (s.modCore (dbgCore s) (dbgWriteCsr (dbgStream s) (dbgCsr s) value))
    else .next (s.modCore (dbgCore s) (dbgWriteReg s value))
  else .next s

/-- DBGDATA_READ (R347). -/
def execDbgdataRead (s : State) : Out :=
  if dbgOpen s && dbgNames s then .next (reply 8 (dbgValue s).toNat s) else .next (replyOnes 8 s)

end Sys2Proof.Machine
end

