-- ==== Sys2Proof/Machine/Fabric.lean ====
section
/-! DEFINITION. Machine/Fabric.lean: inbound peer requests, flits and links (R334, R336, R370, R380, R385 to R388), and
the retirement of LLC banks, HBM rows and link lanes (R377 to R380). -/

namespace Sys2Proof.Machine

/-! ### Peers (R386, R387) -/

/-- A link protocol violation: code 1 to 4 of R387. The peer behind the link freezes. -/
def linkViolation (link code : Nat) (s : State) : State :=
  let seq := s.violSeq
  let s := fabricCount 0x26 link 1 (s.addViolation 5 4 link 0 0 0 code none)
  { s with peerFrozen := tabPut s.peerFrozen link seq }

/-- The inbound entry of a guest that a peer's request matches: it names the peer and its guest, and the link among those that
may carry the traffic (R386, log 34). -/
def inboundMatch (s : State) (r : PeerReq) : Option Word :=
  ((List.range 16).map (fun j => apertureLo s true r.guest j)).find? (fun e =>
    bit e 63 && bit e (32 + r.link) && decide (fld e 16 8 = r.dev) && decide (fld e 0 7 = r.rguest))

/-- Does a request bring a tag that no line may hold (R387)? -/
def peerBadTag (r : PeerReq) : Bool :=
  match r.op with
  | .write _ tag => badTag tag
  | _ => false

/-- The code of the violation that a request makes (R387): a GPA that fails the comparator counts as one that no entry
admits (log 34). -/
def peerRefusal (s : State) (r : PeerReq) : Option Nat :=
  if peerBadTag r then some 4
  else
    match inboundMatch s r with
    | none => some 3
    | some e => if (r.op.writes && !bit e 62) || !gpaPasses (s.guest r.guest) r.gpa then some 3 else none

/-- A peer's atomic on 8 bytes, performed at their home and published at system scope (R283, R386): the pending writes to the
bytes are published with it and come before it (R257). DESIGN CHOICE (log 34): where the line's tag refuses the operation
(R280) nothing is written; the answer is what the bytes held. -/
def peerAtomic (g : Nat) (l : Loc) (off link : Nat) (op : AmoOp) (b d : Word) (s : State) : State :=
  let off := off / 8 * 8
  let s := publish (fun r => decide (r.loc = l) && r.pub.isNone && r.mask &&& byteMask off 8 != 0) .system [] s
  let line := systemImg s l
  let m := amoRead line.mark line off
  let s := fabricCount 0x20 link 1 (reply 8 m.toNat s)
  match amoLine op line.mark line off, amoValue op line.tag m b d with
  | .ok ch, some v =>
    recallLine 64 l true (sealsIn g l (externalChange g l { ch with bits := setLineBytes 0 off 8 v.toNat } (some line.mark)) s)
  | _, _ => s

/-- An accepted request: a read returns the line with its tag, a write replaces the line whole, and an atomic is performed, each
published at system scope (R263, R283, R386). It waits for a stack that serves save traffic only (R325). -/
def peerAccess (r : PeerReq) (s : State) : Out :=
  match placeGpa s r.guest 1 r.op.writes r.gpa with
  | .error (.absent hpa) => .fault (.outsideHbm hpa)
  | .error _ => .next s
  | .ok l =>
    .next (whenOpen (.peerRequest r) (homeOpen s l) (fun s =>
      match r.op with
      | .read =>
        let i := systemImg s l
        reply 66 (i.bits.toNat + i.tag.toNat * 2 ^ 512) (lineOn r.link s)
      | .write bits tag => sealsIn r.guest l (externalWrite r.guest l allBytes bits (some tag) (some false)) s
      | .atomic op b d => peerAtomic r.guest l (r.gpa % 64) r.link op b d s) s)

/-- A peer's request on a link (R386, R387). A link that is down or whose peer is frozen accepts nothing (R336). -/
def peerOp (r : PeerReq) (s : State) : Out :=
  if Config.links ≤ r.link ∨ Config.guests ≤ r.guest ∨ linkReady s r.link = false then .next s
  else
    match peerRefusal s r with
    | some code => .next (linkViolation r.link code s)
    | none => peerAccess r s

/-- PEER_REQUEST (R263, R386, R387). -/
def execPeerRequest (req : PeerReq) (s : State) : Out := peerOp req s

/-! ### Flits (R370, R385, R387) -/

/-- The error record of a link: WHERE is the link, UNIT the lane (R373, R375). -/
def laneRecord (s : State) (link lane sev : Nat) : ErrRec := ⟨s.timeUs, 0, none, 0, lane, link, 8, sev, 6⟩

/-- A flit whose CRC fails: it is retried and recorded; after eight failed retries the failure counts against each lane
that the syndrome names (R370, R373, log 35). -/
def flitBad (link : Nat) (lanes : List Nat) (s : State) : State :=
  let n := tabGet 0 s.linkRetry link + 1
  let s := fabricCount 0x24 link 1 { s with linkRetry := tabPut s.linkRetry link n }
  let named := lanes.filter (fun l => decide (l < 8))
  if n = 9 && !named.isEmpty then named.foldl (fun s l => detectError (laneRecord s link l 1) s) s
  else writeError (laneRecord s link (lanes.headD 0) 0) s

/-- The lines of a flit, three at most (R385). -/
def flitLines : Nat := 3

/-- The place of a line that a response brings. -/
def answeredLine (dev rguest : Nat) (x : PeerLine) : Loc := ⟨.peer, peerAddr dev rguest x.gpa / 64⟩

/-- What stays outstanding on a link after the lines of a response, none where one of them was not asked for (R387). -/
def takeAsked (link dev rguest : Nat) : List PeerLine → List (Nat × Nat) → Option (List (Nat × Nat))
  | [], out => some out
  | x :: r, out =>
    let e := (link, (answeredLine dev rguest x).line)
    if e ∈ out then takeAsked link dev rguest r (out.erase e) else none

/-- A line that a response brings: one write published at system scope, which the views of the guests' cores take (R263, R386). -/
def takeLine (dev rguest : Nat) (x : PeerLine) (s : State) : State :=
  let id := s.nextWrite
  let s := outsideWrite 0 (answeredLine dev rguest x) allBytes x.bits (some x.tag) none s
  let ps := (s.cores.map (fun e => partiesOf e.1)).flatten
  compact (ps.foldl (fun s p => enterClosed p [id] s) s)

/-- A response to requests of this package; one on a link that has no request outstanding, one with a line that no request is
outstanding for, and one with a bad tag violate (R387). -/
def flitResponse (link dev rguest : Nat) (lines : List PeerLine) (s : State) : State :=
  match (if s.peerOut.any (fun e => e.1 == link) then takeAsked link dev rguest lines s.peerOut else none) with
  | none => linkViolation link 2 s
  | some out =>
    if lines.any (fun x => badTag x.tag) then linkViolation link 4 s
    else lines.foldl (fun s x => takeLine dev rguest x s) { s with peerOut := out }

/-- A peer's requests of one flit, in order. -/
def flitRequests (link : Nat) : List PeerReq → State → Out
  | [], s => .next s
  | r :: rest, s =>
    match peerOp { r with link := link } s with
    | .next s => flitRequests link rest s
    | o => o

/-- FLIT_RECEIVE (R336, R370, R385, R387). -/
def execFlitReceive (link : Nat) (flit : Flit) (s : State) : Out :=
  if Config.links ≤ link ∨ linkReady s link = false then .next s
  else
    let got := fun (n : Nat) => fabricCount 0x23 link n (fabricCount 0x21 link 1 { s with linkRetry := tabErase s.linkRetry link })
    match flit with
    | .badCrc lanes => .next (flitBad link lanes s)
    | .malformed => .next (linkViolation link 1 (got 0))
    | .response dev guest lines =>
      let ls := lines.take flitLines
      .next (flitResponse link dev guest ls (got ls.length))
    | .request reqs =>
      let rs := reqs.take flitLines
      flitRequests link rs (got (rs.filter (fun r => match r.op with | .write _ _ => true | _ => false)).length)

/-! ### Retirement of LLC banks, HBM rows and link lanes (R377, R379, R380) -/

/-- The record of a retirement that is made, SEV 3, or that cannot be, SEV 4 (R377, R378). -/
def retiredRecord (s : State) (type place unit : Nat) (done : Bool) : ErrRec :=
  ⟨s.timeUs, 0, none, 0, unit, place, type, if done then 3 else 4, 0⟩

/-- Offsets of RCORE, RBANK and RLINK (R381). -/
def rcoreOff (c : Nat) : Nat := 0x71000 + 8 * c
def rbankOff (st layer : Nat) : Nat := 0x71200 + 8 * (4 * st + layer)
def rlinkOff (j : Nat) : Nat := 0x71400 + 8 * j

/-- Does a bank of a stack hold a line of its LLC? -/
def inBank (s : State) (stack bank : Nat) (e : Nat × Nat × Nat) : Bool := e.1 == stack && bankOf s stack e.2.2 == bank

/-- A written line whose code does not read it as its bank is emptied: HBM takes zeros under 0x0200, with a record (R379). -/
def lostDirty (stack bank : Nat) (s : State) (line : Nat) : State :=
  loseHome line (writeError { lineRecord s line 5 bank 1 3 with place := stack } s)

/-- The base die visits each line of a bank (R379): a clean one is dropped, a written one goes to HBM where its code reads it, and
otherwise is lost. Which of them a code reads is a free value. -/
def emptyBank (stack bank : Nat) (s : State) : State :=
  let gone := inBank s stack bank
  let lost := ((s.llcDirty.filter (fun e => gone e && decide (e ∈ s.llc))).map (·.2.2)).filter (fun n => !Config.dirtyReads s.errSeq n)
  let s := dropLlcLines (s.llc.filter gone) s
  lost.foldl (lostDirty stack bank) s

/-- Saved contexts that a stack has no longer room for in its ways go to the save region (R326, R379). -/
def moveSaves (stack : Nat) (s : State) : State :=
  (s.guests.map (·.1)).foldl (fun s g => if savesInWays s g (8 * stack) then s else moveReserved (fun m => m.stack == stack) g s) s

/-- Is a structure marked for retirement, and has the edge come at which its action is taken (R375, R377)? -/
def ErrCount.ripe (e : ErrCount) : Bool := e.marked && e.edge

/-- Is the retirement of a structure to be made now? -/
def isMarked (s : State) (type place unit : Nat) : Bool := (errCounter s type place unit).ripe

/-- A bank absent from the LLC of a stack. -/
def withoutBank (stack layer bank : Nat) (s : State) : State :=
  s.setPf (rbankOff stack layer) (s.pfReg (rbankOff stack layer) ||| word (2 ^ bank))

/-- A bank leaves a stack's LLC (R379): its lines leave it, and so do the saved contexts and the lines that have no room without it. -/
def parkBank (stack layer bank : Nat) (s : State) : State :=
  llcTrim stack (moveSaves stack (withoutBank stack layer bank (emptyBank stack (32 * layer + bank) s)))

/-- LLC_BANK_RETIRE (R326, R377, R379): a bank that it or its vertical bus is marked for. -/
def execLlcBankRetire (stack layer bank : Nat) (s : State) : Out :=
  let u := 32 * layer + bank
  let type := if isMarked s 5 stack u then 5 else 6
  if 8 ≤ stack ∨ 4 ≤ layer ∨ 32 ≤ bank ∨ (isMarked s type stack u) = false then .next s
  else
    let s := parkBank stack layer bank (clearCount (errCounter s type stack u) s)
    .next (recheckEdges (writeError (retiredRecord s type stack u true) s))

/-- A line of a row that the copy could not correct (R380). -/
def lostLine (hbmStack row : Nat) (s : State) (line : Nat) : State :=
  if homeStack line = hbmStack / 2 ∧ hbmUnit line = hbmStack % 2 ∧ Config.hbmRow line = row ∧ lineExists line then
    poisonLine line (writeError (lineRecord s line 7 (hbmUnit line) 1 3) s)
  else s

/-- HBM_ROW_REMAP (R326, R377, R380): a marked row goes to a spare one; without a spare it stays. -/
def execHbmRowRemap (hbmStack row : Nat) (lost : List Nat) (spare : Bool) (s : State) : Out :=
  let place := hbmStack / 2
  let key := hbmStack % 2 + 2 * row
  if isMarked s 7 place key = false then .next s
  else
    let s := clearCount (errCounter s 7 place key) s
    let s := if spare then lost.foldl (lostLine hbmStack row) { s with rowsRemapped := s.rowsRemapped ++ [(hbmStack, row)] } else s
    .next (recheckEdges (writeError (retiredRecord s 7 place (hbmStack % 2) spare) s))

/-- Working lanes of a link under a mask of lanes out. -/
def lanesLeft (out : Nat) : Nat := ((List.range 8).filter (fun i => !out.testBit i)).length

/-- The largest power of two not above a number, up to 16. -/
def powFloor (n : Nat) : Nat := if 16 ≤ n then 16 else if 8 ≤ n then 8 else if 4 ≤ n then 4 else if 2 ≤ n then 2 else n

/-- Lanes of a link that are marked for retirement. -/
def markedLanes (s : State) (link : Nat) : List Nat := (List.range 8).filter (fun i => isMarked s 8 link i)

/-- A marked lane leaves its link, or stays where the link has one lane already (R377): the lanes out so far, and the record. -/
def narrowLane (link : Nat) (x : Nat × State) (i : Nat) : Nat × State :=
  let done := x.1.testBit i || decide (1 < lanesLeft x.1)
  let s := clearCount (errCounter x.2 8 link i) x.2
  (if done then x.1 ||| 2 ^ i else x.1, writeError (retiredRecord s 8 link i done) s)

/-- LINK_NARROW (R326, R377, R380): the lanes that have failed and the marked ones go out, one after another while the link has
more than one, and the link is retrained on the largest power of two of the others. -/
def execLinkNarrow (link badLanes : Nat) (s : State) : Out :=
  let ms := markedLanes s link
  let old := (s.pfReg (rlinkOff link)).toNat % 256
  let out := old ||| badLanes % 256
  if Config.links ≤ link ∨ ms.isEmpty then .next s
  else
    let r := ms.foldl (narrowLane link) (if lanesLeft old < 2 ∨ lanesLeft out = 0 then old else out, s)
    .next (recheckEdges (r.2.setPf (rlinkOff link) (word r.1)))

/-- The lanes that a link runs on (R380). -/
def linkWidth (s : State) (link : Nat) : Nat := powFloor (lanesLeft (s.pfReg (rlinkOff link)).toNat)

end Sys2Proof.Machine
end

