-- ==== Sys2Proof/Machine/Bringup.lean ====
section
/-! DEFINITION. Machine/Bringup.lean: power, bring-up, the self-test, retirement state and management (R179, R381, R382,
R389 to R392). -/

namespace Sys2Proof.Machine

/-- Is a Timetable in force or was one: TTSTAT.GEN (R316)? -/
def ttGen (s : State) : Nat := fld (s.pfReg ttstatOff) 48 16

/-- A bring-up write: dropped with REASON 8 while GEN is not 0 (R384, R391). -/
def bringupWrite (off : Nat) (eff : State → State) (s : State) : State :=
  if ttGen s ≠ 0 then hostError .pf 0 off 8 s else eff s

/-! ### Power (R381, R390, R391) -/

/-- The package at its reset values: what stands outside it stays, and so do the spare-row maps of the HBM stacks (R381). -/
def resetPackage (on : Bool) (s : State) : State :=
  { State.reset with
    agenda := s.agenda, sched := s.sched, turn := s.turn, hostMem := s.hostMem, peerMem := s.peerMem, peerTags := s.peerTags,
    rowsRemapped := s.rowsRemapped, sent := s.sent, replies := s.replies, managed := s.managed, powered := on }

/-- POWER_ON (R391). -/
def execPowerOn (s : State) : Out := if s.powered then .next s else .next (resetPackage true s)

/-- POWER_OFF (R381, R390): the package keeps nothing powered. -/
def execPowerOff (s : State) : Out := .next (resetPackage false s)

/-- PWRCTL_WRITE (R390): LIMIT is stored clamped to 1,200 to 2,800 W. -/
def writeLimit (value : Word) (s : State) : State :=
  s.setPf 0x98000 (word (Nat.min 2800 (Nat.max 1200 (fld value 0 12))))

/-- PWRCTL_WRITE (R390). -/
def execPwrctlWrite (value : Word) (s : State) : Out := .next (writeLimit value s)

/-- THERMAL_LIMITING (R390): the fraction of a stack's pulses in PWRSTAT, never less than half. -/
def execThermalLimiting (stack fraction : Nat) (s : State) : Out :=
  if 8 ≤ stack then .next s
  else .next (s.setPf 0x98008 (setFld (s.pfReg 0x98008) (8 * stack) 8 (Nat.min 255 (Nat.max 128 fraction))))

/-- HOST_LINK_TRAIN (R382): a generation 4 to 6 and a width of 16, 8 or 4. -/
def execHostLinkTrain (gen width : Nat) (s : State) : Out :=
  if (4 ≤ gen ∧ gen ≤ 6) ∧ [4, 8, 16].contains width = true then .next { s with hostLink := some (gen, width) } else .next s

/-! ### Microcode, HBM and links (R391) -/

/-- Offsets of MCCTL, HBMCTL, HBMSTAT, STCTL and STSTAT (R391, R392, log 31). -/
def mcctlOff : Nat := 0xA8000
def hbmctlOff : Nat := 0xA8010
def hbmstatOff : Nat := 0xA8018
def stctlOff : Nat := 0xA8030
def ststatOff : Nat := 0xA8038

/-- MCCTL_LOAD (R391). -/
def execMcctlLoad (value : Word) (s : State) : Out :=
  .next (bringupWrite mcctlOff (fun s => s.setPf mcctlOff (value &&& 0xFFFFFFFF00000001)) s)

/-- MICROCODE_LOAD_DONE (R391): DONE, or BAD on a CRC mismatch. -/
def execMicrocodeLoadDone (s : State) : Out :=
  let v := s.pfReg mcctlOff
  if bit v 0 then
    let good := decide (Config.imageCrc s.microcode = BitVec.ofNat 32 (fld v 32 32))
    .next (s.setPf mcctlOff (setFld v 0 3 (if good then 2 else 4)))
  else .next s

/-- HBM_TRAIN (R391): training that HBMCTL asks for completes. -/
def execHbmTrain (hbmStack : Nat) (s : State) : Out :=
  if hbmStack < 16 ∧ bit (s.pfReg hbmctlOff) hbmStack then .next (s.setPfFld hbmstatOff hbmStack 1 1) else .next s

/-- LINK_TRAIN (R385, R391): a link that LINKCTL asks for comes up at generation 2 or 3; bit 32 + j of LINKSTAT is 1 for
generation 3 (log 31). A frozen peer's link waits for the host's answer (R337). -/
def execLinkTrain (link gen : Nat) (s : State) : Out :=
  if link < Config.links ∧ (gen = 2 ∨ gen = 3) ∧ bit (s.pfReg linkctlOff) link ∧ (tabFind s.peerFrozen link).isNone then
    .next ((s.setPfFld linkstatOff link 1 1).setPfFld linkstatOff (32 + link) 1 (gen - 2))
  else .next s

/-- May a test of a bank start (R392)? -/
def testFits (stack layer bank : Nat) (s : State) : Bool :=
  match s.ttActive with
  | none => true
  | some t => (tableEdgeFails (withoutBank stack layer bank s) (fun g => (s.guest g).gresIn) t).isNone

/-- SELF_TEST (R379, R392): a test of one bank, whose contents are parked; failing cells count as errors of TYPE 5. STSTAT shows DONE
in bit 0 or REFUSED in bit 1, with the bank (log 36). -/
def execSelfTest (stack layer bank : Nat) (failing : List Nat) (s : State) : Out :=
  let u := 32 * layer + bank
  if 8 ≤ stack ∨ 4 ≤ layer ∨ 32 ≤ bank then .next s
  else if testFits stack layer bank s = false then .next (s.setPf ststatOff (word (2 + 256 * u)))
  else
    let parked := parkBank stack layer bank s
    let s := parked.setPf (rbankOff stack layer) (s.pfReg (rbankOff stack layer))
    let s := failing.foldl (fun s _ => detectError ⟨s.timeUs, 0, none, 0, u, stack, 5, 0, 0⟩ s) s
    .next (s.setPf ststatOff (word (1 + 256 * u)))

/-! ### Retirement state and schedules (R179, R381, R391) -/

/-- RCORE of a core (R381). -/
def rcoreValue (k : Core) : Word := word (k.units.unitsOut.toNat * 65536 + k.units.lanesOut.toNat)

/-- Lane groups that a mask takes out. -/
def lanesOutCount (m : Nat) : Nat := ((List.range 16).filter (fun i => m.testBit i)).length

/-- A write of RCORE: more than one unit out is ignored; the logical width follows the groups, and is never
less than one group (R115, R381, log 38). -/
def writeRcore (c : Nat) (v : Word) (s : State) : State :=
  let units := fld v 16 7
  if 1 < ((List.range 7).filter (fun i => units.testBit i)).length then s
  else s.modCore c (fun k => { k with units := { k.units with
    lanesOut := BitVec.ofNat 16 (fld v 0 16), unitsOut := BitVec.ofNat 7 units, lanes := Nat.max 1 (powFloor (16 - lanesOutCount (fld v 0 16))) } })

/-- RETIREMENT_STATE_WRITE (R381). -/
def execRetirementStateWrite (offset : Nat) (value : Word) (s : State) : Out :=
  if offset % 8 ≠ 0 then .next s
  else if 0x71000 ≤ offset ∧ offset < 0x71200 then
    .next (bringupWrite offset (writeRcore ((offset - 0x71000) / 8) value) s)
  else if 0x71200 ≤ offset ∧ offset < 0x71300 then
    .next (bringupWrite offset (fun s => s.setPf offset (value &&& maskFld 0 32)) s)
  else if 0x71400 ≤ offset ∧ offset < 0x71480 then
    .next (bringupWrite offset (fun s => s.setPf offset (value &&& maskFld 0 8)) s)
  else .next s

/-- MSCHED_WRITE (R179, R391): at once while GEN = 0, else at the core's next edge that drains it. -/
def execMschedWrite (core unit : Nat) (value : Word) (s : State) : Out :=
  let v := value &&& maskFld 0 21
  if Config.cores ≤ core ∨ 8 ≤ unit then .next s
  else if ttGen s = 0 then .next (s.setPf (mschedOff core unit) v)
  else .next { s with pendPf := tabPut s.pendPf (mschedOff core unit) v }

/-! ### Management (R389) -/

/-- A retirement register as it reads. -/
def retirementRead (s : State) (off : Nat) : Word :=
  if 0x71000 ≤ off ∧ off < 0x71200 then rcoreValue (s.core ((off - 0x71000) / 8)) else s.pfReg off

/-- Is an offset that of a retirement state register (R381)? -/
def isRetirementOff (off : Nat) : Bool :=
  off % 8 == 0 && ((decide (0x71000 ≤ off) && decide (off < 0x71300)) || (decide (0x71400 ≤ off) && decide (off < 0x71480)))

/-- What management reads of an item, none where it names no item that it may read. -/
def managedRead (s : State) (item : MctpItem) : Option Word :=
  match item with
  | .readTemperature die => some (Config.dieTemperature die s.timeUs)
  | .readPower stack => some (Config.powerDrawn stack s.timeUs)
  | .readTtstat => some (s.pfReg ttstatOff)
  | .readEqtail => some (s.pfReg 0x70010)
  | .readEqlost => some (s.pfReg 0x70020)
  | .readRetirement off => if isRetirementOff off then some (retirementRead s off) else none
  | .writeLimit _ => some 0
  | .writeOther => none

/-- MCTP_REQUEST (R389): LIMIT is written, and every request is answered in its version: a read with the value, a write of LIMIT with
no value, which reads 0 (log 40), and any other request with an error. -/
def execMctpRequest (req : MctpReq) (s : State) : Out :=
  let r : MgmtReply := ⟨req.version, (managedRead s req.item).isNone, (managedRead s req.item).getD 0⟩
  let s := match req.item with
    | .writeLimit value => writeLimit value s
    | _ => s
  .next { s with managed := s.managed ++ [r] }

end Sys2Proof.Machine
end

