-- ==== Sys2Proof/Machine/Registers.lean ====
section
/-! DEFINITION. Machine/Registers.lean: 8-byte writes of the registers of the physical and the virtual functions by their
access codes (R4, R226, R297, R316, R321, R331 to R339, R374 to R377, R383 to R391). -/

namespace Sys2Proof.Machine

/-- A plain register: its RW bits and its W1C bits (R4). -/
def plainWrite (masks : Word × Word) (old v : Word) : Word :=
  ((v &&& masks.1) ||| (old &&& ~~~masks.1)) &&& ~~~(v &&& masks.2)

/-! ### The physical function -/

/-- RW and W1C bits of the plain registers of the physical function, none for an offset that is not one of them. -/
def pfMasks (off : Nat) : Option (Word × Word) :=
  if off = 0 then some (0, 1)
  else if off = 0x20008 then some (0, 0x0000700000000000)
  else if off = 0x20010 ∨ off = 0x50010 ∨ off = 0x70010 ∨ off = 0x70020 ∨ off = 0x98008 ∨ off = hbmstatOff ∨ off = linkstatOff ∨
      off = ststatOff then some (0, 0)
  else if off = 0x50000 then some (0xFFFFFFFFFFFFFFC0, 0)
  else if off = 0x50008 then some (0xFF1F, 0)
  else if off = 0x50018 ∨ off = 0x70018 then some (BitVec.allOnes 64, 0)
  else if off = 0x60000 then some (0x0000007F0FFFFF7F, 0)
  else if off = 0x70000 then some (0xFFFFFFFFFFFFFFE0, 0)
  else if off = 0x70008 then some (0x1FF1F, 0)
  else if 0x91000 ≤ off ∧ off < 0x91020 then some (0, 0)
  else if 0x90000 ≤ off ∧ off < 0x91000 ∧ off % 16 = 0 then some (0xFFFFFFFFFFFFFFFC, 0)
  else if 0x94000 ≤ off ∧ off < 0x94080 ∧ off % 16 = 0 then some (0xC000000000FF8FFF, 0x2000000000000000)
  else if 0x94000 ≤ off ∧ off < 0x94080 ∧ off % 16 = 8 then some (0x0000FFFFFFFFFFFF, 0)
  else if off = linkctlOff then some (0xFFFF, 0)
  else if off = stctlOff then some (BitVec.allOnes 64, 0)
  else none

/-- ETHRt as stored: 0 counts as 1 in either field (R376). -/
def ethrStored (v : Word) : Word := word (Nat.max 1 (fld v 16 16) * 65536 + Nat.max 1 (fld v 0 4))

/-- RTABt as stored (R377). -/
def rtabStored (t : Nat) (v : Word) : Word := if fld v 0 2 = 1 ∧ t ≠ 3 ∧ t ≠ 4 then 1 else 0

/-- A write of the control half of an entry of the physical function's MSI-X table: unmasked, a pending event leaves as a
message (R383, log 20). -/
def writePfVector (v : Nat) (value : Word) (s : State) : State :=
  let s := s.setPf (0x90000 + 16 * v + 8) (value &&& 0x1FFFFFFFF)
  let pend := bit (s.pfReg (0x91000 + 8 * (v / 64))) (v % 64)
  if pend && !bit value 32 then raisePf v (setPfPending v false s) else s

/-- A write of an aperture entry, with the timing of R332 (R386). Bits that R386 reserves stay 0. -/
def writeAperture (off : Nat) (v : Word) (s : State) : State :=
  let inbound := decide (0x88000 ≤ off)
  let g := off / 0x100 % 0x80
  let v := if off % 16 = 0 then v &&& 0xC000FFFF00FF007F else if inbound then 0 else v &&& maskFld 0 48
  if ownsNow s g then { s with pendPf := tabPut s.pendPf off v } else { s.setPf off v with pendPf := tabErase s.pendPf off }

/-- A write of a register of a guest's control block (R331 to R333). -/
def writeGuestCtl (g r : Nat) (v : Word) (s : State) : Out :=
  if r = 0 then
    if bit v 0 then execGuestEnable g s else execGuestDisable g s
  else if r = 8 then execGbaseGboundWrite g false v s
  else if r = 0x10 then execGbaseGboundWrite g true v s
  else if r = 0x18 then
    .next (if (s.guest g).en then s else s.modGuest g (fun x => { x with pool := fld v 0 40 }))
  else .next (hostError .pf 0 (0x40000 + 0x40 * g + r) 7 s)

/-- A write of a residency register (R321). -/
def writeResidency (g r : Nat) (v : Word) (s : State) : State :=
  if r = 0 then s.modGuest g (fun x => { x with gres := v &&& 0x3F7FFFFF })
  else if r = 8 then s.modGuest g (fun x => { x with gsave := v &&& 0x0000FFFFFFFF0000 })
  else if r = 0x10 then s.modGuest g (fun x => { x with gsavesz := v &&& maskFld 0 32 })
  else hostError .pf 0 (0x30000 + 0x20 * g + r) 7 s

/-- FRZRESP: reserved actions are ignored (R337). -/
def writeFrzresp (v : Word) (s : State) : State :=
  if fld v 32 2 = 0 then s else answerViolation (fld v 0 32) (fld v 32 2) s

/-- A write of the shadow Timetable: dropped with REASON 6 during COMMIT or PENDING (R316). -/
def writeShadow (off : Nat) (v : Word) (s : State) : State :=
  if bit (s.pfReg ttctlOff) 31 || bit (s.pfReg ttstatOff) 47 then hostError .pf 0 off 6 s
  else { s with ttShadow := memWrite s.ttShadow (off - 0x100000) 8 v.toNat }

/-- A write of the microcode window (R391). -/
def writeMicrocode (off : Nat) (v : Word) (s : State) : State :=
  bringupWrite off (fun s => { s with microcode := memWrite s.microcode (off - 0x300000) 8 v.toNat }) s

/-- A write to a register of the physical function. -/
def pfWrite (off : Nat) (v : Word) (s : State) : Out :=
  if off % 8 ≠ 0 then .next (hostError .pf 0 off 7 s)
  else
    match pfMasks off with
    | some m => .next (s.setPf off (plainWrite m (s.pfReg off) v))
    | none =>
      if off = ttctlOff then execTtctlCommit v s
      else if 0x30000 ≤ off ∧ off < 0x31000 then .next (writeResidency ((off - 0x30000) / 0x20) (off % 0x20) v s)
      else if 0x40000 ≤ off ∧ off < 0x42000 then writeGuestCtl ((off - 0x40000) / 0x40) (off % 0x40) v s
      else if off = 0x50020 then .next (writeFrzresp v s)
      else if off = 0x60008 then execDbgdataWrite v s
      else if 0x70088 ≤ off ∧ off < 0x700C8 then .next (s.setPf off (ethrStored v))
      else if 0x70108 ≤ off ∧ off < 0x70148 then .next (s.setPf off (rtabStored ((off - 0x70100) / 8) v))
      else if isRetirementOff off then execRetirementStateWrite off v s
      else if 0x80000 ≤ off ∧ off < 0x90000 then .next (writeAperture off v s)
      else if 0x90000 ≤ off ∧ off < 0x91000 then .next (writePfVector ((off - 0x90000) / 16) v s)
      else if off = 0x98000 then execPwrctlWrite v s
      else if 0xA0000 ≤ off ∧ off < 0xA1000 then execMschedWrite ((off - 0xA0000) / 0x40) (off / 8 % 8) v s
      else if off = mcctlOff then execMcctlLoad v s
      else if off = hbmctlOff then .next (bringupWrite off (fun s => s.setPf off (v &&& 0xFFFF)) s)
      else if 0x100000 ≤ off ∧ off < 0x300000 then .next (writeShadow off v s)
      else if 0x300000 ≤ off ∧ off < 0x400000 then .next (writeMicrocode off v s)
      else .next (hostError .pf 0 off 7 s)

/-! ### A virtual function -/

/-- RW and W1C bits of the plain registers of a virtual function. -/
def vfMasks (off : Nat) : Option (Word × Word) :=
  if off = 0 then some (0, 1)
  else if off = 0x400 then some (0x0000FFFFFFFFF000, 0)
  else if off = 0x408 then some (0x0000FFFFFFFFFFF8, 0)
  else if off = 0x410 then some (0x0000FFFFFFFFFFE0, 0)
  else if off = 0x418 ∨ off = 0x448 then some (0xFF1F, 0)
  else if off = 0x428 ∨ off = 0x450 ∨ off = 0x490 then some (BitVec.allOnes 64, 0)
  else if off = 0x440 then some (0x0000FFFFFFFFFFF0, 0)
  else if 0x460 ≤ off ∧ off < 0x480 then some (BitVec.allOnes 64, 0)
  else if off = 0x420 ∨ off = 0x458 ∨ off = 0x480 ∨ off = 0x488 ∨ off = 0x810 ∨ off = 0x818 then some (0, 0)
  else if 0x1400 ≤ off ∧ off < 0x1408 then some (0, 0)
  else if 0x1000 ≤ off ∧ off < 0x1400 ∧ off % 16 = 0 then some (0xFFFFFFFFFFFFFFFC, 0)
  else if off = 0x700 then some (0xFFFFF, 0)
  else if off = 0x708 then some (0xFF00, 1)
  else if off = 0x800 then some (0xFF03FF, 0)
  else if off = 0x808 then some (0xFF, 0)
  else if off = 0x830 ∨ off = 0x838 then some (0x0000FFFFFFFFFFF8, 0)
  else none

/-- A driver write to a host-only register freezes the function, and what waits at it is dropped (R334, R336, R339). -/
def hostOnlyWrite (g off : Nat) (s : State) : State :=
  let seq := s.violSeq
  dropHeld g ((s.addViolation 4 3 g 0 0 0 off none).modGuest g (fun x => { x with frozen := some seq }))

/-- A write of the control half of an MSI-X entry: bit 32 masks it; unmasked, a pending event leaves (R338, log 20). -/
def writeVfVector (g v : Nat) (value : Word) (s : State) : State :=
  let s := s.modGuest g (fun x =>
    { x.setReg (0x1000 + 16 * v + 8) (value &&& 0x1FFFFFFFF) with
      unmasked := if bit value 32 then listDel x.unmasked v else listAdd x.unmasked v })
  if v ∈ (s.guest g).pending ∧ bit value 32 = false then raiseVf g v s else s

/-- A write to a register of a launch queue's block (R297). -/
def writeQueueReg (g q r : Nat) (v : Word) (s : State) : Out :=
  if r = 0 then
    .next (s.modGuest g (fun x =>
      let l := x.queue q
      if bit l.ctl 16 then x else x.setQueue q { l with base := v &&& 0x0000FFFFFFFFFFC0 }))
  else if r = 8 then execLqctlWrite g q v s
  else if r = 0x28 then execLqstatWrite g q v s
  else if r = 0x10 ∨ r = 0x18 ∨ r = 0x20 ∨ r = 0x30 then .next s
  else .next (hostError (.vf g) 0 (lqOff q + r) 7 s)

/-- A write of a plain register. AGE_LIMIT changes effective priorities, so the Porter has to evaluate the guest, and the heads that
reserve under the new limit and did not before begin to at this moment (R302, R304). -/
def vfStore (off : Nat) (v : Word) (now : Nat) (x : Guest) : Guest :=
  let x := x.setReg off v
  if off = 0x700 then { x.noteAllReserving now 0 with due := true } else x

/-- A write by a guest's driver to a register of its function. -/
def vfWrite (g off : Nat) (v : Word) (s : State) : Out :=
  if (s.guest g).frozen.isSome then .next (hostError (.vf g) 0 off 4 s)
  else if off % 8 ≠ 0 then .next (hostError (.vf g) 0 off 7 s)
  else
    match vfMasks off with
    | some m => .next (s.modGuest g (fun x => vfStore off (plainWrite m (x.reg off) v) s.timeUs x))
    | none =>
      if off = 0x430 then .next (answerFault g (fld v 0 32) (bit v 32) s)
      else if 0x500 ≤ off ∧ off < 0x600 then writeQueueReg g ((off - 0x500) / 0x40) (off % 0x40) v s
      else if 0x600 ≤ off ∧ off < 0x700 then .next (hostError (.vf g) 0 off 5 s)
      else if off = 0x820 ∨ off = 0x828 then .next (hostOnlyWrite g off s)
      else if 0x1000 ≤ off ∧ off < 0x1400 then .next (writeVfVector g ((off - 0x1000) / 16) v s)
      else .next (hostError (.vf g) 0 off 7 s)

/-- REGISTER_WRITE (R4): an 8-byte write to a register of a function. A register that has a row of its own acts as that
row says. -/
def execRegisterWrite (fn : FnId) (offset : Nat) (value : Word) (s : State) : Out :=
  match fn with
  | .pf => pfWrite offset value s
  | .vf g => if g < Config.guests then vfWrite g offset value s else .next s

end Sys2Proof.Machine
end

