-- ==== Sys2Proof/Machine/Clock.lean ====
section
/-! DEFINITION. Machine/Clock.lean: a cycle of a core's arithmetic clock (R311, R343, R344, R366), the passing of time (R303,
R315, R388), and the moment at which a write enters a view (R252). -/

namespace Sys2Proof.Machine

/-- The counter event of a wait: QWAIT, FEWAIT or SYNCWAIT (R343). -/
def waitEvent (w : Wait) : Option Nat :=
  match w with
  | .queue _ _ => some 8
  | .push _ => some 8
  | .fullEmpty => some 9
  | .phase _ => some 0xA
  | .barrier => some 0xA
  | _ => none

/-- A stream's wait in a cycle of its core. -/
def noteWait (t : StreamId) (k : Core) : Core :=
  let st := k.stream t
  match st.wait with
  | some w =>
    match waitEvent w.why with
    | some e => k.note e (some t) st.level 1
    | none => k
  | none => k

/-- A WFE has waited one more cycle (R366). -/
def tickWfe (st : Stream) : Stream := if st.atWfe then { st with wfeCycles := st.wfeCycles + 1 } else st

/-- What a cycle leaves behind; `idle` says that QIDLE advances (R311, R344). -/
def tickCore (idle : Bool) (k : Core) : Core :=
  { k with a := tickWfe k.a, x := tickWfe k.x, qidle := if idle then k.qidle + 1 else 0, active := false, pmcX := [] }

/-- Does a stream wait at a CSR instruction (R394)? -/
def Stream.atCsr (st : Stream) : Bool :=
  match st.wait with
  | some w => wordOp w.word == 0x12
  | none => false

/-- A cycle that a CSR instruction of a stream waits is noted with the counters that count it: the instruction does not read it
(R394). -/
def noteOwn (t : StreamId) (k : Core) : Core :=
  let st := k.stream t
  match (st.wait.bind (fun w => waitEvent w.why)), st.atCsr with
  | some e, true =>
    let hit := (List.range 8).filter (fun n => pmcCounts (k.pmcReg (8 + n)) ⟨e, some t, st.level, 1⟩)
    k.setStream t { st with csrOwn := hit.foldl (fun m n => tabPut m n (tabGet 0 m n + 1)) st.csrOwn }
  | _, _ => k

/-- ARITHMETIC_CLOCK_CYCLE (R341, R343, R344): a core in RUN counts; in any other state nothing counts. -/
def execArithmeticClockCycle (core : Nat) (s : State) : Out :=
  if Config.cores ≤ core then .next s
  else if (s.core core).mode = .run then
    let idle := qidleAdvances s core
    let s := s.modCore core (fun k => noteOwn .x (noteOwn .a (noteWait .x (noteWait .a (k.note 1 none .u 1)))))
    .next ((countTally core s).modCore core (tickCore idle))
  else .next (s.modCore core (fun k => { k with tally := [], pmcX := [], active := false, qidle := 0 }))

/-- WRITE_ENTERS_VIEW (R252): a published write enters the view of a path that its publication reaches, or a write to a
scratchpad the view of a path that may see it early (R150, R186, R269, R270), with the earlier writes to its line. -/
def execWriteEntersView (write core : Nat) (path : Path) (s : State) : Out :=
  let p : Party := ⟨core, path⟩
  match s.writes.find? (fun r => r.id == write) with
  | none => .next s
  | some r =>
    if r.performed && (reachesParty s r p || mayReach r p) && (s.core core).place.isSome then
      .next (compact (if reachesParty s r p then enterClosed p [write] s else enterEarly p write s))
    else .next s

/-- The links that are not up (R388). -/
def downLinks (s : State) : List Nat := (List.range Config.links).filter (fun i => !bit (s.pfReg linkstatOff) i)

/-- The package time base advances (R315): queue heads wait (R303), and DOWNUS counts (R388). -/
def passTime (us : Nat) (s : State) : State :=
  let s := ageHeads us { s with timeUs := s.timeUs + us }
  (downLinks s).foldl (fun s i => fabricCount 0x27 i us s) s

end Sys2Proof.Machine
end

