-- ==== Sys2Proof/Machine/Tags.lean ====
section
/-! DEFINITION. Machine/Tags.lean: the tag of a line, the promotion lattice and the pattern book (R160, R162 to R164). -/

namespace Sys2Proof.Machine

/-- The first byte of the line that holds an address. -/
def lineBase (a : Word) : Nat := a.toNat / 64 * 64

/-- TGET (R162). -/
def execTget (f : RForm) (s : State) : Out :=
  issue (.tget f) (do
    let vs ← readSources [srcA f]
    let a := w0 vs
    watchAddr 0 false (lineBase a) 64
    gvaBound a
    let x ← translate .read a.toNat
    let l ← placeOf .read x a.toNat
    waitReads (fun y => y == l)
    destWait f.d
    let s0 ← get
    modify (orderAt s0.turn.1 l none)
    let i ← readLineA x a.toNat l
    finishScalar [srcA f] f.d (i.tag.setWidth 64)) s

/-- TSET (R163): one write at the line's home. -/
def execTset (f : RForm) (s : State) : Out :=
  issue (.tset f) (do
    let vs ← readSources [srcA f, srcB f]
    let a := w0 vs
    let t : Tag := (w1 vs).setWidth 16
    watchTag true t f.b 0
    need (decide (tagClass t < 4)) .tagClass (tagTval t f.b 0)
    need (decide (tagFmt t ≤ 9)) .tagFmt (tagTval t f.b 0)
    watchAddr 0 true (lineBase a) 64
    gvaBound a
    let x ← translate .write a.toNat
    let l ← placeOf .write x a.toNat
    classAllowsStore x a.toNat
    let rc := pteClass x.leaf == 1
    need (!rc || rcFormat (tagFmt t)) .tagWidth (tagTval t f.b 0)
    waitReads (fun y => y == l)
    takeCredit (creditFor (← get) l) a.toNat
    waitHomes
    modify (fun s => recallLine s.turn.1 l true (homeNote (some .a) s.turn.1 l s))
    storeChange (x.gpaAt a.toNat) l none rc ⟨0, 0, some t, .retag rc⟩ none
    modify (fun s => s.modCur (fun k => k.popAll [srcB f]))) s

/-! ### The lattice (R83, R86, R164) -/

/-- The index of a lattice access: bits [63:8] zero, fa and fb at most 9 (R83, R164). -/
def latticeIndex (v : Word) : Exec Nat := do
  need (decide (v.toNat < 256) && latIdxOk v) .illegal v
  return v.toNat

/-- LATW (R164): the entry is new in every copy when LATW retires. -/
def execLatw (f : RForm) (s : State) : Out :=
  issue (.latw f) (do
    let vs ← readSources [srcA f, srcB f]
    let i ← latticeIndex (w0 vs)
    need (latEntryOk (i / 16) (i % 16) (w1 vs &&& 0xFFFF)) .illegal (w1 vs)
    modify (fun s => (s.modGuest (s.guestOf s.turn.1) (fun x =>
      { x with lattice := tabPut x.lattice i ((w1 vs).setWidth 16) })).modCur (fun k => k.popAll [srcA f, srcB f]))) s

/-- LATR (R164). -/
def execLatr (f : RForm) (s : State) : Out :=
  issue (.latr f) (do
    let vs ← readSources [srcA f]
    let i ← latticeIndex (w0 vs)
    destWait f.d
    let lat := latticeOf (← get)
    finishScalar [srcA f] f.d ((latticeEntry lat (i / 16) (i % 16)).setWidth 64)) s

/-! ### The pattern book (R74, R160) -/

/-- CBLOAD (R160): the table is read at issue and written to the slot when it arrives. -/
def execCbload (f : RForm) (s : State) : Out :=
  issue (.cbload f) (do
    let vs ← readSources [srcA f, srcB f]
    let a := w0 vs
    let slot := fld (w1 vs) 0 8
    waitFor (decide (((← get).cur.bookSlot slot).state ≠ .pending)) .book
    alignedTo 32 a
    watchAddr 0 false a.toNat 32
    gvaBound a
    let x ← translate .read a.toNat
    let l ← placeOf .read x a.toNat
    waitReads (fun y => y == l)
    modify (fun s => orderAt s.turn.1 l none s)
    let i ← readLineA x a.toNat l
    modify (fun s => s.modCur (fun k =>
      { k.popAll [srcB f] with book := tabPut k.book slot { k.bookSlot slot with
          state := .pending
          nextClass := BitVec.ofNat 3 (tagClass i.tag)
          nextEntries := BitVec.ofNat 256 (lineBytes i.bits (a.toNat % 64) 32) } }))) s

/-- CBLOAD_COMPLETE (R160): the slot becomes FULL, and the expansions that wait for it are written (R159, R366). -/
def execCbloadComplete (core slot : Nat) (s : State) : Out :=
  let b := (s.core core).bookSlot slot
  if b.state ≠ .pending then .next s
  else .next (s.modCore core (fun k =>
    let k := { k with book := tabPut k.book slot ⟨.full, b.nextClass, b.nextEntries, 0, 0⟩ }
    ((finishVdeqs slot k).setEvf .a).setEvf .x))

end Sys2Proof.Machine
end

