-- ==== Sys2Proof/Machine/Dispatch.lean ====
section
/-! DEFINITION. Machine/Dispatch.lean: one arm per constructor of Instr, each one call of its meaning. -/

namespace Sys2Proof.Machine

def exec (i : Instr) (s : State) : Host.Outcome State Fault Refusal :=
  match i with
  | .add f => Sys2Proof.Machine.execAdd f s
  | .sub f => Sys2Proof.Machine.execSub f s
  | .mul f => Sys2Proof.Machine.execMul f s
  | .mulh f => Sys2Proof.Machine.execMulh f s
  | .mulhs f => Sys2Proof.Machine.execMulhs f s
  | .div f => Sys2Proof.Machine.execDiv f s
  | .divs f => Sys2Proof.Machine.execDivs f s
  | .rem f => Sys2Proof.Machine.execRem f s
  | .rems f => Sys2Proof.Machine.execRems f s
  | .andr f => Sys2Proof.Machine.execAnd f s
  | .orr f => Sys2Proof.Machine.execOr f s
  | .xorr f => Sys2Proof.Machine.execXor f s
  | .andn f => Sys2Proof.Machine.execAndn f s
  | .orn f => Sys2Proof.Machine.execOrn f s
  | .shl f => Sys2Proof.Machine.execShl f s
  | .shr f => Sys2Proof.Machine.execShr f s
  | .sra f => Sys2Proof.Machine.execSra f s
  | .rol f => Sys2Proof.Machine.execRol f s
  | .min f => Sys2Proof.Machine.execMin f s
  | .max f => Sys2Proof.Machine.execMax f s
  | .mins f => Sys2Proof.Machine.execMins f s
  | .maxs f => Sys2Proof.Machine.execMaxs f s
  | .clz f => Sys2Proof.Machine.execClz f s
  | .ctz f => Sys2Proof.Machine.execCtz f s
  | .popc f => Sys2Proof.Machine.execPopc f s
  | .sext f => Sys2Proof.Machine.execSext f s
  | .zext f => Sys2Proof.Machine.execZext f s
  | .bfx f => Sys2Proof.Machine.execBfx f s
  | .bfi f => Sys2Proof.Machine.execBfi f s
  | .mov f => Sys2Proof.Machine.execMov f s
  | .sel f => Sys2Proof.Machine.execSel f s
  | .addx f => Sys2Proof.Machine.execAddx f s
  | .addi f => Sys2Proof.Machine.execAddi f s
  | .li f => Sys2Proof.Machine.execLi f s
  | .liw f => Sys2Proof.Machine.execLiw f s
  | .cmp k f => Sys2Proof.Machine.execCmp k f s
  | .cmpi k f => Sys2Proof.Machine.execCmpi k f s
  | .pand f => Sys2Proof.Machine.execPand f s
  | .por f => Sys2Proof.Machine.execPor f s
  | .pxor f => Sys2Proof.Machine.execPxor f s
  | .pnot f => Sys2Proof.Machine.execPnot f s
  | .pmov f => Sys2Proof.Machine.execPmov f s
  | .br f => Sys2Proof.Machine.execBr f s
  | .jmp f => Sys2Proof.Machine.execJmp f s
  | .call f => Sys2Proof.Machine.execCall f s
  | .ret f => Sys2Proof.Machine.execRet f s
  | .loop f => Sys2Proof.Machine.execLoop f s
  | .rdv f => Sys2Proof.Machine.execRdv f s
  | .endj f => Sys2Proof.Machine.execEnd f s
  | .nop f => Sys2Proof.Machine.execNop f s
  | .csrr f => Sys2Proof.Machine.execCsrr f s
  | .csrw f => Sys2Proof.Machine.execCsrw f s
  | .csrs f => Sys2Proof.Machine.execCsrs f s
  | .csrc f => Sys2Proof.Machine.execCsrc f s
  | .ld k f => Sys2Proof.Machine.execLd k f s
  | .st k f => Sys2Proof.Machine.execSt k f s
  | .lds k f => Sys2Proof.Machine.execLds k f s
  | .sts k f => Sys2Proof.Machine.execSts k f s
  | .ldq f => Sys2Proof.Machine.execLdq f s
  | .ldqi f => Sys2Proof.Machine.execLdqi f s
  | .ldsq f => Sys2Proof.Machine.execLdsq f s
  | .stq f => Sys2Proof.Machine.execStq f s
  | .stsq f => Sys2Proof.Machine.execStsq f s
  | .prf f => Sys2Proof.Machine.execPrf f s
  | .cpy f => Sys2Proof.Machine.execCpy f s
  | .cpym f => Sys2Proof.Machine.execCpym f s
  | .apd f => Sys2Proof.Machine.execApd f s
  | .apdRel f => Sys2Proof.Machine.execApdRel f s
  | .seal f => Sys2Proof.Machine.execSeal f s
  | .qreset f => Sys2Proof.Machine.execQreset f s
  | .amoadd f => Sys2Proof.Machine.execAmoadd f s
  | .amomin f => Sys2Proof.Machine.execAmomin f s
  | .amomax f => Sys2Proof.Machine.execAmomax f s
  | .amoand f => Sys2Proof.Machine.execAmoand f s
  | .amoor f => Sys2Proof.Machine.execAmoor f s
  | .amoxor f => Sys2Proof.Machine.execAmoxor f s
  | .amoswp f => Sys2Proof.Machine.execAmoswp f s
  | .amocas f => Sys2Proof.Machine.execAmocas f s
  | .amofadd f => Sys2Proof.Machine.execAmofadd f s
  | .fence f => Sys2Proof.Machine.execFence f s
  | .phase f => Sys2Proof.Machine.execPhase f s
  | .phaseSplit f => Sys2Proof.Machine.execPhaseSplit f s
  | .phaseJoin f => Sys2Proof.Machine.execPhaseJoin f s
  | .bara f => Sys2Proof.Machine.execBara f s
  | .barw f => Sys2Proof.Machine.execBarw f s
  | .bar f => Sys2Proof.Machine.execBar f s
  | .waitseqC f => Sys2Proof.Machine.execWaitseqC f s
  | .waitseqM f => Sys2Proof.Machine.execWaitseqM f s
  | .launch f => Sys2Proof.Machine.execLaunch f s
  | .donate f => Sys2Proof.Machine.execDonate f s
  | .setvl f => Sys2Proof.Machine.execSetvl f s
  | .vlds f => Sys2Proof.Machine.execVlds f s
  | .vsts f => Sys2Proof.Machine.execVsts f s
  | .vpop f => Sys2Proof.Machine.execVpop f s
  | .vpush f => Sys2Proof.Machine.execVpush f s
  | .vgathc f => Sys2Proof.Machine.execVgathc f s
  | .vscatc f => Sys2Proof.Machine.execVscatc f s
  | .vadd f => Sys2Proof.Machine.execVadd f s
  | .vsub f => Sys2Proof.Machine.execVsub f s
  | .vmul f => Sys2Proof.Machine.execVmul f s
  | .vdiv f => Sys2Proof.Machine.execVdiv f s
  | .vmin f => Sys2Proof.Machine.execVmin f s
  | .vmax f => Sys2Proof.Machine.execVmax f s
  | .vfma f => Sys2Proof.Machine.execVfma f s
  | .vfms f => Sys2Proof.Machine.execVfms f s
  | .vfnma f => Sys2Proof.Machine.execVfnma f s
  | .vabs f => Sys2Proof.Machine.execVabs f s
  | .vneg f => Sys2Proof.Machine.execVneg f s
  | .vsqrt f => Sys2Proof.Machine.execVsqrt f s
  | .vrcpe f => Sys2Proof.Machine.execVrcpe f s
  | .vrsqrte f => Sys2Proof.Machine.execVrsqrte f s
  | .vexp2 f => Sys2Proof.Machine.execVexp2 f s
  | .vlog2 f => Sys2Proof.Machine.execVlog2 f s
  | .vcmp k f => Sys2Proof.Machine.execVcmp k f s
  | .vpopc f => Sys2Proof.Machine.execVpopc f s
  | .vsel f => Sys2Proof.Machine.execVsel f s
  | .vmov f => Sys2Proof.Machine.execVmov f s
  | .vbcast f => Sys2Proof.Machine.execVbcast f s
  | .vins f => Sys2Proof.Machine.execVins f s
  | .vext f => Sys2Proof.Machine.execVext f s
  | .vid f => Sys2Proof.Machine.execVid f s
  | .viadd f => Sys2Proof.Machine.execViadd f s
  | .visub f => Sys2Proof.Machine.execVisub f s
  | .vimul f => Sys2Proof.Machine.execVimul f s
  | .viand f => Sys2Proof.Machine.execViand f s
  | .vior f => Sys2Proof.Machine.execVior f s
  | .vixor f => Sys2Proof.Machine.execVixor f s
  | .vishl f => Sys2Proof.Machine.execVishl f s
  | .vishr f => Sys2Proof.Machine.execVishr f s
  | .vslide1up f => Sys2Proof.Machine.execVslide1up f s
  | .vslide1dn f => Sys2Proof.Machine.execVslide1dn f s
  | .vslideup f => Sys2Proof.Machine.execVslideup f s
  | .vslidedn f => Sys2Proof.Machine.execVslidedn f s
  | .vperm f => Sys2Proof.Machine.execVperm f s
  | .vcmprs f => Sys2Proof.Machine.execVcmprs f s
  | .vexpnd f => Sys2Proof.Machine.execVexpnd f s
  | .vredsumO f => Sys2Proof.Machine.execVredsumO f s
  | .vredsumT f => Sys2Proof.Machine.execVredsumT f s
  | .vredmax f => Sys2Proof.Machine.execVredmax f s
  | .vredmin f => Sys2Proof.Machine.execVredmin f s
  | .vcvt f => Sys2Proof.Machine.execVcvt f s
  | .vretag f => Sys2Proof.Machine.execVretag f s
  | .vscale f => Sys2Proof.Machine.execVscale f s
  | .vqnt f => Sys2Proof.Machine.execVqnt f s
  | .vdeq f => Sys2Proof.Machine.execVdeq f s
  | .tget f => Sys2Proof.Machine.execTget f s
  | .tset f => Sys2Proof.Machine.execTset f s
  | .latw f => Sys2Proof.Machine.execLatw f s
  | .latr f => Sys2Proof.Machine.execLatr f s
  | .cbload f => Sys2Proof.Machine.execCbload f s
  | .mzero f => Sys2Proof.Machine.execMzero f s
  | .mma f => Sys2Proof.Machine.execMma f s
  | .mmaG f => Sys2Proof.Machine.execMmaG f s
  | .mmag f => Sys2Proof.Machine.execMmag f s
  | .mmagG f => Sys2Proof.Machine.execMmagG f s
  | .mst f => Sys2Proof.Machine.execMst f s
  | .mldacc f => Sys2Proof.Machine.execMldacc f s
  | .macc f => Sys2Proof.Machine.execMacc f s
  | .madd f => Sys2Proof.Machine.execMadd f s
  | .mwait f => Sys2Proof.Machine.execMwait f s
  | .mstat f => Sys2Proof.Machine.execMstat f s
  | .syscall f => Sys2Proof.Machine.execSyscall f s
  | .bkpt f => Sys2Proof.Machine.execBkpt f s
  | .eret f => Sys2Proof.Machine.execEret f s
  | .wfe f => Sys2Proof.Machine.execWfe f s
  | .tlbinv f => Sys2Proof.Machine.execTlbinv f s
  | .sealfree f => Sys2Proof.Machine.execSealfree f s
  | .loadDataArrival core n late => Sys2Proof.Machine.execLoadDataArrival core n late s
  | .gatherComplete core n => Sys2Proof.Machine.execGatherComplete core n s
  | .scatterElementApply core member => Sys2Proof.Machine.execScatterElementApply core member s
  | .maccRowWrite core n => Sys2Proof.Machine.execMaccRowWrite core n s
  | .cbloadComplete core slot => Sys2Proof.Machine.execCbloadComplete core slot s
  | .streamSlotLine core slot => Sys2Proof.Machine.execStreamSlotLine core slot s
  | .stqHomeWrite write => Sys2Proof.Machine.execStqHomeWrite write s
  | .appendLineWrite write => Sys2Proof.Machine.execAppendLineWrite write s
  | .copyBeatGroup core => Sys2Proof.Machine.execCopyBeatGroup core s
  | .matrixKStep core residues => Sys2Proof.Machine.execMatrixKStep core residues s
  | .engineMzero core => Sys2Proof.Machine.execEngineMzero core s
  | .engineMst core => Sys2Proof.Machine.execEngineMst core s
  | .engineMldacc core => Sys2Proof.Machine.execEngineMldacc core s
  | .engineMadd core => Sys2Proof.Machine.execEngineMadd core s
  | .engineFaultDelivery core strm => Sys2Proof.Machine.execEngineFaultDelivery core strm s
  | .faultRecordWrite guest => Sys2Proof.Machine.execFaultRecordWrite guest s
  | .violationRecordWrite => Sys2Proof.Machine.execViolationRecordWrite s
  | .frespRetry guest seq => Sys2Proof.Machine.execFrespRetry guest seq s
  | .frespAbort guest seq => Sys2Proof.Machine.execFrespAbort guest seq s
  | .frzrespResume seq => Sys2Proof.Machine.execFrzrespResume seq s
  | .frzrespTrap seq => Sys2Proof.Machine.execFrzrespTrap seq s
  | .frzrespDiscard seq => Sys2Proof.Machine.execFrzrespDiscard seq s
  | .queueCycle core => Sys2Proof.Machine.execQueueCycle core s
  | .wfeTimeout core strm => Sys2Proof.Machine.execWfeTimeout core strm s
  | .memberArrival core => Sys2Proof.Machine.execMemberArrival core s
  | .coreWorkEnd core => Sys2Proof.Machine.execCoreWorkEnd core s
  | .porterEvaluation guest => Sys2Proof.Machine.execPorterEvaluation guest s
  | .agePriorityChange guest queue => Sys2Proof.Machine.execAgePriorityChange guest queue s
  | .headReserving guest queue => Sys2Proof.Machine.execHeadReserving guest queue s
  | .lqpost guest queue whole data => Sys2Proof.Machine.execLqpost guest queue whole data s
  | .lqctlWrite guest queue value => Sys2Proof.Machine.execLqctlWrite guest queue value s
  | .lqstatWrite guest queue value => Sys2Proof.Machine.execLqstatWrite guest queue value s
  | .fullerRecordTake guest stack => Sys2Proof.Machine.execFullerRecordTake guest stack s
  | .fullerLineRecode guest stack => Sys2Proof.Machine.execFullerLineRecode guest stack s
  | .granuleCreditGrant core => Sys2Proof.Machine.execGranuleCreditGrant core s
  | .replicaShootdownDone guest gva => Sys2Proof.Machine.execReplicaShootdownDone guest gva s
  | .slotStop => Sys2Proof.Machine.execSlotStop s
  | .contextSave core => Sys2Proof.Machine.execContextSave core s
  | .contextClear core => Sys2Proof.Machine.execContextClear core s
  | .slotRestore => Sys2Proof.Machine.execSlotRestore s
  | .ttctlCommit value => Sys2Proof.Machine.execTtctlCommit value s
  | .timetableValidation => Sys2Proof.Machine.execTimetableValidation s
  | .guestEnable guest => Sys2Proof.Machine.execGuestEnable guest s
  | .guestDisable guest => Sys2Proof.Machine.execGuestDisable guest s
  | .gbaseGboundWrite guest isBound value => Sys2Proof.Machine.execGbaseGboundWrite guest isBound value s
  | .coalescePeriodEnd guest => Sys2Proof.Machine.execCoalescePeriodEnd guest s
  | .pmovhiRead guest => Sys2Proof.Machine.execPmovhiRead guest s
  | .dbgdataWrite value => Sys2Proof.Machine.execDbgdataWrite value s
  | .dbgdataRead => Sys2Proof.Machine.execDbgdataRead s
  | .dataApertureAccess guest req => Sys2Proof.Machine.execDataApertureAccess guest req s
  | .tagApertureAccess guest req => Sys2Proof.Machine.execTagApertureAccess guest req s
  | .hdmAccess req => Sys2Proof.Machine.execHdmAccess req s
  | .peerRequest req => Sys2Proof.Machine.execPeerRequest req s
  | .flitReceive link flit => Sys2Proof.Machine.execFlitReceive link flit s
  | .llcBankRetire stack layer bank => Sys2Proof.Machine.execLlcBankRetire stack layer bank s
  | .hbmRowRemap hbmStack row lost spare => Sys2Proof.Machine.execHbmRowRemap hbmStack row lost spare s
  | .linkNarrow link badLanes => Sys2Proof.Machine.execLinkNarrow link badLanes s
  | .mctpRequest req => Sys2Proof.Machine.execMctpRequest req s
  | .pwrctlWrite value => Sys2Proof.Machine.execPwrctlWrite value s
  | .powerOn => Sys2Proof.Machine.execPowerOn s
  | .powerOff => Sys2Proof.Machine.execPowerOff s
  | .mcctlLoad value => Sys2Proof.Machine.execMcctlLoad value s
  | .microcodeLoadDone => Sys2Proof.Machine.execMicrocodeLoadDone s
  | .hbmTrain hbmStack => Sys2Proof.Machine.execHbmTrain hbmStack s
  | .linkTrain link gen => Sys2Proof.Machine.execLinkTrain link gen s
  | .selfTest stack layer bank failing => Sys2Proof.Machine.execSelfTest stack layer bank failing s
  | .retirementStateWrite offset value => Sys2Proof.Machine.execRetirementStateWrite offset value s
  | .mschedWrite core unit value => Sys2Proof.Machine.execMschedWrite core unit value s
  | .registerWrite fn offset value => Sys2Proof.Machine.execRegisterWrite fn offset value s
  | .homeAnswer core => Sys2Proof.Machine.execHomeAnswer core s
  | .writeEntersView write core path => Sys2Proof.Machine.execWriteEntersView write core path s
  | .arithmeticClockCycle core => Sys2Proof.Machine.execArithmeticClockCycle core s
  | .hostLinkTrain gen width => Sys2Proof.Machine.execHostLinkTrain gen width s
  | .thermalLimiting stack fraction => Sys2Proof.Machine.execThermalLimiting stack fraction s

end Sys2Proof.Machine
end

