-- ==== Sys2Proof/Machine/Reads.lean ====
section
/-! DEFINITION. Machine/Reads.lean: the host's 8-byte reads of the registers of the physical and the virtual functions
(R4, R226, R297, R316, R321, R331 to R339, R381, R384, R386, R391). -/

namespace Sys2Proof.Machine

/-! ### The physical function -/

/-- A register of a guest's control block; GBASE and GBOUND read as last written (R331, R332). -/
def guestCtlRead (x : Guest) (r : Nat) : Option Word :=
  if r = 0 then some (word (b2n x.en + 2 * b2n (x.pendBase.isSome || x.pendBound.isSome)))
  else if r = 8 then some (word (x.pendBase.getD x.base * 65536))
  else if r = 0x10 then some (word (x.pendBound.getD x.bound * 65536))
  else if r = 0x18 then some (word x.pool)
  else none

/-- A residency register as last written (R321). -/
def residencyRead (x : Guest) (r : Nat) : Option Word :=
  if r = 0 then some x.gres else if r = 8 then some x.gsave else if r = 0x10 then some x.gsavesz else none

/-- A register whose written value may wait for an edge reads as last written (R332, R386, R391). -/
def pendingRead (s : State) (off : Nat) : Word := (tabFind s.pendPf off).getD (s.pfReg off)

/-- A register of the physical function as the host reads it, none for an offset that names none. FRZRESP is W and reads as
zero (R4, R335). -/
def pfRead (s : State) (off : Nat) : Option Word :=
  if off % 8 ≠ 0 then none
  else if 0x90000 ≤ off ∧ off < 0x91000 then some (if off % 16 = 8 then pfVector s ((off - 0x90000) / 16) else s.pfReg off)
  else if (pfMasks off).isSome ∨ off = ttctlOff ∨ off = 0x98000 ∨ off = mcctlOff ∨ off = hbmctlOff then some (s.pfReg off)
  else if 0x30000 ≤ off ∧ off < 0x31000 then residencyRead (s.guest ((off - 0x30000) / 0x20)) (off % 0x20)
  else if 0x40000 ≤ off ∧ off < 0x42000 then guestCtlRead (s.guest ((off - 0x40000) / 0x40)) (off % 0x40)
  else if off = 0x50020 then some 0
  else if (0x70088 ≤ off ∧ off < 0x700C8) ∨ (0x70108 ≤ off ∧ off < 0x70148) then some (s.pfReg off)
  else if isRetirementOff off then some (retirementRead s off)
  else if (0x80000 ≤ off ∧ off < 0x90000) ∨ (0xA0000 ≤ off ∧ off < 0xA1000) then some (pendingRead s off)
  else if 0x100000 ≤ off ∧ off < 0x300000 then some (word (memRead s.ttShadow (off - 0x100000) 8))
  else if 0x300000 ≤ off ∧ off < 0x400000 then some (word (memRead s.microcode (off - 0x300000) 8))
  else none

/-! ### A virtual function -/

/-- A register of a launch queue's block (R297). -/
def queueRead (l : LaunchQueue) (r : Nat) : Option Word :=
  if r = 0 then some l.base
  else if r = 8 then some l.ctl
  else if r = 0x10 then some (word (l.tail % 2 ^ 56))
  else if r = 0x18 then some (word (l.head % 2 ^ 56))
  else if r = 0x20 then some (word (l.done % 2 ^ 56))
  else if r = 0x28 then some l.stat
  else if r = 0x30 then some (word (l.errSeq % 2 ^ 56))
  else none

/-- The pending bits of a function's vectors (R338). -/
def pendingBits (x : Guest) : Word := word ((x.pending.map (fun v => if v < 64 then 2 ^ v else 0)).sum)

/-- The control half of an MSI-X entry: bit 32 masks it, and it is masked until the driver writes it (R338, log 20). -/
def vfVectorRead (x : Guest) (v : Nat) : Word := tabGet 0x100000000 x.vf (0x1000 + 16 * v + 8)

/-- A register of a virtual function as its driver reads it, none for an offset that names none: FRESP and LQPOST are W and
read as zero; GINFO and GINFOB show the pool and the bound in force; PMOVLO shows the head entry (R4, R226, R339, R344). -/
def vfRead (x : Guest) (off : Nat) : Option Word :=
  if off % 8 ≠ 0 then none
  else if off = 0x480 then some (word x.capUsed)
  else if off = 0x488 then some (word (capFree x))
  else if off = 0x810 then some (((x.overflow.head?).map (·.1)).getD 0)
  else if off = 0x820 then some (word x.pool)
  else if off = 0x828 then some (word x.bound)
  else if off = 0x430 ∨ (0x600 ≤ off ∧ off < 0x700) then some 0
  else if 0x500 ≤ off ∧ off < 0x600 then queueRead (x.queue ((off - 0x500) / 0x40)) (off % 0x40)
  else if off = 0x1400 then some (pendingBits x)
  else if 0x1000 ≤ off ∧ off < 0x1400 ∧ off % 16 = 8 then some (vfVectorRead x ((off - 0x1000) / 16))
  else if (vfMasks off).isSome then some (x.reg off)
  else none

/-! ### Reads -/

/-- The answer to a read: an offset that names no register is a dropped access (R384). -/
def answerRead (fn : FnId) (off : Nat) (v : Option Word) (s : State) : State :=
  match v with
  | some w => reply 8 w.toNat s
  | none => replyOnes 8 (hostError fn 0 off 7 s)

/-- The host reads 8 bytes of a register of a function (R4, R384). A frozen virtual function answers all ones (R336), a read
of PMOVHI pops the head entry (R344), and DBGDATA is the window of R347. -/
def hostRead (fn : FnId) (off : Nat) (s : State) : Out :=
  match fn with
  | .pf => if off = 0x60008 then execDbgdataRead s else .next (answerRead .pf off (pfRead s off) s)
  | .vf g =>
    if Config.guests ≤ g then .next s
    else if off = 0x818 then execPmovhiRead g s
    else if (s.guest g).frozen.isSome then .next (droppedRead g off s)
    else .next (answerRead (.vf g) off (vfRead (s.guest g) off) s)

end Sys2Proof.Machine
end

