-- ==== Sys2Proof/Machine/Boundary.lean ====
section
/-! DEFINITION. Machine/Boundary.lean: an instruction boundary of a stream, with the causes in the order of R352,
the fetch (R48, R49) and the decode; and one action of the agenda. -/

namespace Sys2Proof.Machine

/-- A fetch that gives no word ends the boundary (R49, R208, R222). -/
def applyFetchStop (c : Nat) (t : StreamId) (f : FetchStop) (s : State) : Out :=
  let pc := (s.streamAt c t).pc
  match f with
  | .bound gva => .next (takeTrap c t .bound (word gva) pc .instr s)
  | .tagClass gva => .next (takeTrap c t .tagClass (word gva) pc .instr s)
  | .x gva (.fault r) => .next (pageFault c t true false r gva s)
  | .x gva (.violation kind gpa) => .next (freezeStream c t kind gpa gva 0 s)
  | .x _ (.absent hpa) => .fault (.outsideHbm hpa)
  | .closed => .next s

/-- Does the word begin an instruction of two words (R32)? -/
def wordIsLong (w : Word) : Bool := opIsLong (wordOp w) && (decodeWords w 0).isSome

/-- What a fetch of a word leaves: its translation cached, on a SEALED page what a read through the replica leaves (R214, R260),
and the request for a line behind an aperture (R386, R388). An instruction that waits has been fetched. -/
def fetched (c : Nat) (t : StreamId) (x : Xlat) (gva : Nat) (s : State) : State :=
  let s := fillTlb c x s
  let g := s.guestOf c
  if (s.streamAt c t).wait.isSome then s
  else
    match placeGpa s g 1 false (x.gpaAt gva), pageSealed s g x, pageState s g x.gpa with
    | .ok l, true, .ok w => (readSealed false c (pathOf t) x (x.gpaAt gva) w l s).2
    | .ok l, _, _ => sendRequest g (x.gpaAt gva) l s
    | .error _, _, _ => s

/-- Fetch the words of the instruction at a pc: the second word only of an instruction that has one (R48). -/
def fetchInstr (s : State) (c : Nat) (t : StreamId) (pc : Nat) : Except FetchStop (Word × Word × State) :=
  match fetchWord s c t pc with
  | .error e => .error e
  | .ok (w, x) =>
    let s1 := fetched c t x pc s
    if wordIsLong w then
      match fetchWord s1 c t (pc + 8) with
      | .error e => .error e
      | .ok (w2, x2) => .ok (w, w2, fetched c t x2 (pc + 8) s1)
    else .ok (w, 0, s1)

/-- Fetch, decode and execute (rows 5 to 8 of R352). -/
def runInstr (c : Nat) (t : StreamId) (s : State) : Out :=
  match fetchInstr s c t (s.streamAt c t).pc.toNat with
  | .error e => applyFetchStop c t e s
  | .ok (w, w2, s') =>
    match decodeWords w w2 with
    | none => .next (takeTrap c t .illegal w (s.streamAt c t).pc .instr s')
    | some i => exec i { s' with turn := (c, t) }

/-- Row 4 of R352: a breakpoint on the fetch address. -/
def breakAt (c : Nat) (t : StreamId) (ms : List (Nat × Bool × Word)) (s : State) : State :=
  let s' := s.modStream c t (fun st => st.orWstat (word (ms.foldl (fun n m => n + 2 ^ m.1) 0)))
  match ms with
  | [] => s
  | (_, act, tval) :: _ =>
    if act then s'.modStream c t (fun st => { st.orWstat 0x8000 with wait := none, haltByReq := false })
    else takeTrap c t .brk tval (s.streamAt c t).pc .wayfarer s'

/-- An instruction boundary of a stream: the first cause in the order of R352. -/
def boundary (c : Nat) (t : StreamId) (s : State) : Out :=
  let k := s.core c
  let st := k.stream t
  if k.canIssue t = false then .next s
  else if bit st.wctl 7 then
    .next (s.modStream c t (fun st => { st.orWstat 0x8000 with wait := none, haltByReq := true }))
  else if st.stepPending && decide (st.level = .u) then
    .next (trapBefore c t .step 0 .wayfarer
      (s.modStream c t (fun st => { st.orWstat 0x400 with stepPending := false })))
  else if owesTrap k t then .next (deliverEngineFault c t s)
  else
    match st.partnerTrap with
    | some v =>
      .next (trapBefore c t .partner (word v) .instr (s.modStream c t (fun st => { st with partnerTrap := none })))
    | none =>
      let s := if (k.owedFault t).isSome then deliverEngineFault c t s else s
      match breakMatches st with
      | [] => runInstr c t s
      | ms => .next (breakAt c t ms s)

/-- The X stream of a core that drains stops inside an instruction that it had begun, after `parts` + 1 of its segments or
lines (R72, R123, R143, R323); nothing happens where it has no such instruction. -/
def stopInside (c parts : Nat) (s : State) : State :=
  let k := s.core c
  if k.mode = .stop ∧ ({ k with mode := .run } : Core).canIssue .x ∧ k.x.stepPending = false ∧ owesTrap k .x = false ∧
      k.x.partnerTrap = none ∧ breakMatches k.x = [] ∧ bit k.x.wctl 7 = false then
    match runInstr c .x { s with cut := some (parts + 1) } with
    | .next s' => if s'.cut = none then s' else s
    | _ => s
  else s

/-- A structure that only caches drops an entry under replacement (R30, R205, R214). -/
def dropCached (a : Action) (s : State) : State :=
  match a with
  | .dropTlb c gva => s.modCore c (fun k => { k with tlb := k.tlb.filter (fun x => !x.covers gva) })
  | .dropLine c l => s.modCore c (fun k => { k with near := listDel k.near l, excl := listDel k.excl l })
  | .dropLlc st line => dropLlcLines (s.llc.filter (fun e => e.1 == st && e.2.2 == line)) s
  | _ => s

/-- A flit is resent on a link that is up (R370, R388). -/
def resendFlit (link : Nat) (s : State) : State :=
  if link < Config.links ∧ linkReady s link = true then fabricCount 0x25 link 1 (fabricCount 0x20 link 1 s) else s

/-- Can the edge ahead not be kept: a core that drains at it has still to reach HOLD, though the edge fits (R314, R320, R326)? -/
def edgeHeld (s : State) (t : Timetable) : Bool :=
  let t' := nextRow t s.ttNext
  !(overrunCores t t' s).isEmpty && (edgeFails s (fun g => (s.guest g).gresIn) t t').isNone

/-- The package time base advances by `us` µs, but not past E − D, where SLOT_STOP happens, or E, where SLOT_RESTORE does (R314,
R322); the evaluations that are due come first (R302). On hardware that fits the edge, every drain ends before E (R314,
R326): time waits for it. -/
def timePasses (us : Nat) (s0 : State) : Out :=
  let s := porterSettle s0
  match s.ttActive with
  | none => .next (passTime us s)
  | some t =>
    let e := edgeTime t
    let d := e - rowDrain t.rows t.row
    if s.timeUs < d ∧ d ≤ s.timeUs + us then execSlotStop (passTime (d - s.timeUs) s)
    else if s.timeUs < e ∧ e ≤ s.timeUs + us then
      if edgeHeld s t then .next (passTime (e - 1 - s.timeUs) s) else execSlotRestore (passTime (e - s.timeUs) s)
    else .next (passTime us s)

/-- A host access that waits is tried again, with those that came before it still waiting: it performs, is dropped, or goes on
waiting in its place (R298, R325, R336). -/
def retryAccess (n : Nat) (s : State) : Out :=
  match s.hostHeld[n]? with
  | none => .next s
  | some i =>
    match exec i { s with hostHeld := s.hostHeld.take n } with
    | .next t => if t.hostHeld = s.hostHeld.take n then .next { t with hostHeld := t.hostHeld ++ s.hostHeld.drop (n + 1) } else .next s
    | o => o

/-- One action of the agenda; a package without power takes only POWER_ON (R390). -/
def act (a : Action) (s : State) : Out :=
  match a with
  | .issue c t => boundary c t s
  | .event i => if isEvent i && (s.powered || i == .powerOn) then exec i s else .next s
  | .stopWithin c parts => .next (stopInside c parts s)
  | .time us => if s.powered then timePasses us s else .next s
  | .retryHeld n => if s.powered then retryAccess n s else .next s
  | .hostRead fn off => if s.powered then hostRead fn off s else .next s
  | .upset u => .next (applyUpset u s)
  | .dropTlb _ _ => .next (dropCached a s)
  | .dropLine _ _ => .next (dropCached a s)
  | .dropLlc _ _ => .next (dropCached a s)
  | .replay i => .next (resendFlit i s)

end Sys2Proof.Machine
end

