-- ==== Sys2Proof/Machine/Schedule.lean ====
section
/-! DEFINITION. Machine/Schedule.lean: the action that the machine takes when its agenda names none (log 1), and the
placing of one instruction for the next step (log 9). -/

namespace Sys2Proof.Machine

/-! ### What can happen (log 1) -/

/-- Events that a producer of a core owes. -/
def producerEvents (c : Nat) (k : Core) : List Instr :=
  k.producers.zipIdx.filterMap (fun p =>
    match p.1 with
    | .ld .. => some (.loadDataArrival c p.2 false)
    | .gather .. => some (.gatherComplete c p.2)
    | .macc .. => some (.maccRowWrite c p.2)
    | .vdeq .. => none)

/-- The event of a core's matrix engine on the command at its head. -/
def engineEvents (c : Nat) (k : Core) : List Instr :=
  match k.mat.queue with
  | [] => []
  | m :: _ =>
    match m.op with
    | 0xA0 => [.engineMzero c]
    | 0xA3 => [.engineMst c]
    | 0xA4 => [.engineMldacc c]
    | 0xA6 => [.engineMadd c]
    | _ => [.matrixKStep c []]

/-- Events that a core in RUN may take. -/
def runEvents (s : State) (c : Nat) (k : Core) : List Instr :=
  (if (match k.ask with | some (_, false) => true | _ => false) then [.homeAnswer c] else []) ++
  (if (match k.a.wait with | some ⟨.credit _, _⟩ => true | _ => false) then [.granuleCreditGrant c] else []) ++
  k.slots.map (fun e => .streamSlotLine c e.1) ++
  (if k.copy.queue.isEmpty || k.copy.halt.isSome || k.copy.frozen.isSome then [] else [.copyBeatGroup c]) ++
  (if k.mat.halt.isSome then [] else engineEvents c k) ++
  (if mayArrive s c then [.memberArrival c] else []) ++
  (if mayEnd s c then [.coreWorkEnd c] else []) ++
  (if 65536 ≤ k.qidle then [.queueCycle c] else []) ++
  (if 65536 ≤ k.a.wfeCycles then [.wfeTimeout c .a] else []) ++
  (if 65536 ≤ k.x.wfeCycles then [.wfeTimeout c .x] else []) ++ [.arithmeticClockCycle c]

/-- Events of a core. -/
def coreEvents (s : State) (c : Nat) : List Instr :=
  let k := s.core c
  let always := producerEvents c k ++ ((k.scatters.map (·.member)).eraseDups.map (fun m => .scatterElementApply c m)) ++
    (k.book.filter (fun e => decide (e.2.state = .pending))).map (fun e => .cbloadComplete c e.1)
  always ++ (match k.mode with
    | .run => runEvents s c k
    | .stop => [.contextSave c]
    | .clear => [.contextClear c]
    | _ => [])

/-- Events of a guest. -/
def guestEvents (s : State) (g : Nat) : List Instr :=
  let x := s.guest g
  (if x.faults.any (fun r => !r.written) then [.faultRecordWrite g] else []) ++
  (if fullerWorks s g && x.fuller.head?.any FullerWork.complete then [.fullerRecordTake g 0] else []) ++
  (if fullerWorks s g then (List.range 8).filterMap (fun st =>
     let i := x.fullerIndex st
     match fullerSlot x i with
     | none => none
     | some _ => some (if st ∈ (x.fullerAt i).taken then .fullerLineRecode g st else .fullerRecordTake g st)) else []) ++
  (match x.period with | some (e, _) => if e ≤ s.timeUs then [.coalescePeriodEnd g] else [] | none => []) ++
  x.shooting.map (fun p => .replicaShootdownDone g p.gva) ++
  (if x.due && ownsCores s g then [.porterEvaluation g] else []) ++
  (List.range 4).flatMap (fun q =>
    (if (readyHeads x).contains q && effPrio x q != (x.queue q).prio then [.agePriorityChange g q] else []) ++
    (if mayReserve x q && (x.queue q).reserving.isNone then [.headReserving g q] else []))

/-- Writes that a home has not performed, and published writes that a path does not yet see. -/
def writeEvents (s : State) : List Instr :=
  s.writes.filterMap (fun r =>
    if r.performed = false then some (if r.apage.isSome then .appendLineWrite r.id else .stqHomeWrite r.id)
    else
      match (liveParties s r).find? (fun p => (reachesParty s r p || mayReach r p) && decide (p ∉ r.viewers)) with
      | some p => some (.writeEntersView r.id p.core p.path)
      | none => none)

/-- Events of the whole machine: the Timetable, bring-up and retirement. -/
def deviceEvents (s : State) : List Instr :=
  (if s.viols.any (fun r => !r.written) then [.violationRecordWrite] else []) ++
  (if bit (s.pfReg ttctlOff) 31 then [.timetableValidation] else []) ++
  (match s.ttActive with
   | none => []
   | some t => (if edgeTime t ≤ s.timeUs then [.slotRestore] else if inDrain t s.timeUs then [.slotStop] else [])) ++
  (if bit (s.pfReg mcctlOff) 0 then [.microcodeLoadDone] else []) ++
  ((List.range 16).filter (fun i => bit (s.pfReg hbmctlOff) i && !bit (s.pfReg hbmstatOff) i)).map .hbmTrain ++
  ((List.range 16).filter (fun i => bit (s.pfReg linkctlOff) i && !bit (s.pfReg linkstatOff) i && (tabFind s.peerFrozen i).isNone)).map
    (fun i => .linkTrain i 3) ++
  (s.errCounts.filter ErrCount.ripe).filterMap (fun e =>
    if e.type = 5 ∨ e.type = 6 then some (.llcBankRetire e.place (e.unit / 32) (e.unit % 32))
    else if e.type = 7 then some (.hbmRowRemap (2 * e.place + e.unit % 2) (e.unit / 2) [] true)
    else if e.type = 8 then some (.linkNarrow e.place 0)
    else none)

/-- The streams that may take an instruction boundary. -/
def readyStreams (s : State) : List Action :=
  s.cores.flatMap (fun e =>
    (if e.2.canIssue .a then [.issue e.1 .a] else []) ++ (if e.2.canIssue .x then [.issue e.1 .x] else []))

/-- Everything that can happen of itself. -/
def candidates (s : State) : List Action :=
  readyStreams s ++ ((s.cores.map (·.1)).flatMap (coreEvents s) ++ (s.guests.map (·.1)).flatMap (guestEvents s) ++ writeEvents s ++
    deviceEvents s).map .event ++ (List.range s.hostHeld.length).map .retryHeld ++ [.time 1]

/-- The action taken when the agenda is empty: what can happen takes its turn, one thing after another (log 1). -/
def nextAction (s : State) : Action :=
  let l := candidates s
  (l[s.sched % l.length]?).getD (.time 1)

/-! ### Placing one instruction (log 9) -/

/-- The guest that runs a placed instruction: it owns 1 GiB from HPA 0, and one leaf maps GVA 0 to GPA 0. -/
def probeGuest (x : Guest) : Guest :=
  { x with en := true, base := 0, bound := 0x4000, vf := tabPut x.vf 0x400 0x1000 }

/-- The pc of a placed instruction. -/
def probePc : Nat := 0x8000

/-- A stream at a placed instruction. -/
def probeStream (st : Stream) : Stream := { st with
  pc := word probePc, ended := false, frozen := none, pfault := none, wait := none, stepPending := false,
  partnerTrap := none, wayf := tabPut (tabPut st.wayf 0 0) 1 0 }

/-- The stream that may execute the instruction that the bits decode to. -/
def probeTurn (nbits w : Nat) : StreamId :=
  match decodeTableWord nbits w with
  | some i => if (streamClass i).admits .a then .a else .x
  | none => .a

/-- A state in which the next step of the machine fetches and runs the instruction whose bits are `w` (log 9). -/
def placeWord (s : State) (nbits w : Nat) : State :=
  let v := w % 2 ^ nbits
  let t := probeTurn nbits w
  let k := s.core 0
  let pl := k.placeD
  let k' := { (k.setStream t (probeStream (k.stream t))) with
    mode := .run, guest := some 0, place := some pl, tlb := [],
    copy := { k.copy with halt := none }, mat := { k.mat with halt := none } }
  let m := memWrite (memWrite (memWrite s.mem 0x1000 8 0x2001) 0x2000 8 0xF) probePc 16 v
  { (s.setCore 0 k').setGuest 0 (probeGuest (s.guest 0)) with
    agenda := .issue 0 t :: s.agenda
    mem := m
    tags := tabPut (tabPut (tabPut s.tags (0x1000 / 64) 0) (0x2000 / 64) 0) (probePc / 64) 0
    writes := s.writes.filter (fun r => r.loc.space != .hbm) }

end Sys2Proof.Machine
end

