-- ==== Sys2Proof/Safety.lean ====
section
/-! DEFINITION. Safety.lean: the terms in which claims speak: when an instruction runs, when its operands are ready, what a
scalar result does to a core, and the canonical form of every memory. -/

namespace Sys2Proof.Machine

/-- R47 steps 2 to 5 let the instruction of the current stream go on to its own checks: its predicate is true, the
stream may execute it, its fields hold what they may, and an S-level instruction finds the stream at S. -/
def Runs (i : Instr) (s : State) : Prop :=
  s.strm.predTrue (predOf i) = true ∧ (streamClass i).admits s.turn.2 = true ∧ fieldsOk s.turn.2 i = true ∧
    (isSLevel i = true → s.strm.level = .s)

/-- No Wayfarer match is made for the current instruction (R346). -/
def Quiet (s : State) : Prop := s.strm.matching = false

/-- A source can be read: it is not empty, and the oldest entry of a queue is of VCLASS VALID (R20, R24, R25). -/
def SourceReady (s : State) (c : Code) : Prop :=
  s.cur.srcEmpty s.turn.2 c = false ∧
    (codeIsQ c = true → ∀ e ∈ (s.cur.queue c).head?, tagClass e.tag = 0)

/-- Every source of a list can be read, and no debugger matches. -/
def SourcesReady (s : State) (l : List Src) : Prop := Quiet s ∧ ∀ x ∈ l, SourceReady s x.code

/-- A scalar destination can be written: a register that is not empty, or a queue with room that no stream feeds
(R21, R24, R235). -/
def DestReady (s : State) (d : Code) : Prop :=
  if codeIsQ d then s.cur.slotsOf d = [] ∧ (s.cur.queue d).length < 64 else s.strm.regEmpty d = false

/-- The value of a source of the current stream (R17, R25). -/
def State.src (s : State) (c : Code) : Word := s.cur.srcValue s.turn.2 c

/-- The sources popped, and a scalar result in its destination (R24, R25, R101). -/
def State.wrote (s : State) (l : List Src) (d : Code) (v : Word) : State :=
  s.modCur (fun k => (k.popAll l).putScalar s.turn.2 d v)

/-- The sources popped, and a predicate written (R24, R108). -/
def State.wrotePred (s : State) (l : List Src) (d : Code) (v : Bool) : State :=
  s.modCur (fun k => let k' := k.popAll l; k'.setStream s.turn.2 ((k'.stream s.turn.2).setPred d v))

/-- The instruction that the current stream executes retires, in a state that its effects have reached, and the stream goes
to `pc`. -/
def State.retired (s : State) (pc : Word) (after : State) : State := after.retire s.strm pc

/-- As `retired`, to the next instruction. -/
def State.done (s : State) (i : Instr) (after : State) : State := s.retired (s.strm.nextPc i) after

/-- Every memory of the machine is in canonical form: HBM, host memory, peers' memory. -/
def MemoriesWf (s : State) : Prop :=
  Memory.wf s.mem = true ∧ Memory.wf s.hostMem = true ∧ Memory.wf s.peerMem = true

end Sys2Proof.Machine
end

