-- ==== Sys2Proof/Certificates/Slice0/Obligations.lean ====
section
/-! DEFINITION. Certificates/Slice0/Obligations.lean: the statements for the provers. -/

open Sys2Proof Sys2Proof.Machine

/-! ### Scalar instructions (R100 to R112) -/

/-- The completion of an instruction with two scalar sources: the result `v a b`. -/
def Sys2Proof.Claims.TwoSources (i : RForm → Instr) (v : Word → Word → Word) : Prop :=
  ∀ f s, Runs (i f) s → SourcesReady s [srcA f, srcB f] → DestReady s f.d →
    exec (i f) s = .next (s.done (i f) (s.wrote [srcA f, srcB f] f.d (v (s.src f.a) (s.src f.b))))

/-- The completion of an instruction with one scalar source. -/
def Sys2Proof.Claims.OneSource (i : RForm → Instr) (v : Word → Word) : Prop :=
  ∀ f s, Runs (i f) s → SourcesReady s [srcA f] → DestReady s f.d →
    exec (i f) s = .next (s.done (i f) (s.wrote [srcA f] f.d (v (s.src f.a))))

/-- The completion of a division: the result, and in X alone DZ for a zero divisor (R99). -/
def Sys2Proof.Claims.Division (i : RForm → Instr) (v : Word → Word → Word) : Prop :=
  ∀ f s, Runs (i f) s → SourcesReady s [srcA f, srcB f] → DestReady s f.d →
    exec (i f) s = .next (s.done (i f) ((s.wrote [srcA f, srcB f] f.d (v (s.src f.a) (s.src f.b))).modCur (fun k =>
      if s.turn.2 = .x ∧ s.src f.b = 0 then { k with vec := { k.vec with fstat := k.vec.fstat ||| 0x10 } } else k)))

/-- R103: what the two-operand integer instructions other than division write. Every source ready and the destination
ready, they complete. -/
def Sys2Proof.Claims.IntegerResults : Prop :=
  Claims.TwoSources .add (fun a b => word (a.toNat + b.toNat)) ∧
  Claims.TwoSources .sub (fun a b => word (2 ^ 64 + a.toNat - b.toNat)) ∧
  Claims.TwoSources .mul (fun a b => word (a.toNat * b.toNat)) ∧
  Claims.TwoSources .mulh (fun a b => word (a.toNat * b.toNat / 2 ^ 64)) ∧
  Claims.TwoSources .mulhs (fun a b => BitVec.ofInt 64 (a.toInt * b.toInt / 2 ^ 64)) ∧
  Claims.TwoSources .andr (fun a b => a &&& b) ∧
  Claims.TwoSources .orr (fun a b => a ||| b) ∧
  Claims.TwoSources .xorr (fun a b => a ^^^ b) ∧
  Claims.TwoSources .andn (fun a b => a &&& ~~~b) ∧
  Claims.TwoSources .orn (fun a b => a ||| ~~~b) ∧
  Claims.TwoSources .shl (fun a b => word (a.toNat * 2 ^ (b.toNat % 64))) ∧
  Claims.TwoSources .shr (fun a b => word (a.toNat / 2 ^ (b.toNat % 64))) ∧
  Claims.TwoSources .sra (fun a b => BitVec.ofInt 64 (a.toInt / 2 ^ (b.toNat % 64))) ∧
  Claims.TwoSources .rol (fun a b => word (a.toNat * 2 ^ (b.toNat % 64) + a.toNat / 2 ^ (64 - b.toNat % 64))) ∧
  Claims.TwoSources .min (fun a b => word (Nat.min a.toNat b.toNat)) ∧
  Claims.TwoSources .max (fun a b => word (Nat.max a.toNat b.toNat)) ∧
  Claims.TwoSources .mins (fun a b => BitVec.ofInt 64 (min a.toInt b.toInt)) ∧
  Claims.TwoSources .maxs (fun a b => BitVec.ofInt 64 (max a.toInt b.toInt))

/-- R99, R103: what the divisions write, with the cases of a zero divisor and of the least value over −1. -/
def Sys2Proof.Claims.DivisionResults : Prop :=
  Claims.Division .div (fun a b => if b = 0 then word (2 ^ 64 - 1) else word (a.toNat / b.toNat)) ∧
  Claims.Division .rem (fun a b => if b = 0 then a else word (a.toNat - b.toNat * (a.toNat / b.toNat))) ∧
  Claims.Division .divs (fun a b => BitVec.ofInt 64 (if b = 0 then -1 else Int.tdiv a.toInt b.toInt)) ∧
  Claims.Division .rems (fun a b => if b = 0 then a else BitVec.ofInt 64 (Int.tmod a.toInt b.toInt))

/-- R104 to R107: what the counts, the extensions, the bit fields, the moves and the immediates write. -/
def Obligations.FieldAndMoveResults : Prop :=
  Claims.OneSource .clz (fun a => word (((List.range 64).findIdx? (fun n => a.getLsbD (63 - n))).getD 64)) ∧
  Claims.OneSource .ctz (fun a => word (((List.range 64).findIdx? (fun n => a.getLsbD n)).getD 64)) ∧
  Claims.OneSource .popc (fun a => word (((List.range 64).filter (fun n => a.getLsbD n)).length)) ∧
  Claims.TwoSources .sext (fun a b => if b.toNat % 64 = 0 then a else BitVec.ofInt 64 (Int.bmod a.toNat (2 ^ (b.toNat % 64)))) ∧
  Claims.TwoSources .zext (fun a b => if b.toNat % 64 = 0 then a else word (a.toNat % 2 ^ (b.toNat % 64))) ∧
  Claims.OneSource .mov (fun a => a) ∧
  (∀ f s, Runs (.sel f) s → SourcesReady s [srcA f, srcB f] → DestReady s f.d →
    exec (.sel f) s = .next (s.done (.sel f) (s.wrote [srcA f, srcB f] f.d
      (if s.strm.pred f.c then s.src f.a else s.src f.b)))) ∧
  (∀ f s, Runs (.bfx f) s → SourcesReady s [srcA f, srcB f, srcC f] → DestReady s f.d →
    exec (.bfx f) s = .next (s.done (.bfx f) (s.wrote [srcA f, srcB f, srcC f] f.d
      (word ((s.src f.a).toNat / 2 ^ ((s.src f.b).toNat % 64) %
        2 ^ (min ((s.src f.c).toNat % 128) (64 - (s.src f.b).toNat % 64))))))) ∧
  (∀ f s p n, Runs (.bfi f) s → SourcesReady s [srcA f, srcB f, srcC f, ⟨f.d, false⟩] →
    p = (s.src f.b).toNat % 64 → n = min ((s.src f.c).toNat % 128) (64 - p) →
    exec (.bfi f) s = .next (s.done (.bfi f) (s.wrote [srcA f, srcB f, srcC f, ⟨f.d, false⟩] f.d
      (word ((s.src f.d).toNat - (s.src f.d).toNat / 2 ^ p % 2 ^ n * 2 ^ p + (s.src f.a).toNat % 2 ^ n * 2 ^ p))))) ∧
  (∀ f s, Runs (.addx f) s → SourcesReady s [srcA f, srcB f, srcC f] → DestReady s f.d →
    exec (.addx f) s = .next (s.done (.addx f) (s.wrote [srcA f, srcB f, srcC f] f.d
      (word ((s.src f.a).toNat + (s.src f.b).toNat * 2 ^ ((s.src f.c).toNat % 64)))))) ∧
  (∀ f s, Runs (.addi f) s → SourcesReady s [⟨f.a, f.ea⟩] → DestReady s f.d →
    exec (.addi f) s = .next (s.done (.addi f) (s.wrote [⟨f.a, f.ea⟩] f.d
      (BitVec.ofInt 64 ((s.src f.a).toNat + f.imm.toInt))))) ∧
  (∀ f s, Runs (.li f) s → DestReady s f.d →
    exec (.li f) s = .next (s.done (.li f) (s.wrote [] f.d (BitVec.ofInt 64 f.imm.toInt)))) ∧
  (∀ f s, Runs (.liw f) s → DestReady s f.d →
    exec (.liw f) s = .next (s.done (.liw f) (s.wrote [] f.d f.imm64)))

/-- The conditions of R43, on the two readings of 64-bit values. -/
def Sys2Proof.Claims.condition (cc : Cc) (a b : Word) : Bool :=
  match cc with
  | .eq => decide (a.toNat = b.toNat)
  | .ne => decide (a.toNat ≠ b.toNat)
  | .lt => decide (a.toInt < b.toInt)
  | .ge => decide (b.toInt ≤ a.toInt)
  | .ltu => decide (a.toNat < b.toNat)
  | .geu => decide (b.toNat ≤ a.toNat)
  | .gt => decide (b.toInt < a.toInt)
  | .le => decide (a.toInt ≤ b.toInt)

/-- R108, R109: what the comparisons and the predicate instructions write to p[D]. -/
def Obligations.PredicateResults : Prop :=
  (∀ cc f s, Runs (.cmp cc f) s → SourcesReady s [srcA f, srcB f] →
    exec (.cmp cc f) s = .next (s.done (.cmp cc f) (s.wrotePred [srcA f, srcB f] f.d
      (Claims.condition cc (s.src f.a) (s.src f.b))))) ∧
  (∀ cc f s, Runs (.cmpi cc f) s → SourcesReady s [⟨f.a, f.ea⟩] →
    exec (.cmpi cc f) s = .next (s.done (.cmpi cc f) (s.wrotePred [⟨f.a, f.ea⟩] f.d
      (Claims.condition cc (s.src f.a) (BitVec.ofInt 64 f.imm.toInt))))) ∧
  (∀ f s, Runs (.pand f) s →
    exec (.pand f) s = .next (s.done (.pand f) (s.wrotePred [] f.d (s.strm.pred f.a && s.strm.pred f.b)))) ∧
  (∀ f s, Runs (.por f) s →
    exec (.por f) s = .next (s.done (.por f) (s.wrotePred [] f.d (s.strm.pred f.a || s.strm.pred f.b)))) ∧
  (∀ f s, Runs (.pxor f) s →
    exec (.pxor f) s = .next (s.done (.pxor f) (s.wrotePred [] f.d (xor (s.strm.pred f.a) (s.strm.pred f.b))))) ∧
  (∀ f s, Runs (.pnot f) s →
    exec (.pnot f) s = .next (s.done (.pnot f) (s.wrotePred [] f.d (!s.strm.pred f.a)))) ∧
  (∀ f s, Runs (.pmov f) s →
    exec (.pmov f) s = .next (s.done (.pmov f) (s.wrotePred [] f.d (s.strm.pred f.a))))

/-- A branch target that passes both checks of R38: a multiple of 8 below 2^48. -/
def Sys2Proof.Claims.GoodTarget (t : Word) : Prop := t.toNat % 8 = 0 ∧ t.toNat < 2 ^ 48

/-- The target of a branch from a base: the base and 8 times OFFSET (R38). -/
def Sys2Proof.Claims.target (base : Word) (f : JForm) : Word := BitVec.ofInt 64 (base.toNat + 8 * f.offset.toInt)

/-- R110: where the five branches go when their target passes the checks, and what CALL and LOOP write. -/
def Sys2Proof.Claims.BranchResults : Prop :=
  (∀ f s, Runs (.br f) s → Claims.GoodTarget (Claims.target s.strm.pc f) →
    exec (.br f) s = .next (s.retired (Claims.target s.strm.pc f) s)) ∧
  (∀ f s, Runs (.jmp f) s → SourcesReady s [⟨f.t, false⟩] → Claims.GoodTarget (Claims.target (s.src f.t) f) →
    exec (.jmp f) s = .next (s.retired (Claims.target (s.src f.t) f) s)) ∧
  (∀ f s b, Runs (.call f) s → SourcesReady s [⟨f.t, false⟩] → DestReady s f.d →
    b = (if f.t = 0 then s.strm.pc else s.src f.t) → Claims.GoodTarget (Claims.target b f) →
    exec (.call f) s = .next (s.retired (Claims.target b f) (s.wrote [] f.d (s.strm.pc + 16)))) ∧
  (∀ f s, Runs (.ret f) s → SourcesReady s [⟨f.t, false⟩] → Claims.GoodTarget (s.src f.t) →
    exec (.ret f) s = .next (s.retired (s.src f.t) s)) ∧
  (∀ f s n, Runs (.loop f) s → SourcesReady s [⟨f.cnt, false⟩] → Claims.GoodTarget (Claims.target s.strm.pc f) →
    n = word (2 ^ 64 + (s.src f.cnt).toNat - 1) →
    exec (.loop f) s = .next (s.retired (if n = 0 then s.strm.pc + 16 else Claims.target s.strm.pc f) (s.wrote [] f.cnt n)))

/-- R38, R110: a branch whose target is misaligned traps ALIGN, and one whose target is 2^48 or above traps BOUND, both with
TVAL = target and with no effect of the branch: no link is written and no count is decremented. -/
def Sys2Proof.Claims.BranchTraps : Prop :=
  ∀ (i : JForm → Instr) f s t,
    (i = .br ∧ t = Claims.target s.strm.pc f) ∨
      (i = .jmp ∧ SourcesReady s [⟨f.t, false⟩] ∧ t = Claims.target (s.src f.t) f) ∨
      (i = .call ∧ SourcesReady s [⟨f.t, false⟩] ∧ t = Claims.target (if f.t = 0 then s.strm.pc else s.src f.t) f) ∨
      (i = .ret ∧ SourcesReady s [⟨f.t, false⟩] ∧ t = s.src f.t) ∨
      (i = .loop ∧ SourcesReady s [⟨f.cnt, false⟩] ∧ t = Claims.target s.strm.pc f) →
    Runs (i f) s →
    (t.toNat % 8 ≠ 0 → exec (i f) s = .next (takeTrap s.turn.1 s.turn.2 .align t s.strm.pc .instr s)) ∧
    (t.toNat % 8 = 0 → 2 ^ 48 ≤ t.toNat →
      exec (i f) s = .next (takeTrap s.turn.1 s.turn.2 .bound t s.strm.pc .instr s))

/-- R110: a branch whose predicate is false changes nothing and falls through to pc + 16. -/
def Sys2Proof.Claims.BranchFallsThrough : Prop :=
  ∀ (i : JForm → Instr) f s, i = .br ∨ i = .jmp ∨ i = .call ∨ i = .ret ∨ i = .loop → s.strm.predTrue (predOf (i f)) = false →
    exec (i f) s = .next (s.retired (s.strm.pc + 16) s)

/-! ### CSRs, rendezvous, system instructions, traps (R112, R114, R349 to R366) -/

/-- A CSR that the stream holds, and that its level may read or, when `write`, write (R114). -/
def Sys2Proof.Claims.CsrMay (s : State) (a : Nat) (write : Bool) : Prop :=
  csrHeld s.turn.2 a = true ∧ (s.strm.level = .u → csrUNone a = false ∧ (write = true → csrSOnly a = false))

/-- What a CSR instruction returns: the CSR, a counter without the events of the instruction itself (R394). -/
def Sys2Proof.Claims.csrValue (s : State) (a : Nat) : Word :=
  csrShown (csrSync a s).strm a (csrRead (csrSync a s).cur s.turn.2 a)

/-- R114, R394, R408: CSRR, CSRS and CSRC write the old value of the CSR to D; CSRW, CSRS and CSRC write the CSR through the
access codes of its fields, CSRS and CSRC with A = s0 write nothing; a write of VLCAP names one of its five values. -/
def Sys2Proof.Claims.CsrResults : Prop :=
  (∀ f s a, Runs (.csrr f) s → a = f.imm.toNat % 2 ^ 12 → Claims.CsrMay s a false → DestReady s f.d →
    exec (.csrr f) s = .next (s.done (.csrr f) ((csrSync a s).wrote [] f.d (Claims.csrValue s a)))) ∧
  (∀ f s a, Runs (.csrw f) s → a = f.imm.toNat % 2 ^ 12 → Claims.CsrMay s a true → SourcesReady s [⟨f.a, f.ea⟩] →
    (a = 0x200 → fld (s.src f.a) 0 11 ∈ [64, 128, 256, 512, 1024]) →
    exec (.csrw f) s = .next (s.done (.csrw f) ((csrSync a s).modCur (fun k =>
      csrStore s.turn.2 a (csrStored .write (csrMasks s.turn.2 a) (csrRead (csrSync a s).cur s.turn.2 a) (s.src f.a))
        (k.popAll [⟨f.a, f.ea⟩]))))) ∧
  (∀ (i : IForm → Instr) (m : CsrMode) f s a, (i = .csrs ∧ m = .set) ∨ (i = .csrc ∧ m = .clear) →
    Runs (i f) s → a = f.imm.toNat % 2 ^ 12 → DestReady s f.d →
    (f.a = 0 → Claims.CsrMay s a false →
      exec (i f) s = .next (s.done (i f) ((csrSync a s).wrote [] f.d (Claims.csrValue s a)))) ∧
    (f.a ≠ 0 → Claims.CsrMay s a true → SourcesReady s [⟨f.a, f.ea⟩] →
      (a = 0x200 → fld (m.combine (csrRead (csrSync a s).cur s.turn.2 a) (s.src f.a)) 0 11 ∈ [64, 128, 256, 512, 1024]) →
      exec (i f) s = .next (s.done (i f) (((csrSync a s).modCur (fun k =>
        csrStore s.turn.2 a (csrStored m (csrMasks s.turn.2 a) (csrRead (csrSync a s).cur s.turn.2 a) (s.src f.a))
          (k.popAll [⟨f.a, f.ea⟩]))).wrote [] f.d (Claims.csrValue s a)))))

/-- The CSR addresses that X alone holds, and those that each stream reaches (the map of R114). -/
def Sys2Proof.Claims.xCsrs : List Nat := [0, 1, 2, 3, 4, 5, 6, 7, 0x200]
def Sys2Proof.Claims.sharedCsrs : List Nat :=
  (List.range 4).map (0x10 + ·) ++ (List.range 4).map (0x20 + ·) ++ (List.range 16).map (0x100 + ·) ++
    (List.range 4).map (0x300 + ·) ++ (List.range 48).map (0x310 + ·)

/-- R114, R115: a CSR address outside the map, or of a register that X alone holds, in A, traps ILLEGAL with TVAL = the address;
an access at U level to a register whose U access is none, or a write there to one that is RW at S level alone, freezes
the stream with a violation record of kind 3 and has no effect; a value written to VLCAP other than its five traps ILLEGAL
with TVAL = that value. -/
def Sys2Proof.Claims.CsrTraps : Prop :=
  ∀ (i : IForm → Instr) (mode : Option CsrMode) f s a,
    (i = .csrr ∧ mode = none) ∨ (i = .csrw ∧ mode = some .write) ∨
      (i = .csrs ∧ mode = if f.a = 0 then none else some .set) ∨ (i = .csrc ∧ mode = if f.a = 0 then none else some .clear) →
    Runs (i f) s → a = f.imm.toNat % 2 ^ 12 →
    (a ∉ Claims.sharedCsrs → (a ∈ Claims.xCsrs → s.turn.2 = .a) → (mode.isSome = true → SourcesReady s [⟨f.a, f.ea⟩]) →
      exec (i f) s = .next (takeTrap s.turn.1 s.turn.2 .illegal (word a) s.strm.pc .instr s)) ∧
    (a ∈ Claims.sharedCsrs ∨ (a ∈ Claims.xCsrs ∧ s.turn.2 = .x) → s.strm.level = .u →
      0x300 ≤ a ∨ (mode.isSome = true ∧ (a ∈ [3, 4, 6, 0x200] ∨ (0x100 ≤ a ∧ a < 0x110))) →
      ∃ t, exec (i f) s = .next t ∧ t.strm.frozen = some s.violSeq ∧ t.strm.pc = s.strm.pc ∧ t.strm.level = .u ∧
        t.viols = s.viols ++ [⟨s.violSeq, 3, if s.turn.2 = .a then 0 else 1, s.turn.1, 0, 0, s.strm.pc.toNat,
          (firstWord (i f)).toNat, s.cur.guest, false⟩] ∧
        (∀ c, t.strm.reg c = s.strm.reg c) ∧ t.guests = s.guests ∧ t.writes = s.writes ∧ t.mem = s.mem) ∧
    (∀ m v, a = 0x200 → s.turn.2 = .x → s.strm.level = .s → mode = some m → SourcesReady s [⟨f.a, f.ea⟩] →
      v = m.combine (s.cur.units.vlcap.setWidth 64) (s.src f.a) → fld v 0 11 ∉ [64, 128, 256, 512, 1024] →
      exec (i f) s = .next (takeTrap s.turn.1 s.turn.2 .illegal v s.strm.pc .instr s))

/-- R114, R115, R345: what each CSR of the map reads as, by its address; that 0x320 to 0x33F ignore what is written; and which
stream holds an address. -/
def Sys2Proof.Claims.CsrMap : Prop :=
  ∀ (k : Core) (t : StreamId),
    csrRead k t 0x000 = k.vec.fstat.setWidth 64 ∧ csrRead k t 0x001 = k.vec.vl.setWidth 64 ∧
    csrRead k t 0x002 = k.vec.vtype.setWidth 64 ∧ csrRead k t 0x003 = k.vec.vstart.setWidth 64 ∧
    csrRead k t 0x004 = k.vec.vrstate ∧
    csrRead k t 0x005 = word (Nat.min k.units.vlcap.toNat (64 * k.units.lanes)) ∧
    csrRead k t 0x006 = k.mat.step.setWidth 64 ∧
    csrRead k t 0x007 = (if k.units.unitsOut = 0 ∧ k.units.quarantined = none then 7 else 6) ∧
    csrRead k t 0x010 = k.copy.cnext ∧ csrRead k t 0x011 = k.copy.cseq ∧
    csrRead k t 0x012 = k.mat.mnext ∧ csrRead k t 0x013 = k.mat.mseq ∧
    csrRead k t 0x020 = k.placeD.argp ∧ csrRead k t 0x021 = word k.placeD.gidx ∧
    csrRead k t 0x022 = word k.placeD.gsize ∧ csrRead k t 0x023 = word k.placeD.job.gnum ∧
    (∀ n, n < 16 → csrRead k t (0x100 + n) = k.pmcReg n) ∧
    csrRead k t 0x200 = k.units.vlcap.setWidth 64 ∧
    csrRead k t 0x300 = (k.stream t).tcause.setWidth 64 ∧ csrRead k t 0x301 = (k.stream t).tval ∧
    csrRead k t 0x302 = (k.stream t).tpc ∧ csrRead k t 0x303 = (k.stream t).tstat ∧
    (∀ n, n < 16 → csrRead k t (0x310 + n) = (k.stream t).wreg n) ∧
    (∀ n, n < 32 → csrRead k t (0x320 + n) = 0 ∧ ∀ v, csrStore t (0x320 + n) v k = k) ∧
    (∀ a, csrHeld t a = true ↔ a ∈ Claims.sharedCsrs ∨ (a ∈ Claims.xCsrs ∧ t = .x))

/-- The bits of a CSR that software writes at S level: the RW fields of R67, R95, R115, R341, R342, R345 and R353. -/
def Sys2Proof.Claims.rwBit (t : StreamId) (a i : Nat) : Bool :=
  if a = 0x000 then decide (i ≤ 5)
  else if a = 0x004 then decide (i ≤ 33)
  else if 0x100 ≤ a ∧ a ≤ 0x107 ∨ 0x316 ≤ a ∧ a ≤ 0x319 then decide (i ≤ 47)
  else if 0x108 ≤ a ∧ a ≤ 0x10F then decide (62 ≤ i ∨ 16 ≤ i ∧ i ≤ 19 ∨ i ≤ 7)
  else if a = 0x200 then decide (i ≤ 10)
  else if a = 0x300 then decide (i ≤ 7)
  else if a = 0x301 then true
  else if a = 0x302 then decide (3 ≤ i ∧ i ≤ 47)
  else if a = 0x303 then decide (11 ≤ i ∧ i ≤ 15 ∨ t = .x ∧ (24 ≤ i ∧ i ≤ 28 ∨ 32 ≤ i ∧ i ≤ 42 ∨ 48 ≤ i ∧ i ≤ 58))
  else if a = 0x310 then decide (i ≤ 2)
  else if 0x312 ≤ a ∧ a ≤ 0x315 then decide (i = 63 ∨ 3 ≤ i ∧ i ≤ 47)
  else if 0x31A ≤ a ∧ a ≤ 0x31D then decide (i = 63 ∨ 59 ≤ i ∧ i ≤ 61 ∨ i ≤ 5)
  else if 0x31E ≤ a ∧ a ≤ 0x31F then decide (i = 63 ∨ 58 ≤ i ∧ i ≤ 61 ∨ 14 ≤ i ∧ i ≤ 23 ∨ i ≤ 7)
  else false

/-- The bits of a CSR that a 1 clears: OVF of pmcfgN (R342) and the match bits of WSTAT (R345). No CSR has an RS field. -/
def Sys2Proof.Claims.w1cBit (a i : Nat) : Bool :=
  decide (0x108 ≤ a ∧ a ≤ 0x10F ∧ i = 61 ∨ a = 0x311 ∧ i ≤ 10)

/-- A bit of an RW field after CSRW, CSRS or CSRC with a value (R408). -/
def Sys2Proof.Claims.rwValue (m : CsrMode) (old v : Bool) : Bool :=
  match m with
  | .write => v
  | .set => old || v
  | .clear => old && !v

/-- R4, R67, R95, R115, R181, R341, R342, R344, R345, R353, R408: what a CSR that a stream holds reads as after CSRW, CSRS or CSRC
have written it at S level: an RW bit as R408 says, a W1C bit cleared by a 1 of CSRW or CSRS, and any other bit as before; no
other CSR changes but VLENB with VLCAP. VSTART is rounded down to a multiple of 512 / W. MPROG holds what is written while no
command runs; while the head command is held by a fault of its own, a STEP of 32 or more drops it; while one runs, what is
written is for the next command, and MPROG shows the running one (log 50, DESIGN CHOICE). A counter that X has written in this
cycle keeps that value (R344). -/
def Sys2Proof.Claims.CsrWrites : Prop :=
  (∀ (k k' : Core) t m a v, csrHeld t a = true → a ≠ 0x003 → a ≠ 0x006 →
    k' = csrStore t a (csrStored m (csrMasks t a) (csrRead k t a) v) k →
    (t = .a → a < 0x100 ∨ 0x110 ≤ a ∨ a - 0x100 ∉ k.pmcX) →
    (∀ i, i < 64 → bit (csrRead k' t a) i =
      if Claims.rwBit t a i then Claims.rwValue m (bit (csrRead k t a) i) (bit v i)
      else bit (csrRead k t a) i && !(Claims.w1cBit a i && decide (m ≠ .clear) && bit v i)) ∧
    (∀ b, b ≠ a → a ≠ 0x200 ∨ b ≠ 0x005 → csrRead k' t b = csrRead k t b)) ∧
  (∀ (k k' : Core) m a v, 0x100 ≤ a → a < 0x110 → a - 0x100 ∈ k.pmcX →
    k' = csrStore .a a (csrStored m (csrMasks .a a) (csrRead k .a a) v) k → k' = k) ∧
  (∀ (k k' : Core) m v c n, k' = csrStore .x 0x003 (csrStored m (csrMasks .x 0x003) (csrRead k .x 0x003) v) k →
    (∀ i, i < 11 → bit c i = Claims.rwValue m (bit (csrRead k .x 0x003) i) (bit v i)) → n = 512 / k.vec.w →
    csrRead k' .x 0x003 = word (fld c 0 11 / n * n) ∧ ∀ b, b ≠ 0x003 → csrRead k' .x b = csrRead k .x b) ∧
  (∀ (k k' : Core) m v c, k' = csrStore .x 0x006 (csrStored m (csrMasks .x 0x006) (csrRead k .x 0x006) v) k →
    (∀ i, i < 6 → bit c i = Claims.rwValue m (bit (csrRead k .x 0x006) i) (bit v i)) →
    (k.mat.queue = [] → csrRead k' .x 0x006 = word (fld c 0 6)) ∧
    (∀ e r h, k.mat.queue = e :: r → e.started = true → k.mat.halt = some h → h.share = none →
      (fld c 0 6 < 32 → csrRead k' .x 0x006 = word (fld c 0 6) ∧ k'.mat.queue = e :: r) ∧
      (32 ≤ fld c 0 6 → csrRead k' .x 0x006 = 0 ∧ k'.mat.queue = r)) ∧
    (∀ e r, k.mat.queue = e :: r → e.started = true → k.mat.halt = none → e.shareOver = false →
      csrRead k' .x 0x006 = csrRead k .x 0x006 ∧ k'.mat.stepNext = some (BitVec.ofNat 6 (fld c 0 6))))

/-- R290, R311, R343, R345, R346: retiring moves the stream to `pc`, counts one INSTR event at the level that the instruction
had, clears SKIP1 when that level was U, clears there the record that a BAR has arrived, and asks for a STEP trap when EN and
STEP were set, the level was U and SKIP1 was clear. Of the model's own records it ends the wait, the refusal of credit and the
counts that belong to the instruction, and marks the core as active in this cycle. Every other field of the stream, of the core
and of the machine is as the instruction's effects left it. -/
def Sys2Proof.Claims.RetireEffect : Prop :=
  ∀ (s u : State) (pc : Word) (t : State), t = s.retired pc u → u.turn = s.turn →
    (s.strm.level = .u → t.strm.wctl = setFld u.strm.wctl 2 1 0 ∧ t.strm.barArrived = false) ∧
    (s.strm.level = .s → t.strm.wctl = u.strm.wctl ∧ t.strm.barArrived = u.strm.barArrived) ∧
    (∀ n, 0 < n → t.strm.wreg n = u.strm.wreg n) ∧
    (t.strm.stepPending = true ↔
      bit s.strm.wctl 0 = true ∧ s.strm.level = .u ∧ bit s.strm.wctl 2 = false ∧ bit s.strm.wctl 1 = true) ∧
    t.strm = { u.strm with pc := pc, wayf := t.strm.wayf, barArrived := t.strm.barArrived, stepPending := t.strm.stepPending,
                           wait := none, creditRefused := false, csrOwn := [] } ∧
    t.cur = { u.cur.setStream s.turn.2 t.strm with
      tally := u.cur.tally ++ [⟨2, some s.turn.2, s.strm.level, 1⟩], active := true } ∧
    t = u.setCore s.turn.1 t.cur

/-- R33, R47: an instruction whose predicate is false retires with no other effect, whatever its fields hold. -/
def Sys2Proof.Claims.PredicateFalse : Prop :=
  ∀ i s, isEvent i = false → s.strm.predTrue (predOf i) = false → exec i s = .next (s.done i s)

/-- R354: what taking a trap writes; a trap of an instruction at U clears SKIP1 of WCTL, and one taken before the instruction at
the pc, which has not executed, leaves it (R345). Of the model's own records the trap ends the stream's wait, its place at an
RDV, the refusal of credit and the counts that belong to the instruction, and counts the event TRAP (R343). Every other field of
the stream, of its core and of the machine is as it was. -/
def Obligations.TrapEntry : Prop :=
  ∀ (c : Nat) (t : StreamId) (cause : Cause) (tval tpc : Word) (src : TrapSrc) (s u : State),
    u = takeTrap c t cause tval tpc src s ∨ (tpc = (s.streamAt c t).pc ∧ u = trapBefore c t cause tval src s) →
    (u = takeTrap c t cause tval tpc src s → (s.streamAt c t).level = .u →
      (u.streamAt c t).wctl = setFld (s.streamAt c t).wctl 2 1 0) ∧
    ((s.streamAt c t).level = .s ∨ u = trapBefore c t cause tval src s →
      (u.streamAt c t).wctl = (s.streamAt c t).wctl) ∧
    (u.streamAt c t).tcause = BitVec.ofNat 8 cause.code ∧ (u.streamAt c t).tval = tval ∧
    (u.streamAt c t).tpc = tpc &&& 0xFFFFFFFFFFF8 ∧
    fld (u.streamAt c t).tstat 12 4 = src.code ∧
    fld (u.streamAt c t).tstat 11 1 = (if (s.streamAt c t).level = .s then 1 else 0) ∧
    (t = .x → fld (u.streamAt c t).tstat 32 11 = (s.core c).vec.vl.toNat ∧
      fld (u.streamAt c t).tstat 24 5 = (s.core c).vec.vtype.toNat ∧
      fld (u.streamAt c t).tstat 48 11 = (s.core c).vec.vstart.toNat) ∧
    (u.streamAt c t).level = .s ∧
    (u.streamAt c t).pc = (s.streamAt c t).sentry &&& 0xFFFFFFFFFFF8 ∧
    bit (u.streamAt c t).tstat 10 = bit (s.streamAt c t).tstat 10 ∧
    (∀ n, 0 < n → (u.streamAt c t).wreg n = (s.streamAt c t).wreg n) ∧
    u.streamAt c t = { s.streamAt c t with
      tcause := (u.streamAt c t).tcause, tval := (u.streamAt c t).tval, tpc := (u.streamAt c t).tpc
      tstat := (u.streamAt c t).tstat, level := (u.streamAt c t).level, pc := (u.streamAt c t).pc
      wayf := (u.streamAt c t).wayf, wait := none, rdvHere := false, creditRefused := false, csrOwn := [] } ∧
    u.core c = { (s.core c).setStream t (u.streamAt c t) with
      tally := (s.core c).tally ++ [⟨3, some t, (s.streamAt c t).level, 1⟩] } ∧
    u = s.setCore c (u.core c)

/-- R364: SYSCALL and BKPT trap at once, with TVAL = IMM, TPC = pc + 8 and SRC = 4. -/
def Sys2Proof.Claims.SystemCalls : Prop :=
  (∀ f s, Runs (.syscall f) s → exec (.syscall f) s =
    .next (takeTrap s.turn.1 s.turn.2 .syscall (BitVec.ofNat 64 f.imm.toNat) (s.strm.pc + 8) .call s)) ∧
  (∀ f s, Runs (.bkpt f) s → exec (.bkpt f) s =
    .next (takeTrap s.turn.1 s.turn.2 .brk (BitVec.ofNat 64 f.imm.toNat) (s.strm.pc + 8) .call s))

/-- R365: ERET returns to TPC at the level of TSTAT.PL, in X with VL, VTYPE and VSTART of TSTAT, an SVTYPE of W = 3 as
W = 2. -/
def Sys2Proof.Claims.ReturnFromTrap : Prop :=
  ∀ f s, Runs (.eret f) s → ∃ t, exec (.eret f) s = .next t ∧ t.strm.pc = s.strm.tpc ∧
    t.strm.level = (if bit s.strm.tstat 11 then .s else .u) ∧
    (bit s.strm.tstat 11 = false → bit t.strm.tstat 10 = false) ∧
    (s.turn.2 = .x → t.cur.vec.vl.toNat = fld s.strm.tstat 32 11 ∧ t.cur.vec.vstart.toNat = fld s.strm.tstat 48 11 ∧
      t.cur.vec.vtype.toNat = (if fld s.strm.tstat 24 2 = 3 then fld s.strm.tstat 24 5 - 1 else fld s.strm.tstat 24 5)) ∧
    (s.turn.2 = .a → t.cur.vec = s.cur.vec) ∧
    (∀ c, t.strm.reg c = s.strm.reg c) ∧ (∀ c, t.strm.pred c = s.strm.pred c) ∧
    t.cur.stream (otherStream s.turn.2) = s.cur.stream (otherStream s.turn.2) ∧ t.cur.sp = s.cur.sp ∧
    t = s.setCore s.turn.1 t.cur

/-- R112, R366: NOP only advances; RDV passes, counted, when the other stream stands at the paired RDV or is past it; a WFE
whose event flag is set clears it and retires, and one whose flag is clear waits at its address; after 65,536 cycles the
wait ends. -/
def Sys2Proof.Claims.NopRdvWfe : Prop :=
  (∀ f s, Runs (.nop f) s → exec (.nop f) s = .next (s.done (.nop f) s)) ∧
  (∀ f s o, Runs (.rdv f) s → o = s.cur.stream (otherStream s.turn.2) →
    s.strm.rdvCount < o.rdvCount ∨ (o.rdvHere = true ∧ o.rdvCount = s.strm.rdvCount) →
    exec (.rdv f) s = .next (s.done (.rdv f)
      (s.modStrm (fun st => { st with rdvHere := false, rdvCount := st.rdvCount + 1 })))) ∧
  (∀ f s, Runs (.wfe f) s → s.strm.evf = true →
    exec (.wfe f) s = .next (s.done (.wfe f) (s.modStrm (fun st => { st with evf := false, wfeCycles := 0 })))) ∧
  (∀ f s, Runs (.wfe f) s → s.strm.evf = false → ∃ t, exec (.wfe f) s = .next t ∧ t.strm.pc = s.strm.pc ∧
    t.strm.wait = some ⟨.event, firstWord (.wfe f)⟩) ∧
  (∀ c st s, (s.core c).canIssue st = true → (∃ w, (s.streamAt c st).wait = some ⟨.event, w⟩) →
    65536 ≤ (s.streamAt c st).wfeCycles → ∃ t, exec (.wfeTimeout c st) s = .next t ∧
      (t.streamAt c st).pc = (s.streamAt c st).pc + 8 ∧ (t.streamAt c st).wait = none ∧ (t.streamAt c st).evf = false)

/-- R112, R357: END at U level stops the stream once no register producer of it is outstanding, and in X no share holds the
matrix engine; at S level it stops the stream at once. When both streams have ended, the gang's boundaries and barriers
settle (R288). -/
def Sys2Proof.Claims.EndStops : Prop :=
  ∀ f s u, Runs (.endj f) s →
    (s.strm.level = .u → (∀ p ∈ s.cur.producers, p.strm ≠ s.turn.2) ∧ (s.turn.2 = .x → s.cur.shareHalt = none)) →
    u = s.modStrm (fun st => { st with ended := true }) →
    exec (.endj f) s = .next (s.done (.endj f) (if u.cur.workEnded then gangSettle s.turn.1 u else u))

/-! ### Exact values, their order and their rounding (R62 to R66, R79 to R82, R127, R131) -/

/-- A value is finite. -/
def Sys2Proof.Claims.isFin : Val → Bool
  | .fin .. => true
  | _ => false

/-- The real number that a finite value stands for. -/
def Sys2Proof.Claims.real : Val → Rat
  | .fin neg m e => (if neg then -1 else 1) * (m : Rat) * (2 : Rat) ^ e
  | _ => 0

/-- A value lies below another, and two values are equal, as numbers: no NaN does either, and −0 = +0 (R131). -/
def Sys2Proof.Claims.Less (a b : Val) : Prop :=
  a.isNan = false ∧ b.isNan = false ∧ a ≠ b ∧
    (a = .inf true ∨ b = .inf false ∨ (Claims.isFin a = true ∧ Claims.isFin b = true ∧ Claims.real a < Claims.real b))
def Sys2Proof.Claims.Same (a b : Val) : Prop :=
  a.isNan = false ∧ b.isNan = false ∧
    (a = b ∨ (Claims.isFin a = true ∧ Claims.isFin b = true ∧ Claims.real a = Claims.real b))

/-- The order of VMIN, VMAX and the reductions: −0 lies below +0 (R97, R127). -/
def Sys2Proof.Claims.Under (a b : Val) : Prop :=
  Claims.Less a b ∨ (a.isZero = true ∧ b.isZero = true ∧ a.neg = true ∧ b.neg = false)

/-- NV where a signalling NaN is consumed (R63). -/
def Sys2Proof.Claims.signals (l : List Val) : BitVec 6 := if .nan true ∈ l then 1 else 0

/-- The bits of a significand below its leading one, emin, and the encoding of the greatest finite magnitude (R62). -/
def Sys2Proof.Claims.layout (f : Nat) : Nat × Int × Nat :=
  match f with
  | 1 => (23, -126, 0x7F7FFFFF) | 2 => (7, -126, 0x7F7F) | 3 => (10, -14, 0x7BFF) | 4 => (3, -6, 0x7E)
  | 5 => (2, -14, 0x7B) | _ => (1, 0, 0x7)

/-- The magnitude of the encoding `n`, its sign taken away, in a format of `t` bits below the leading one and least exponent
`emin`, with exponents that go on without a bound (R62, R81). -/
def Sys2Proof.Claims.magnitude (t : Nat) (emin : Int) (n : Nat) : Rat :=
  if n < 2 ^ t then (n : Rat) * (2 : Rat) ^ (emin - t)
  else ((2 ^ t + n % 2 ^ t : Nat) : Rat) * (2 : Rat) ^ (emin - t + ((n / 2 ^ t : Nat) : Int) - 1)

/-- A number between the places `k` and `k + 1` of a rising grid goes to the upper one (R65). -/
def Sys2Proof.Claims.RoundsUp (g : Nat → Rat) (below is : Rat → Prop) (neg : Bool) (rm : Rm) (k : Nat) : Prop :=
  match rm with
  | .rne => below ((g k + g (k + 1)) / 2) ∨ (is ((g k + g (k + 1)) / 2) ∧ k % 2 = 1)
  | .rtz => False
  | .rdn => neg = true
  | .rup => neg = false

/-- A magnitude, known by the numbers below it and the number that it is, rounds to the place `n` of a grid that rises from 0
(R65). -/
def Sys2Proof.Claims.RoundsOn (g : Nat → Rat) (below is : Rat → Prop) (neg : Bool) (rm : Rm) (n : Nat) : Prop :=
  ∃ k, (below (g k) ∨ is (g k)) ∧ ¬below (g (k + 1)) ∧ ¬is (g (k + 1)) ∧ (is (g k) → n = k) ∧
    (¬is (g k) → (Claims.RoundsUp g below is neg rm k → n = k + 1) ∧ (¬Claims.RoundsUp g below is neg rm k → n = k))

/-- The sign bit of an element, and an overflow goes to the greatest finite magnitude, not to infinity (R62, R64). -/
def Sys2Proof.Claims.signBit (f : Nat) (neg : Bool) : Nat := if neg then 2 ^ (fmtWidth f - 1) else 0
def Sys2Proof.Claims.stopsAtMax (f : Nat) (neg : Bool) (rm : Rm) : Prop :=
  f = 4 ∨ f = 6 ∨ rm = .rtz ∨ (rm = .rdn ∧ neg = false) ∨ (rm = .rup ∧ neg = true)

/-- R64 to R66, R81: the bits and the flags of a magnitude above 0 in a floating format: flushed by FZ below the smallest normal
value, with UF and NX; beyond the greatest finite value an overflow with OF and NX; else rounded, with NX when inexact, and UF
when it was below the smallest normal value. -/
def Sys2Proof.Claims.EncodedFloat (f : Nat) (below is : Rat → Prop) (neg : Bool) (rm : Rm) (fz : Bool) (out : Nat × BitVec 6) :
    Prop :=
  ∀ t emin big g s, (t, emin, big) = Claims.layout f → g = Claims.magnitude t emin → s = Claims.signBit f neg →
    let tiny := ¬below (g (2 ^ t)) ∧ ¬is (g (2 ^ t))
    (fz = true → f ≠ 6 → tiny → out = (s, 0x0C)) ∧
    (fz = false ∨ f = 6 ∨ ¬tiny → ∃ n, Claims.RoundsOn g below is neg rm n ∧
      (big < n → Claims.stopsAtMax f neg rm → out = (s + big, 0x0A)) ∧
      (big < n → ¬Claims.stopsAtMax f neg rm → out = (s + (big + 1), 0x0A)) ∧
      (n ≤ big → is (g n) → out = (s + n, 0)) ∧
      (n ≤ big → ¬is (g n) → (tiny → out = (s + n, 0x0C)) ∧ (¬tiny → out = (s + n, 0x08))))

/-- The bound of an integer format on the side of a sign, as a magnitude (R64). -/
def Sys2Proof.Claims.bound (f : Nat) (neg : Bool) : Nat := 2 ^ (fmtWidth f - 1) - (if neg then 0 else 1)

/-- R64, R65, R81: the bits and the flags of a magnitude above 0 in an integer format: the nearest bound with NV where the integer
is out of range, and else the integer in two's complement, with NX when inexact. -/
def Sys2Proof.Claims.EncodedInt (f : Nat) (below is : Rat → Prop) (neg : Bool) (rm : Rm) (out : Nat × BitVec 6) : Prop :=
  ∃ n, Claims.RoundsOn (fun j => (j : Rat)) below is neg rm n ∧
    (Claims.bound f neg < n → out = (Claims.bound f neg, 1)) ∧
    (n ≤ Claims.bound f neg → out.1 = (if neg then 2 ^ fmtWidth f - n else n) % 2 ^ fmtWidth f ∧
      (is n → out.2 = 0) ∧ (¬is n → out.2 = 8))

/-- R81: RoundTo of a magnitude above 0 into format `f` under SCALE `k`: it is divided by 2^(k − 127) first. -/
def Sys2Proof.Claims.Encoded (f k : Nat) (below is : Rat → Prop) (neg : Bool) (rm : Rm) (fz : Bool) (out : Nat × BitVec 6) : Prop :=
  let up := fun (p : Rat → Prop) (c : Rat) => p (c * (2 : Rat) ^ ((k : Int) - 127))
  (f ≤ 6 → Claims.EncodedFloat f (up below) (up is) neg rm fz out) ∧
  (7 ≤ f → Claims.EncodedInt f (up below) (up is) neg rm out)

/-- R64 to R66, R80, R81: what RoundTo gives of NaNs, infinities, zeros and every finite value; and, of two finite values that are not
zero, what it gives of their quotient, and of the square root of one above zero, which no value of the model states exactly
(log 8, DEDUCED): the quotient and the root themselves are rounded, once. The exponents of decoded elements lie within the
bounds. -/
def Sys2Proof.Claims.Rounding : Prop :=
  ∀ (f k : Nat) (rm : Rm) (fz : Bool), 1 ≤ f → f ≤ 8 → k ≤ 255 →
    (∀ q, roundTo (.nan q) f k rm fz =
      if 6 ≤ f then (0, 1) else ([0x7FC00000, 0x7FC0, 0x7E00, 0x7F, 0x7E].getD (f - 1) 0, 0)) ∧
    (∀ neg, roundTo (.inf neg) f k rm fz =
      if 7 ≤ f then (Claims.bound f neg, 1)
      else if f = 4 ∨ f = 6 then (Claims.signBit f neg + (Claims.layout f).2.2, 2)
      else (Claims.signBit f neg + ((Claims.layout f).2.2 + 1), 0)) ∧
    (∀ neg e, roundTo (.fin neg 0 e) f k rm fz = (if 7 ≤ f then 0 else Claims.signBit f neg, 0)) ∧
    (∀ neg (m : Nat) (e : Int), m ≠ 0 → Claims.Encoded f k (fun c => c < (m : Rat) * (2 : Rat) ^ e) (fun c => c = (m : Rat) * (2 : Rat) ^ e)
      neg rm fz (roundTo (.fin neg m e) f k rm fz)) ∧
    (∀ s1 (m1 : Nat) (e1 : Int) s2 (m2 : Nat) (e2 : Int), m1 ≠ 0 → m2 ≠ 0 → e1 - e2 ≤ 600 → ∃ v, valDiv (.fin s1 m1 e1) (.fin s2 m2 e2) = (v, 0) ∧
      Claims.Encoded f k (fun c => c * ((m2 : Rat) * (2 : Rat) ^ e2) < (m1 : Rat) * (2 : Rat) ^ e1)
        (fun c => c * ((m2 : Rat) * (2 : Rat) ^ e2) = (m1 : Rat) * (2 : Rat) ^ e1) (s1 != s2) rm fz (roundTo v f k rm fz)) ∧
    (∀ (m : Nat) (e : Int), m ≠ 0 → e ≤ 600 → ∃ v, valSqrt (.fin false m e) = (v, 0) ∧
      Claims.Encoded f k (fun c => c * c < (m : Rat) * (2 : Rat) ^ e) (fun c => c * c = (m : Rat) * (2 : Rat) ^ e)
        false rm fz (roundTo v f k rm fz))

/-- The first place of a list that passes a test. -/
def Sys2Proof.Claims.FirstAt (es : List Val) (p : Val → Prop) (c : Nat) : Prop :=
  ∃ v, es[c]? = some v ∧ p v ∧ ∀ j w, j < c → es[j]? = some w → ¬p w

/-- The distance of two numbers. -/
def Sys2Proof.Claims.apart (a b : Rat) : Rat := if a ≤ b then b - a else a - b

/-- R82: RoundTo into CB4 by the 16 entries of a slot, read as BF16. That a NaN under entries that are all NaN sets NV is log 27 (DESIGN
CHOICE), and that a zero and a zero entry of the other sign do not differ is log 27 (DEDUCED). -/
def Sys2Proof.Claims.BookRounding : Prop :=
  ∀ (entry : Nat → Nat) (es : List Val) (x : Val) (out : Nat × BitVec 6),
    es = (List.range 16).map (fun c => decodeFloat 2 (entry c) false) → out = roundCb4 x es →
    ((∀ v ∈ es, v.isNan = true) → out = (0, 1)) ∧
    ((∃ v ∈ es, v.isNan = false) →
      (x.isNan = true →
        (∀ c, Claims.FirstAt es (fun v => v.isNan = true) c → out = (c, 0)) ∧
        ((∀ v ∈ es, v.isNan = false) → out = (0, 1))) ∧
      (∀ neg, x = .inf neg →
        (∀ c, Claims.FirstAt es (fun v => v = x) c → out = (c, 0)) ∧
        (x ∉ es → ∀ c, Claims.FirstAt es (fun v => v.isNan = false ∧
          ∀ w ∈ es, ¬(if neg then Claims.Less w v else Claims.Less v w)) c → out = (c, 2))) ∧
      (Claims.isFin x = true →
        (∀ c v, Claims.FirstAt es (fun v => Claims.isFin v = true ∧ ∀ w ∈ es, Claims.isFin w = true →
            Claims.apart (Claims.real x) (Claims.real v) ≤ Claims.apart (Claims.real x) (Claims.real w)) c → es[c]? = some v →
          out = (c, if Claims.real v = Claims.real x then 0 else 8)) ∧
        ((∀ v ∈ es, Claims.isFin v = false) →
          (∀ c, Claims.FirstAt es (fun v => v = .inf x.neg) c → out = (c, 0x0A)) ∧
          (.inf x.neg ∉ es → ∀ c, Claims.FirstAt es (fun v => v = .inf (!x.neg)) c → out = (c, 0x0A)))))

/-- R65, R80, R127: the special cases of the exact operations, the sign of an exact zero, and the lesser and the greater of two
values. -/
def Sys2Proof.Claims.SpecialValues : Prop :=
  (∀ rm a b c, (a.isNan || b.isNan) = true → valAdd rm a b = (.nan false, Claims.signals [a, b]) ∧
    valSub rm a b = (.nan false, Claims.signals [a, b]) ∧ valMul a b = (.nan false, Claims.signals [a, b]) ∧
    valDiv a b = (.nan false, Claims.signals [a, b]) ∧ valFma rm a b c = (.nan false, Claims.signals [a, b, c]) ∧
    ∀ greatest, valMinMax greatest a b = (.nan false, Claims.signals [a, b])) ∧
  (∀ rm a b c, a.isNan = false → b.isNan = false →
    valFma rm a b c = (if (valMul a b).1.isNan then (.nan false, 1) else valAdd rm (valMul a b).1 c) ∧
    valSub rm a b = valAdd rm a b.negate ∧
    valAdd rm a b = (if Claims.isFin a then (if Claims.isFin b then ((valAdd rm a b).1, 0) else (b, 0))
      else if Claims.isFin b ∨ a = b then (a, 0) else (.nan false, 1)) ∧
    (Claims.isFin a = true → Claims.isFin b = true → Claims.real a + Claims.real b = 0 →
      valAdd rm a b = (.zero (if a.neg = b.neg then a.neg else decide (rm = .rdn)), 0)) ∧
    valMul a b = (if Claims.isFin a ∧ Claims.isFin b then
        (if a.isZero ∨ b.isZero then (.zero (a.neg != b.neg), 0) else ((valMul a b).1, 0))
      else if a.isZero ∨ b.isZero then (.nan false, 1) else (.inf (a.neg != b.neg), 0)) ∧
    (Claims.isFin a = false → valDiv a b = if Claims.isFin b then (.inf (a.neg != b.neg), 0) else (.nan false, 1)) ∧
    (Claims.isFin a = true → Claims.isFin b = false → valDiv a b = (.zero (a.neg != b.neg), 0)) ∧
    (Claims.isFin a = true → b.isZero = true →
      valDiv a b = if a.isZero then (.nan false, 1) else (.inf (a.neg != b.neg), 0x10)) ∧
    (a.isZero = true → Claims.isFin b = true → b.isZero = false → valDiv a b = (.zero (a.neg != b.neg), 0)) ∧
    ∀ greatest, (valMinMax greatest a b).2 = 0 ∧ ((valMinMax greatest a b).1 = a ∨ (valMinMax greatest a b).1 = b) ∧
      ∀ x ∈ [a, b], ¬(if greatest then Claims.Under (valMinMax greatest a b).1 x else Claims.Under x (valMinMax greatest a b).1)) ∧
  (∀ q, valSqrt (.nan q) = (.nan false, if q then 1 else 0)) ∧ valSqrt (.inf false) = (.inf false, 0) ∧
  valSqrt (.inf true) = (.nan false, 1) ∧ (∀ neg e, valSqrt (.fin neg 0 e) = (.zero neg, 0)) ∧
  (∀ m e, m ≠ 0 → valSqrt (.fin true m e) = (.nan false, 1))

/-! ### Loads and stores (R227 to R233) -/

/-- The instruction `i` completes: exec answers a next state, in which `i` has retired to the next instruction after
effects that lead to a state with `P`. -/
def Sys2Proof.Claims.Completes (i : Instr) (s : State) (P : State → Prop) : Prop :=
  ∃ u, exec i s = .next (s.done i u) ∧ u.turn = s.turn ∧ P u

/-- The page and the line that an access of the current core reaches: outside the drain windows of R325, a translation whose
leaf allows the access, a place that the comparator passes, and, behind an aperture, a link that is up (R208, R209,
R386). -/
def Sys2Proof.Claims.Reaches (s : State) (acc : Acc) (gva : Nat) (x : Xlat) (l : Loc) : Prop :=
  s.Serving ∧ gva < 2 ^ 48 ∧ lookup s s.turn.1 acc gva = .ok x ∧
    placeGpa s (s.guestOf s.turn.1) 1 (decide (acc = .write)) (x.gpaAt gva) = .ok l ∧
    reachable s (s.guestOf s.turn.1) (x.gpaAt gva) l = true

/-- No stream slot of the core acquires (R256). -/
def Sys2Proof.Claims.NoAcquire (s : State) : Prop := ∀ e ∈ s.cur.slots, e.2.acq = none

/-- The base register after form M: unchanged with PI = 0, the base and the displacement otherwise (R39). -/
def Sys2Proof.Claims.BaseUpdated (f : MForm) (unit : Nat) (base : Word) (u : State) : Prop :=
  f.a ≠ 0 → u.strm.reg f.a = if f.pi = 0 then base else base + BitVec.ofInt 64 (f.disp.toInt * unit)

/-- The address of form M: the base, the index, and the displacement unless PI = 1 (R39). -/
def Sys2Proof.Claims.address (f : MForm) (unit : Nat) (base index : Word) : Word :=
  base + index + (if f.pi = 1 then 0 else BitVec.ofInt 64 (f.disp.toInt * unit))

/-- The bytes of a load from a line image: zero unless its class is VALID, extended to 64 bits (R232). -/
def Sys2Proof.Claims.loaded (i : LineImg) (off n : Nat) (signed : Bool) : Word :=
  if tagClass i.tag ≠ 0 then 0
  else if signed then BitVec.ofInt 64 (Int.bmod (lineBytes i.bits off n) (2 ^ (8 * n)))
  else BitVec.ofNat 64 (lineBytes i.bits off n)

/-- R232: LD of an aligned address that translates and may be read marks D empty and retires, its value on the way; on a page
that is neither APPEND nor SEALED, with no append on its way, that value is the bytes of the line in A's view, those beyond
the span of an RC line as zero. When the data of a load arrives, D is
full and holds it. -/
def Sys2Proof.Claims.GlobalLoads : Prop :=
  (∀ sz f s a x l, Runs (.ld sz f) s → SourcesReady s [mSrcA f, mSrcB f] → DestReady s f.d →
    a = Claims.address f sz.bytes (s.src f.a) (s.src f.b) → a.toNat % sz.bytes = 0 → Claims.Reaches s .read a.toNat x l →
    s.cur.requests < 4096 → Claims.NoAcquire s →
    Claims.Completes (.ld sz f) s (fun u =>
      (f.d ≠ 0 → f.d.toNat ∈ u.strm.sEmpty) ∧ (f.d ≠ f.a → Claims.BaseUpdated f sz.bytes (s.src f.a) u) ∧
      ∃ v, u.cur.producers.getLast? = some (.ld f.d.toNat (a.toNat % 64) sz.bytes sz.signed v (mAcq f).isSome x a.toNat l) ∧
        (pteClass x.leaf < 2 → (∀ r ∈ s.writes, r.apage = none) →
          v = Claims.loaded (spanned x (viewImg s ⟨s.turn.1, .a⟩ l)) (a.toNat % 64) sz.bytes sz.signed))) ∧
  (∀ c n late s reg off size sg v fixed x gva l,
    (s.core c).producers[n]? = some (.ld reg off size sg v fixed x gva l) → (late = true → fixed = true) →
    ∃ t, exec (.loadDataArrival c n late) s = .next t ∧
      t = s.setCore c (t.core c) ∧ (t.core c).producers = (s.core c).producers.eraseIdx n ∧
      (t.core c).a.evf = true ∧ reg ∉ (t.core c).a.sEmpty ∧
      (0 < reg → reg < 64 → (t.core c).a.reg (BitVec.ofNat 8 reg) = v) ∧ (t.core c).x = (s.core c).x)

/-- R232: LDS reads the bytes of the local scratchpad that A's view shows, within 0x40_0000. -/
def Sys2Proof.Claims.LocalLoads : Prop :=
  ∀ sz f s a, Runs (.lds sz f) s → SourcesReady s [mSrcA f, mSrcB f] → DestReady s f.d →
    a = Claims.address f sz.bytes (s.src f.a) (s.src f.b) → a.toNat % sz.bytes = 0 → a.toNat + sz.bytes ≤ 0x400000 →
    Claims.NoAcquire s →
    Claims.Completes (.lds sz f) s (fun u =>
      (f.d ≠ 0 → u.strm.reg f.d =
        Claims.loaded (viewImg s ⟨s.turn.1, .a⟩ ⟨.sp s.turn.1, a.toNat / 64⟩) (a.toNat % 64) sz.bytes sz.signed) ∧
      (f.d ≠ f.a → Claims.BaseUpdated f sz.bytes (s.src f.a) u) ∧ u.writes = s.writes ∧ u.mem = s.mem ∧ u.cur.sp = s.cur.sp)

/-- A write, made through no RC page, that stores bytes into a VALID line, which keeps its tag, and, with zeros around them, under
tag 0x0000 into an UNINIT one (R60, R91, R233). -/
def Sys2Proof.Claims.StoresBytes (r : WriteRec) : Prop :=
  ∀ book i, (tagClass i.tag = 0 → (applyRec book i r).bits = mergeLine i.bits r.bits r.mask ∧ (applyRec book i r).tag = i.tag) ∧
    (tagClass i.tag = 1 → (applyRec book i r).bits = mergeLine 0 r.bits r.mask ∧ (applyRec book i r).tag = 0x0000)

/-- R233, R254: STS to an aligned address within the declared bytes, on a line that is VALID or UNINIT, outside the drain windows
of R325, adds one performed write of A to that line, after A's earlier writes, which perform: the low bytes of the data
operand, into a VALID line as it stands, and with zeros around them under tag 0x0000 into an UNINIT one. -/
def Sys2Proof.Claims.LocalStores : Prop :=
  ∀ sz f s a, Runs (.sts sz f) s → SourcesReady s [mSrcA f, mSrcB f] →
    a = Claims.address f sz.bytes (s.src f.a) 0 → a.toNat % sz.bytes = 0 → a.toNat + sz.bytes ≤ 0x400000 →
    a.toNat + sz.bytes ≤ s.cur.placeD.spBytes → s.Serving → Claims.NoAcquire s →
    tagClass (storeImg s s.turn.1 ⟨.sp s.turn.1, a.toNat / 64⟩).tag < 2 →
    Claims.Completes (.sts sz f) s (fun u => ∃ r, u.writes = partitionWrites ((performOwn s.turn.1 s).writes ++ [r]) ∧
      r.loc = ⟨.sp s.turn.1, a.toNat / 64⟩ ∧ r.writer = some ⟨s.turn.1, .a⟩ ∧ r.viewers = [⟨s.turn.1, .a⟩] ∧
      r.performed = true ∧ r.pub = none ∧
      lineBytes r.bits (a.toNat % 64) sz.bytes = (s.src f.b).toNat % 2 ^ (8 * sz.bytes) ∧
      r.mask = byteMask (a.toNat % 64) sz.bytes ∧ Claims.StoresBytes r ∧
      Claims.BaseUpdated f sz.bytes (s.src f.a) u ∧ u.mem = (performOwn s.turn.1 s).mem)

/-- R233: ST to an aligned address of a page that takes ordinary writes, on a line that is held exclusively and with its
credit at hand, adds one performed write of A: RAW data as its low bytes on a NORMAL page's line that is VALID or UNINIT,
and in every case the change that the merge of R91 gives, published when the ST is a release beyond core scope (R250). How typed
data meet a line that another write has changed, and data narrower than an element, is log 46 (DESIGN CHOICE); that every earlier
store and line of the path performs first is log 25 (DEDUCED). -/
def Sys2Proof.Claims.GlobalStores : Prop :=
  ∀ sz f s a x l line ch, Runs (.st sz f) s → SourcesReady s [mSrcA f, mSrcB f] →
    a = Claims.address f sz.bytes (s.src f.a) 0 → a.toNat % sz.bytes = 0 → Claims.Reaches s .write a.toNat x l →
    pteClass x.leaf < 2 → (∀ e, typedEntry s.cur f.b = some e → fmtOk e.tag = true) →
    Claims.NoAcquire s → creditFor s l ≤ s.cur.credit → l ∈ s.cur.excl →
    line = lineUnder (fillTlb s.turn.1 x s) s.turn.1 l →
    (match typedEntry s.cur f.b with
      | none => mergeRaw (pteClass x.leaf == 1) line (a.toNat % 64) sz.bytes (s.src f.b).toNat
      | some e => mergeTyped s.cur (pteClass x.leaf == 1) line (a.toNat % 64) sz.bytes e.tag e.bits) = .ok ch →
    Claims.Completes (.st sz f) s (fun u => ∃ r ∈ u.writes,
      r.loc = l ∧ r.writer = some ⟨s.turn.1, .a⟩ ∧ ⟨s.turn.1, .a⟩ ∈ r.viewers ∧ r.performed = true ∧ r.rel = mRel f ∧
      r.pub = (if mRel f = some .core then none else mRel f) ∧ (r.pub = none → r.viewers = [⟨s.turn.1, .a⟩]) ∧
      r.mask = ch.mask ∧ r.bits = ch.bits ∧ r.kind = ch.kind ∧ (l.space ≠ .host → r.tag = ch.tag) ∧
      (typedEntry s.cur f.b = none → pteClass x.leaf = 0 →
        lineBytes r.bits (a.toNat % 64) sz.bytes = (s.src f.b).toNat % 2 ^ (8 * sz.bytes) ∧
        r.mask = byteMask (a.toNat % 64) sz.bytes ∧ (l.space ≠ .host → Claims.StoresBytes r)) ∧
      Claims.BaseUpdated f sz.bytes (s.src f.a) u)

/-- R253: a path that has a performed write of its own in view reads that write's bytes where no later write of its view
covers them: a write added last, in no publication, lies over what the path read before. -/
def Sys2Proof.Claims.ReadOwnWrite : Prop :=
  ∀ (s : State) (r : WriteRec) (p : Party) (l : Loc), r.pub = none → r.ahead = [] →
    viewImg (addWrite r s) p l =
      (if r.loc = l ∧ p ∈ r.viewers then applyRec (writerBook s r) (imageOf { s with writes := partitionWrites s.writes } (fun r => decide (p ∈ r.viewers)) l) r
       else imageOf { s with writes := partitionWrites s.writes } (fun r => decide (p ∈ r.viewers)) l)

/-! ### Line streams, whole lines, copies, appends and seals (R229, R230, R235 to R246) -/

/-- One cached page of the current core holds every address of a list: its leaf allows the access, and each address has a
place that can be reached, outside the drain windows of R325 (R208, R209). -/
def Sys2Proof.Claims.OnePage (s : State) (acc : Acc) (x : Xlat) (as : List Nat) : Prop :=
  s.Serving ∧ leafCheck s (s.guestOf s.turn.1) acc x = .ok () ∧
  ∀ a ∈ as, a < 2 ^ 48 ∧ s.cur.tlb.find? (fun y => y.covers a) = some x ∧
    ∃ l, placeGpa s (s.guestOf s.turn.1) 1 (decide (acc = .write)) (x.gpaAt a) = .ok l ∧
      reachable s (s.guestOf s.turn.1) (x.gpaAt a) l = true

/-- COUNT and STRIDE of a stream descriptor (R229). -/
def Sys2Proof.Claims.count (d : Word) : Nat := d.toNat / 2 ^ 48
def Sys2Proof.Claims.stride (d : Word) : Int := Int.bmod (d.toNat % 2 ^ 48) (2 ^ 48)

/-- The address of line `i` of a strided stream (R236). -/
def Sys2Proof.Claims.lineAt (base d : Word) (i : Nat) : Nat := (BitVec.ofInt 64 (base.toNat + Claims.stride d * i) : Word).toNat

/-- Pin entries for `n` pages more are at hand (R210). -/
def Sys2Proof.Claims.PinsLeft (s : State) (n : Nat) : Prop :=
  s.cur.pinsUsed + (appendPins s s.turn.1).length + n ≤ 256

/-- A stream stands in the lowest free slot, behind the earlier streams, which keep their slots (R235). -/
def Sys2Proof.Claims.StartsIn (s u : State) (i : Nat) (x : StreamSlot) : Prop :=
  ∃ l, u.cur.slots = l ++ [(i, x)] ∧ l.map Prod.fst = s.cur.slots.map Prod.fst

/-- R235, R236: LDQ and LDSQ, with aligned base and stride, a COUNT above 0, lines within bounds, and a slot and pin entries
at hand, put a stream into the lowest free slot, behind the earlier streams; LDQ's one page, cached and readable, is
pinned. -/
def Sys2Proof.Claims.StridedStreams : Prop :=
  (∀ f s base d i x, Runs (.ldq f) s → SourcesReady s [mSrcA f, mSrcB f] → Claims.NoAcquire s →
    base = Claims.address f 64 (s.src f.a) 0 → d = s.src f.b → 0 < Claims.count d → base.toNat % 64 = 0 →
    Claims.stride d % 64 = 0 → freeSlot s.cur = some i → Claims.PinsLeft s 1 →
    Claims.OnePage s .read x ((List.range (Claims.count d)).map (Claims.lineAt base d)) →
    Claims.Completes (.ldq f) s (fun u =>
      Claims.StartsIn s u i ⟨f.d, 0, firstWord (.ldq f), base, BitVec.ofInt 64 (Claims.stride d),
        Claims.count d, 0, [], [x], mAcq f, []⟩ ∧
      Claims.BaseUpdated f 64 (s.src f.a) u ∧ u.cur.q = s.cur.q)) ∧
  (∀ f s base d i, Runs (.ldsq f) s → SourcesReady s [mSrcA f, mSrcB f] → Claims.NoAcquire s →
    base = Claims.address f 64 (s.src f.a) 0 → d = s.src f.b → 0 < Claims.count d → base.toNat % 64 = 0 →
    Claims.stride d % 64 = 0 → freeSlot s.cur = some i →
    (∀ j, j < Claims.count d → Claims.lineAt base d j + 64 ≤ 0x400000) →
    Claims.Completes (.ldsq f) s (fun u =>
      Claims.StartsIn s u i ⟨f.d, 2, firstWord (.ldsq f), base, BitVec.ofInt 64 (Claims.stride d),
        Claims.count d, 0, [], [], none, []⟩ ∧
      Claims.BaseUpdated f 64 (s.src f.a) u ∧ u.cur.q = s.cur.q))

/-- The 32-bit index `j` of an array at a GVA of a page, as A's view shows it (R236). -/
def Sys2Proof.Claims.index (s : State) (x : Xlat) (p j : Nat) : Nat :=
  (Claims.loaded (spanned x
    (viewImg s ⟨s.turn.1, .a⟩ ⟨.hbm, hpaOf (s.guest (s.guestOf s.turn.1)) (x.gpaAt (p + 4 * j)) / 64⟩))
    ((p + 4 * j) % 64) 4 false).toNat

/-- R236: LDQI reads its indices at issue and puts its stream, with them and the one page of device memory pinned, into the
lowest free slot. -/
def Sys2Proof.Claims.IndexedStreams : Prop :=
  ∀ f s base d i x p n, Runs (.ldqi f) s → SourcesReady s [mSrcA f, mSrcB f] → Claims.NoAcquire s →
    base = Claims.address f 64 (s.src f.a) 0 → d = s.src f.b → n = Claims.count d → p = d.toNat % 2 ^ 48 → 0 < n →
    base.toNat % 64 = 0 → p % 4 = 0 → freeSlot s.cur = some i → Claims.PinsLeft s 1 →
    (∀ r ∈ s.writes, r.apage = none) → pteClass x.leaf < 2 → x.gpa + x.size ≤ 2 ^ 46 →
    Claims.OnePage s .read x ((List.range n).map (fun j => p + 4 * j) ++
      (List.range n).map (fun j => (base + word (64 * Claims.index s x p j)).toNat)) →
    Claims.Completes (.ldqi f) s (fun u =>
      Claims.StartsIn s u i ⟨f.d, 1, firstWord (.ldqi f), base, word p, n, 0,
        (List.range n).map (Claims.index s x p), [x], mAcq f, []⟩ ∧
      Claims.BaseUpdated f 64 (s.src f.a) u)

/-- R235, R236: the oldest stream to a queue with a free entry, whose next line can be read, pushes that line; after its last
line its slot is free. A line that was read earlier, for the order of the path, is pushed as it was read (R254); a stream
of LDSQ otherwise pushes the line of the local scratchpad that A's view shows. -/
def Sys2Proof.Claims.StreamLines : Prop :=
  ∀ c slot s x e, tabFind (s.core c).slots slot = some x → (s.core c).mode = .run → ((s.core c).queue x.queue).length < 64 →
    (((s.core c).slotsOf x.queue).head?.map (fun e => e.1)) = some slot → slotReady s c slot x = true →
    e = (nextLine c slot x s).1 →
    ∃ t, exec (.streamSlotLine c slot) s = .next t ∧ (t.core c).queue x.queue = (s.core c).queue x.queue ++ [e] ∧
      (∀ e', tabFind x.got x.next = some e' → e = e') ∧
      (x.kind = 2 → tabFind x.got x.next = none →
        ⟨e.bits, e.tag, e.mark⟩ = viewImg s ⟨c, .a⟩ (spLoc c (x.addrAt x.next))) ∧
      (x.next + 1 < x.count → ∃ y, (slot, y) ∈ (t.core c).slots ∧
        y = { x with next := x.next + 1, got := x.got.filter (fun g => g.1 != x.next) }) ∧
      (x.count ≤ x.next + 1 → ∀ e ∈ (t.core c).slots, e.1 ≠ slot)

/-- R238: STSQ and STQ pop one entry and carry it whole, whatever its class: STSQ writes it to the local scratchpad, STQ hands
LineStore's line to the home, where it is written after retirement; an STQ that is a release carries what its path
has in view. An address that is no multiple of 64 traps ALIGN; an empty queue is waited for, or traps EMPTY_READ. -/
def Sys2Proof.Claims.QueueLines : Prop :=
  (∀ f s a e r, Runs (.stsq f) s → Quiet s → SourceReady s f.a → s.cur.queue f.b = e :: r →
    a = Claims.address f 64 (s.src f.a) 0 → a.toNat % 64 = 0 → a.toNat + 64 ≤ 0x400000 →
    a.toNat + 64 ≤ s.cur.placeD.spBytes → s.Serving → Claims.NoAcquire s →
    Claims.Completes (.stsq f) s (fun u => u.cur.queue f.b = r ∧ Claims.BaseUpdated f 64 (s.src f.a) u ∧
      u.mem = (performOwn s.turn.1 s).mem ∧
      ∃ w ∈ u.writes, w.loc = ⟨.sp s.turn.1, a.toNat / 64⟩ ∧ w.mask = BitVec.allOnes 64 ∧ w.bits = e.bits ∧
        w.tag = some e.tag ∧ w.mark = some e.mark ∧ w.performed = true ∧ w.pub = none ∧
        w.writer = some ⟨s.turn.1, .a⟩)) ∧
  (∀ f s a e r x l i, Runs (.stq f) s → Quiet s → SourceReady s f.a → s.cur.queue f.b = e :: r →
    a = Claims.address f 64 (s.src f.a) 0 → a.toNat % 64 = 0 → Claims.Reaches s .write a.toNat x l →
    pteClass x.leaf < 2 → lineStore s.cur x ⟨e.bits, e.tag, e.mark⟩ = .ok i → Claims.NoAcquire s →
    creditFor s l ≤ s.cur.credit →
    Claims.Completes (.stq f) s (fun u => u.cur.queue f.b = r ∧ Claims.BaseUpdated f 64 (s.src f.a) u ∧
      ∃ w ∈ u.writes, w.loc = l ∧ w.mask = BitVec.allOnes 64 ∧ w.bits = i.bits ∧
        w.tag = (if l.space = .host then none else some i.tag) ∧ w.performed = false ∧ w.pub = none ∧
        w.rel = mRel f ∧ w.writer = some ⟨s.turn.1, .a⟩ ∧
        ((mRel f).isSome = true → ∀ y ∈ s.writes, ⟨s.turn.1, .a⟩ ∈ y.viewers → y.id ∈ w.carries))) ∧
  (∀ (i : MForm → Instr) f s, i = .stsq ∨ i = .stq → Runs (i f) s →
    (∀ a e r, Quiet s → SourceReady s f.a → s.cur.queue f.b = e :: r → a = Claims.address f 64 (s.src f.a) 0 →
      a.toNat % 64 ≠ 0 → exec (i f) s = .next (takeTrap s.turn.1 s.turn.2 .align a s.strm.pc .instr s)) ∧
    (s.cur.srcEmpty s.turn.2 f.a = false → s.cur.queue f.b = [] → exec (i f) s = .next (
      if f.eb then takeTrap s.turn.1 s.turn.2 .emptyRead (word f.b.toNat) s.strm.pc .instr s
      else s.modStrm (fun st => { st with wait := some ⟨.queue f.b false, firstWord (i f)⟩ }))))

/-- R239, R240: PRF retires but for an empty source with E = 1, which traps EMPTY_READ, and changes no memory, no write and no
queue. QRESET discards the entries of its queue, cancels every stream that feeds it, in whichever slot it stands, and
releases the pins of those streams; the other queues and their streams stay. -/
def Sys2Proof.Claims.PrefetchAndReset : Prop :=
  (∀ f s, Runs (.prf f) s → SourcesReady s [mSrcA f, mSrcB f] →
    Claims.Completes (.prf f) s (fun u => Claims.BaseUpdated f 64 (s.src f.a) u ∧ u.mem = s.mem ∧ u.writes = s.writes ∧
      u.cur.q = s.cur.q)) ∧
  (∀ f s, Runs (.prf f) s →
    (f.ea = true → s.cur.srcEmpty s.turn.2 f.a = true →
      exec (.prf f) s = .next (takeTrap s.turn.1 s.turn.2 .emptyRead (word f.a.toNat) s.strm.pc .instr s)) ∧
    (f.ea = false ∨ s.cur.srcEmpty s.turn.2 f.a = false → f.eb = true → s.cur.srcEmpty s.turn.2 f.b = true →
      exec (.prf f) s = .next (takeTrap s.turn.1 s.turn.2 .emptyRead (word f.b.toNat) s.strm.pc .instr s))) ∧
  (∀ f s, Runs (.qreset f) s →
    Claims.Completes (.qreset f) s (fun u => u.cur.queue f.d = [] ∧
      (∀ c, queueNo c ≠ queueNo f.d → u.cur.queue c = s.cur.queue c) ∧
      (∀ e, e ∈ u.cur.slots ↔ e ∈ s.cur.slots ∧ e.2.queue ≠ f.d) ∧
      u.cur.pinsUsed + ((s.cur.slotsOf f.d).map (fun e => e.2.pins.length)).sum = s.cur.pinsUsed ∧
      u.cur.copy = s.cur.copy ∧ u.writes = s.writes ∧ u.mem = s.mem))

/-- R231: the home answers the request that a core has sent. R238, R245: a line in flight of a core's A path is written at
its home, outside the drain windows of R325. R218: the free-space manager grants the credit that a core waits for when the pool holds it, and refuses it
otherwise. -/
def Sys2Proof.Claims.HomeEvents : Prop :=
  (∀ c s l, (s.core c).ask = some (l, false) → ∃ t, exec (.homeAnswer c) s = .next t ∧
    (t.core c).ask = some (l, true) ∧ t = s.setCore c (t.core c)) ∧
  (∀ (i : Nat → Instr) n s c r, i = .stqHomeWrite ∨ i = .appendLineWrite → r ∈ s.writes → r.id = n → r.performed = false →
    r.writer = some ⟨c, .a⟩ → (∀ r' ∈ s.writes, r'.id = n → r' = r) → s.Serving →
    ∃ t, exec (i n) s = .next t ∧ (∃ r' ∈ t.writes, r'.id = n ∧ r'.loc = r.loc ∧ r'.bits = r.bits) ∧
      ∀ r' ∈ t.writes, r'.id = n → r'.performed = true) ∧
  (∀ c s n w, (s.core c).a.wait = some ⟨.credit n, w⟩ → (s.core c).credit ≤ n →
    (n - (s.core c).credit ≤ (s.guest (s.guestOf c)).pool - (s.guest (s.guestOf c)).capUsed →
      ∃ t, exec (.granuleCreditGrant c) s = .next t ∧ (t.core c).credit = n ∧
        (t.guest (s.guestOf c)).capUsed = (s.guest (s.guestOf c)).capUsed + (n - (s.core c).credit)) ∧
    ((s.guest (s.guestOf c)).pool - (s.guest (s.guestOf c)).capUsed < n - (s.core c).credit →
      ∃ t, exec (.granuleCreditGrant c) s = .next t ∧ (t.core c).a.creditRefused = true ∧ (t.core c).credit = (s.core c).credit))

/-- R245: an append whose page is APPEND, whose page-state word is neither malformed nor sealed and has room, whose source
lines the page takes, with its credit, and for several lines a pin entry, at hand and the home's answer come, writes the address of its first line to D; the
tail stands at that place plus COUNT, and COUNT lines are on their way to the page, each with the bytes that LineStore
gives. -/
def Sys2Proof.Claims.Appends : Prop :=
  ∀ (i : MForm → Instr) (rel : Bool) f s a d n src x l w t k is, (i = .apd ∧ rel = false) ∨ (i = .apdRel ∧ rel = true) →
    Runs (i f) s → SourcesReady s [mSrcA f, mSrcB f] → DestReady s f.d → f.d ≠ 0 → Claims.NoAcquire s →
    a = s.src f.a → d = s.src f.b → n = d.toNat / 2 ^ 48 → 0 < n → fld d 22 26 = 0 → src = d.toNat % 2 ^ 22 →
    src % 64 = 0 → src + 64 * n ≤ 0x400000 → Claims.Reaches s .write a.toNat x l → (1 < n → Claims.PinsLeft s 1) →
    pteClass x.leaf = 2 → pageState s (s.guestOf s.turn.1) x.gpa = .ok w → psMalformed w x.size = false →
    psSealing w = false → psSealed w = false → t = psTail w → t + n ≤ x.size / 64 →
    k = s.guestOf s.turn.1 → s.cur.ask = some (pageStateLoc s k x.gpa, true) → 4 * n ≤ s.cur.credit →
    (List.range n).mapM (fun j => lineStore s.cur x (viewImg s ⟨s.turn.1, .a⟩ (spLoc s.turn.1 (src + 64 * j)))) = .ok is →
    (∀ j, j < n → ∃ l, placeGpa s k 1 true (x.gpa + 64 * (t + j)) = .ok l) →
    Claims.Completes (i f) s (fun u => u.strm.reg f.d = word (x.gva + 64 * t) ∧ u.cur.ask = none ∧
      (∃ r ∈ u.writes, r.loc = pageStateLoc s k x.gpa ∧ r.pub = some .system ∧ r.performed = true ∧
        lineBytes r.bits (hpaOf (s.guest k) (pageStateGpa (s.guest k) x.gpa) % 64) 8 = t + n) ∧
      ∀ j img, is[j]? = some img → ∃ r ∈ u.writes, placeGpa s k 1 true (x.gpa + 64 * (t + j)) = .ok r.loc ∧
        r.bits = img.bits ∧ r.mask = BitVec.allOnes 64 ∧ r.performed = false ∧ r.apage = some x.gpa ∧
        r.rel = if rel then some .guest else none)

/-- R246: a SEAL of a page that shows SEALED retires; on an APPEND page with no append in flight, and no write pending on the
line of its page-state word, once the home has answered, the page-state word shows SEALED with its tail, and the SEAL
retires. -/
def Sys2Proof.Claims.Seals : Prop :=
  (∀ f s a x l w, Runs (.seal f) s → SourcesReady s [srcA f] → a = s.src f.a → Claims.Reaches s .free a.toNat x l →
    2 ≤ pteClass x.leaf → pageState s (s.guestOf s.turn.1) x.gpa = .ok w →
    psSealed w = true → (pteClass x.leaf = 2 → psMalformed w x.size = false) →
    Claims.Completes (.seal f) s (fun u => u.mem = s.mem ∧ u.cur.q = s.cur.q ∧
      pageState u (s.guestOf s.turn.1) x.gpa = .ok w)) ∧
  (∀ f s a x l w k, Runs (.seal f) s → SourcesReady s [srcA f] → a = s.src f.a → Claims.Reaches s .free a.toNat x l →
    pteClass x.leaf = 2 → k = s.guestOf s.turn.1 →
    pageState s k x.gpa = .ok w → psMalformed w x.size = false → psSealed w = false → psSealing w = false →
    s.cur.ask = some (pageStateLoc s k x.gpa, true) →
    (∀ r ∈ s.writes, r.apage ≠ some x.gpa ∧ (r.loc = pageStateLoc s k x.gpa → r.pub.isSome = true)) →
    Claims.Completes (.seal f) s (fun u => ∃ w', pageState u k x.gpa = .ok w' ∧ psSealed w' = true ∧ psTail w' = psTail w))

/-- One end of a copy: a range of `n` lines within its space; in global memory on one cached page that the access may reach,
below the bound of the guest, and, to be written, that takes ordinary writes; in a scratchpad, to be written, within the declared bytes (R230, R241). -/
def Sys2Proof.Claims.CopyEnd (s : State) (acc : Acc) (w : Word) (n : Nat) (x : Option Xlat) : Prop :=
  w.toNat % 64 = 0 ∧
  match copyPlace w with
  | some (.global a) => a + 64 * n ≤ 2 ^ 48 ∧ ∃ p, x = some p ∧ a + 64 * n ≤ p.gva + p.size ∧ Claims.OnePage s acc p [a] ∧
      (p.gpaAt a < 2 ^ 46 → p.gpaAt a + 64 * n ≤ (s.guest (s.guestOf s.turn.1)).bound * 65536) ∧
      (acc = .write → pteClass p.leaf < 2)
  | some (.own a) => x = none ∧ a + 64 * n ≤ 0x400000 ∧ (acc = .write → a + 64 * n ≤ s.cur.placeD.spBytes)
  | some (.cluster a) => x = none ∧ clusterOk s.cur a = true ∧ a % 2 ^ 22 + 64 * n ≤ 0x400000 ∧
      (acc = .write → a % 2 ^ 22 + 64 * n ≤ s.cur.placeD.spBytes)
  | none => False

/-- The command that a copy queues (R241). -/
def Sys2Proof.Claims.copyCmd (s : State) (src dst : Word) (n : Nat) (xs xd : Option Xlat) : CopyCmd :=
  ⟨src, dst, n, s.cur.copy.cnext + 1, s.strm.pc, (xs.toList ++ xd.toList).eraseDups⟩

/-- R241: CPY, with both ranges in order and the queue and the pin table with room, queues its command under the next CNEXT
value. -/
def Sys2Proof.Claims.CopyIssue : Prop :=
  ∀ f s xs xd n, Runs (.cpy f) s → SourcesReady s [⟨f.d, false⟩, srcA f, srcB f] → n = (s.src f.b).toNat → 0 < n →
    n < 2 ^ 30 → Claims.CopyEnd s .read (s.src f.a) n xs → Claims.CopyEnd s .write (s.src f.d) n xd →
    s.cur.copy.queue.length < 16 → s.cur.copy.frozen = none → Claims.PinsLeft s 2 → Claims.NoAcquire s →
    Claims.Completes (.cpy f) s (fun u => u.cur.copy.cnext = s.cur.copy.cnext + 1 ∧
      u.cur.copy.queue = s.cur.copy.queue ++ [Claims.copyCmd s (s.src f.a) (s.src f.d) n xs xd] ∧
      u.cur.copy.cseq = s.cur.copy.cseq ∧ u.writes = s.writes ∧ u.cur.sp = s.cur.sp)

/-- R242: the engine copies the next beat group of its head command. Between places of its own scratchpad the lines of the
group are written whole, each as its source line stood in the C path's view; the command completes with its last group,
when CSEQ covers it. -/
def Sys2Proof.Claims.CopyGroups : Prop :=
  (∀ c s cmd rest ts s', (s.core c).copy.queue = cmd :: rest → (s.core c).mode = .run → (s.core c).copy.halt = none →
    (s.core c).copy.frozen = none → groupPlan c cmd (s.core c).copy.prog s = .ok (ts, s') →
    ∃ t, exec (.copyBeatGroup c) s = .next t ∧
      (cmd.lines ≤ 64 * ((s.core c).copy.prog + 1) → (t.core c).copy.cseq = cmd.seqn ∧ (t.core c).copy.queue = rest ∧
        (t.core c).copy.prog = 0 ∧ (t.core c).a.evf = true ∧ (t.core c).x.evf = true) ∧
      (64 * ((s.core c).copy.prog + 1) < cmd.lines → (t.core c).copy.cseq = (s.core c).copy.cseq ∧
        (t.core c).copy.queue = cmd :: rest ∧ (t.core c).copy.prog = (s.core c).copy.prog + 1)) ∧
  (∀ c s cmd rest a b j, (s.core c).copy.queue = cmd :: rest → (s.core c).mode = .run → (s.core c).copy.halt = none →
    (s.core c).copy.frozen = none → copyPlace cmd.src = some (.own a) → copyPlace cmd.dst = some (.own b) →
    a + 64 * cmd.lines ≤ 0x400000 → b + 64 * cmd.lines ≤ 0x400000 →
    64 * (s.core c).copy.prog ≤ j → j < 64 * (s.core c).copy.prog + 64 → j < cmd.lines →
    ∃ t, exec (.copyBeatGroup c) s = .next t ∧ ∃ r ∈ t.writes, r.loc = spLoc c (b + 64 * j) ∧
      r.writer = some ⟨c, .c⟩ ∧ r.mask = BitVec.allOnes 64 ∧
      r.bits = (viewImg s ⟨c, .c⟩ (spLoc c (a + 64 * j))).bits ∧
      r.tag = some (viewImg s ⟨c, .c⟩ (spLoc c (a + 64 * j))).tag)

/-! ### The matrix engine (R187 to R199, R244) -/

/-- A product passes the checks of R189 at issue. -/
def Sys2Proof.Claims.ProductOk (s : State) (f : RForm) (gather ganged : Bool) (a b d : Word) : Prop :=
  tileNo f.d < s.cur.placeD.tiles ∧ descOk gather ganged d = true ∧ a.toNat % 64 = 0 ∧ a.toNat < 0x400000 ∧
    b.toNat % 64 = 0 ∧ b.toNat ≤ 0x1FFFFFF ∧
    (ganged = true → ∀ i ∈ partnerIdx s.cur d, partnerOk s i = true)

/-- The matrix queues that a product enters have room (R184, R189). -/
def Sys2Proof.Claims.ProductRoom (s : State) (ganged : Bool) (d : Word) : Prop :=
  if ganged then (partnerCores s d).Nodup ∧ ∀ p ∈ partnerCores s d, (s.core p).mat.queue.length < 8 ∧
    ((s.core p).bar (descBar d)).done < 65535
  else s.cur.mat.queue.length < 8

/-- A command of the current core under the next MNEXT value. -/
def Sys2Proof.Claims.command (s : State) (w a b d : Word) (after : Option Word) : MatCmd :=
  ⟨w, a, b, d, s.cur.mat.mnext + 1, none, after, latticeOf s, false, none, none, 0, false⟩

/-- A product is placed: in the core's own queue, or as one share at the end of every partner's (R184, R190). -/
def Sys2Proof.Claims.Placed (s u : State) (ganged : Bool) (m : MatCmd) : Prop :=
  u.cur.mat.mnext = s.cur.mat.mnext + 1 ∧
    (ganged = false → u.cur.mat.queue = s.cur.mat.queue ++ [m]) ∧
    (ganged = true → ∃ num, ∀ p ∈ partnerCores s m.cv,
      (u.core p).mat.queue = (s.core p).mat.queue ++ [{ m with share := some (num, s.cur.placeD.gidx0) }])

/-- R189, R190, R192, R193: a product that passes its checks, with room and no share fault held, is queued under the next
MNEXT value. -/
def Sys2Proof.Claims.ProductIssue : Prop :=
  ∀ (i : RForm → Instr) (gather ganged : Bool) f s,
    (i = .mma ∧ gather = false ∧ ganged = false) ∨ (i = .mmaG ∧ gather = true ∧ ganged = false) ∨
      (i = .mmag ∧ gather = false ∧ ganged = true) ∨ (i = .mmagG ∧ gather = true ∧ ganged = true) →
    Runs (i f) s → SourcesReady s [srcA f, srcB f, srcC f] →
    Claims.ProductOk s f gather ganged (s.src f.a) (s.src f.b) (s.src f.c) →
    Claims.ProductRoom s ganged (s.src f.c) → s.cur.shareHalt = none →
    Claims.Completes (i f) s (fun u =>
      Claims.Placed s u ganged (Claims.command s (firstWord (i f)) (s.src f.a) (s.src f.b) (s.src f.c) none) ∧
      u.cur.mat.acc = s.cur.mat.acc)

/-- R190, R191, R195: MZERO, MST, MLDACC and MADD queue their command under the next MNEXT value. -/
def Sys2Proof.Claims.SingleStepIssue : Prop :=
  (∀ f s, Runs (.mzero f) s → tileNo f.d < s.cur.placeD.tiles → s.cur.mat.queue.length < 8 → s.cur.shareHalt = none →
    Claims.Completes (.mzero f) s (fun u => Claims.Placed s u false (Claims.command s (firstWord (.mzero f)) 0 0 0 none))) ∧
  (∀ f s, Runs (.mst f) s → SourcesReady s [srcB f] → tileNo f.a < s.cur.placeD.tiles → (s.src f.b).toNat % 64 = 0 →
    (s.src f.b).toNat + 65536 ≤ 0x400000 → (s.src f.b).toNat + 65536 ≤ s.cur.placeD.spBytes →
    s.cur.mat.queue.length < 8 → s.cur.shareHalt = none →
    Claims.Completes (.mst f) s (fun u =>
      Claims.Placed s u false (Claims.command s (firstWord (.mst f)) 0 (s.src f.b) 0 none))) ∧
  (∀ f s, Runs (.mldacc f) s → SourcesReady s [srcA f] → tileNo f.d < s.cur.placeD.tiles → (s.src f.a).toNat % 64 = 0 →
    (s.src f.a).toNat + 65536 ≤ 0x400000 → s.cur.mat.queue.length < 8 → s.cur.shareHalt = none →
    Claims.Completes (.mldacc f) s (fun u =>
      Claims.Placed s u false (Claims.command s (firstWord (.mldacc f)) (s.src f.a) 0 0 none))) ∧
  (∀ f s, Runs (.madd f) s → tileNo f.d < s.cur.placeD.tiles → tileNo f.a < s.cur.placeD.tiles →
    tileNo f.b < s.cur.placeD.tiles → s.cur.mat.queue.length < 8 → s.cur.shareHalt = none →
    Claims.Completes (.madd f) s (fun u => Claims.Placed s u false (Claims.command s (firstWord (.madd f)) 0 0 0 none)))

/-- A core is listed in the state, in its place. -/
def Sys2Proof.Claims.Listed (s : State) (c : Nat) : Prop := tabPut s.cores c (s.core c) = s.cores

/-- R244: CPYM, with a sound second word, both ranges in order, a product that passes its checks and room in both queues,
queues the copy and the product, which waits for the copy's CNEXT value. -/
def Sys2Proof.Claims.ChainedCopy : Prop :=
  ∀ f s xs xd n r ganged, Runs (.cpym f) s → Claims.Listed s s.turn.1 → chainedOk f.imm64 = true → r = RForm.ofWord f.imm64 →
    ganged = (wordOp f.imm64 == 0xA2) → SourcesReady s [⟨f.d, false⟩, ⟨f.a, f.ea⟩] →
    SourcesReady s [srcA r, srcB r, srcC r] → n = f.imm.toNat → 0 < n → n < 2 ^ 30 →
    Claims.CopyEnd s .read (s.src f.a) n xs → Claims.CopyEnd s .write (s.src f.d) n xd →
    s.cur.copy.queue.length < 16 → s.cur.copy.frozen = none → Claims.PinsLeft s 2 → Claims.NoAcquire s →
    Claims.ProductOk s r (wordX f.imm64 == 1) ganged (s.src r.a) (s.src r.b) (s.src r.c) →
    Claims.ProductRoom s ganged (s.src r.c) → s.cur.shareHalt = none →
    Claims.Completes (.cpym f) s (fun u => u.cur.copy.cnext = s.cur.copy.cnext + 1 ∧
      u.cur.copy.queue = s.cur.copy.queue ++ [Claims.copyCmd s (s.src f.a) (s.src f.d) n xs xd] ∧
      Claims.Placed s u ganged
        (Claims.command s f.imm64 (s.src r.a) (s.src r.b) (s.src r.c) (some (s.cur.copy.cnext + 1))))

/-- R199: MWAIT retires when every command that the core issued has completed; MSTAT writes the engine's state, without a
wait: each of its fields, and zero in the reserved bits. -/
def Sys2Proof.Claims.MatrixStatus : Prop :=
  (∀ f s, Runs (.mwait f) s → s.cur.shareHalt = none → s.cur.mat.mseq = s.cur.mat.mnext →
    exec (.mwait f) s = .next (s.done (.mwait f) s)) ∧
  (∀ f s, Runs (.mstat f) s → DestReady s f.d →
    exec (.mstat f) s = .next (s.done (.mstat f) (s.wrote [] f.d (mstatWord s.cur)))) ∧
  (∀ k : Core, k.mat.queue.length ≤ 8 →
    bit (mstatWord k) 63 = k.mat.gdone ∧ bit (mstatWord k) 62 = k.mat.gstatus.getLsbD 7 ∧
    fld (mstatWord k) 56 6 = k.mat.gstatus.toNat % 64 ∧ fld (mstatWord k) 44 8 = 0 ∧
    fld (mstatWord k) 30 2 = 0 ∧ fld (mstatWord k) 24 6 = ((k.mat.halt.map (fun h => h.tile)).getD 0) % 64 ∧
    fld (mstatWord k) 12 12 = 0 ∧ bit (mstatWord k) 6 = false ∧
    fld (mstatWord k) 52 4 = k.mat.gbar.toNat ∧ fld (mstatWord k) 32 4 = k.mat.queue.length ∧
    fld (mstatWord k) 36 8 = ((k.mat.halt.map (fun h => h.cause.code)).getD 0) ∧
    fld (mstatWord k) 7 3 = k.units.munits ∧ fld (mstatWord k) 0 6 = k.mat.step.toNat ∧
    fld (mstatWord k) 10 2 = (match k.mat.halt with
      | none => 0
      | some h => if h.share = none then 1 else 2))

/-- Element `e` of a line, or of a segment, of elements of `lw` bits. -/
def Sys2Proof.Claims.lineElement (lw : Nat) (b : LineBits) (e : Nat) : Nat := b.toNat / 2 ^ (lw * e) % 2 ^ lw

/-- Element (r, j) of a tile, as 32 bits (R169, R195). -/
def Sys2Proof.Claims.tileElem (t : Tile) (r j : Nat) : Nat := (t.rows.getD r []).getD j 0

/-- The elements of a tile are listed in rising order, as the engine's sums leave them. -/
def Sys2Proof.Claims.RisingTile (t : Tile) : Prop := (t.elems.map Prod.fst).Pairwise (· < ·)

/-- R196, R372: a row of a tile as eight segments of 16 elements of 32 bits under 0x407F for a tile of kind INT32 and 0x087F for any
other; a poisoned granule gives zeros under the same tag as POISON. A K-step leaves the elements listed in order. -/
def Sys2Proof.Claims.RowSegments : Prop :=
  (∀ t r g, r < 128 → g < 8 → Claims.RisingTile t → ∃ x, (rowSegments t r)[g]? = some x ∧
    (8 * r + g ∈ t.poison → x = ⟨0, if t.kind = .int32 then 0x427F else 0x0A7F⟩) ∧
    (8 * r + g ∉ t.poison → x.tag = (if t.kind = .int32 then 0x407F else 0x087F) ∧
      ∀ j, j < 16 → Claims.lineElement 32 x.bits j = Claims.tileElem t r (16 * g + j))) ∧
  (∀ t r, (rowSegments t r).length = 8) ∧ (∀ o int t, Claims.RisingTile (kStep o int t).1)

/-- R196: MACC reads a row of a tile that no queued command names, marks D empty and sets VSTART to 0; when the row arrives,
segments 0 to 7 of D hold it and D is full. -/
def Sys2Proof.Claims.TileRows : Prop :=
  (∀ f s, Runs (.macc f) s → SourcesReady s [srcB f] → tileNo f.a < s.cur.placeD.tiles → (s.src f.b).toNat ≤ 127 →
    (s.cur.vreg f.d).empty = false → (∀ m ∈ s.cur.mat.queue, tileNo f.a ∉ m.tilesNamed) → s.cur.vec.w = 32 →
    Claims.Completes (.macc f) s (fun u => (u.cur.vreg f.d).empty = true ∧ u.cur.vec.vstart = 0 ∧
      u.cur.producers = s.cur.producers ++
        [.macc f.d.toNat (rowSegments (s.cur.tile (tileNo f.a)) (s.src f.b).toNat)] ∧ u.cur.mat = s.cur.mat)) ∧
  (∀ c n s reg segs, (s.core c).producers[n]? = some (.macc reg segs) → 0x40 ≤ reg → reg < 0x60 → segs.length = 8 →
    ∃ t, exec (.maccRowWrite c n) s = .next t ∧ t = s.setCore c (t.core c) ∧
      (t.core c).producers = (s.core c).producers.eraseIdx n ∧
      ((t.core c).vreg (BitVec.ofNat 8 reg)).empty = false ∧
      (∀ g, g < 8 → segs[g]? = some (((t.core c).vreg (BitVec.ofNat 8 reg)).seg g)) ∧
      512 ≤ ((t.core c).vreg (BitVec.ofNat 8 reg)).count)

/-- The engine may work on its head command `m0` (R193, R197, R244): `m` is that command as it runs, and `s0` the machine once
it has started (R182). -/
def Sys2Proof.Claims.EngineHead (s s0 : State) (c : Nat) (m m0 : MatCmd) : Prop :=
  (s.core c).mat.queue.head? = some m0 ∧ engineReady s c m0 = true ∧ m = { m0 with started := true } ∧ s0 = startCommand c m0 s

/-- A product before its next K-step, and the machine then: under `.g` it has read its index vector once (R170, R192). -/
def Sys2Proof.Claims.readied (s : State) (c : Nat) (m : MatCmd) (l : List Nat) : MatCmd × State :=
  if m.gather && m.index.isNone then ({ m with index := some l }, setHead c { m with index := some l } s) else (m, s)

/-- The product or the share at the head runs K-step STEP (R168, R170, R180, R192): a command `m` as it has read its index vector, in the
machine `s1`, begins at the lines `p`, and its operands `o` pass their checks; `int` says that the K-step is one of integers. -/
def Sys2Proof.Claims.StepReady (s s1 : State) (c : Nat) (m : MatCmd) (step : Nat) (p : Nat × Nat) (o : KOperands) (int : Bool) :
    Prop :=
  ∃ s0 m0 m1 l, Claims.EngineHead s s0 c m1 m0 ∧ m1.isMma = true ∧ step = (s0.core c).mat.step.toNat ∧
    step < descK m1.cv / 128 ∧ descK m1.cv ≤ 4096 ∧
    (m1.gather = true → m1.index = none → readIndexVector s0 c m1 step = .ok l) ∧ (m, s1) = Claims.readied s0 c m1 l ∧
    kPlace s1 c m step = .ok p ∧ kOperands s1 c { m with place := some p } step = .ok (o, int) ∧ unitOrder s1 c ≠ []

/-- MSEQ after the command of number `seqn` completes (R184, R190): where every number before it has completed, it covers that number and
those completed numbers that follow it; otherwise it stays, and the number is kept as completed. -/
def Sys2Proof.Claims.Covers (old new : MatrixEngine) (seqn : Word) : Prop :=
  (seqn = old.mseq + 1 → ∃ n, new.mseq = seqn + BitVec.ofNat 64 n ∧
    ∀ j, j < n → (seqn + BitVec.ofNat 64 (j + 1)).toNat ∈ old.done) ∧
  (seqn ≠ old.mseq + 1 → (old.mseq + 1).toNat ∉ old.done → new.mseq = old.mseq ∧ seqn.toNat ∈ new.done)

/-- R118, R168, R170, R179 to R184, R192: a K-step of a product, or of a share of a ganged one, whose operands pass their checks, its index vector read when the command
gathers, and in which no product fails its residue check twice, adds its sums to the tile whole and steps MPROG.STEP; the
command keeps its flags until the last K-step completes it, when they enter FSTAT as one and STEP is 0, or what was written
to it while the command ran (log 50), and MSEQ covers the command, or a share ends. A product that fails twice halts the engine with
MATRIX, with the tile and STEP as they were, and its unit is in quarantine from then on where no unit was out. A command with no
K-step left completes with its tile as it was. -/
def Sys2Proof.Claims.KSteps : Prop :=
  (∀ c s s1 m p o int step bad t1, Claims.StepReady s s1 c m step p o int → t1 = (s1.core c).tile m.tile →
    ((∀ n, n < productCount o.plain → bad.count n < 2) → ∃ t, exec (.matrixKStep c bad) s = .next t ∧
      (t.core c).tile m.tile = (kStep o int t1).1 ∧ (∀ n, n ≠ m.tile → (t.core c).tile n = (s1.core c).tile n) ∧
      (step + 1 < descK m.cv / 128 → (t.core c).mat.step = (s1.core c).mat.step + 1 ∧
        (t.core c).vec.fstat = (s.core c).vec.fstat ∧
        (t.core c).mat.queue = { m with flags := m.flags ||| (kStep o int t1).2
                                        place := some (nextPlace p m o) } :: (s.core c).mat.queue.drop 1) ∧
      (descK m.cv / 128 = step + 1 → (t.core c).mat.step = (s1.core c).mat.stepNext.getD 0 ∧
        (t.core c).mat.queue = (s.core c).mat.queue.drop 1 ∧
        (t.core c).vec.fstat = (s.core c).vec.fstat ||| (m.flags ||| (kStep o int t1).2) ∧
        (m.share = none → Claims.Covers (s1.core c).mat (t.core c).mat m.seqn) ∧
        (∀ num l p, m.share = some (num, l) → p = (s.core c).placeD → ∃ u,
          t = endShare (s.guestOf c) p.job num p.gidx0 p.gidx false u ∧ ∀ g, (u.guest g).gangs = (s.guest g).gangs))) ∧
    (∀ n, n < productCount o.plain → 2 ≤ bad.count n → (∀ j, j < n → bad.count j < 2) →
      ∃ t, exec (.matrixKStep c bad) s = .next t ∧ (t.core c).tile m.tile = t1 ∧
        (t.core c).mat.step = (s1.core c).mat.step ∧ (t.core c).mat.queue.length = (s.core c).mat.queue.length ∧
        ∃ h unit, (t.core c).mat.halt = some h ∧ h.cause = .matrix ∧ h.tile = m.tile ∧ h.tval = word (step * 256 + unit) ∧
          unit = (unitOrder s1 c).getD (((s1.core c).units.nextUnit + n) % (unitOrder s1 c).length) 0 ∧
          ((s1.core c).units.missing = none → (t.core c).units.quarantined = some unit ∧ (t.core c).units.munits = 6) ∧
          ((s1.core c).units.missing ≠ none → (t.core c).units.quarantined = (s1.core c).units.quarantined))) ∧
  (∀ c s s0 m m0 bad, Claims.EngineHead s s0 c m m0 → m.isMma = true →
    descK m.cv / 128 ≤ (s0.core c).mat.step.toNat → ∃ t, exec (.matrixKStep c bad) s = .next t ∧
      (t.core c).mat.acc = (s.core c).mat.acc ∧ (t.core c).mat.queue = (s.core c).mat.queue.drop 1 ∧
      (t.core c).mat.step = (s0.core c).mat.stepNext.getD 0)

/-- Row `r` of A, or column `r` of B, of a K-step at place k: the decoded element, with the SCALE of its line (R171). -/
def Sys2Proof.Claims.operand (x : List (List (Val × Nat))) (r k : Nat) : Val × Nat := (x.getD r []).getD k (.zero false, 0)

/-- R167, R168, R170, R171: the operands of a K-step that pass their checks: 128 rows of A and 128 columns of B of 128 elements
each, decoded exactly. Element k of row r stands in line ⌊k·W/512⌋ · height + row of r after the first line of the K-step, W
being the width of the one format of the operand; a lattice entry that marks integers makes the K-step one of integers. -/
def Sys2Proof.Claims.StepOperands : Prop :=
  ∀ s c m step p o int, kOperands s c { m with place := some p } step = .ok (o, int) →
    int = leMi (latticeEntry m.lattice o.fa o.fb) ∧
    o.a.length = 128 ∧ (∀ r ∈ o.a, r.length = 128) ∧ o.b.length = 128 ∧ (∀ r ∈ o.b, r.length = 128) ∧
    (∀ r k x, r < 128 → k < 128 →
      x = opLine s c (operandA c m) (p.1 + k * fmtWidth o.fa / 512 * m.height + m.row r) →
      tagFmt x.img.tag = o.fa ∧ tagClass x.img.tag = 0 ∧ x.ok = true ∧
      Claims.operand o.a r k = (decodeElem (bookOf (s.core c)) (slotOf (fmtWidth o.fa) x.img.bits (k % (512 / fmtWidth o.fa)))
        x.img.tag false, tagScale x.img.tag)) ∧
    (∀ r k x, r < 128 → k < 128 → x = opLine s c (operandB s c m) (p.2 + k * fmtWidth o.fb / 512 * 128 + r) →
      tagFmt x.img.tag = o.fb ∧ tagClass x.img.tag = 0 ∧ x.ok = true ∧
      Claims.operand o.b r k = (decodeElem (bookOf (s.core c)) (slotOf (fmtWidth o.fb) x.img.bits (k % (512 / fmtWidth o.fb)))
        x.img.tag false, if o.fb = 9 then 127 else tagScale x.img.tag))

/-- F(x), as a value and as the 32 bits that a tile holds (R171). -/
def Sys2Proof.Claims.single (x : Val) : Val := decodeFloat 1 (roundTo x 1 127 .rne false).1 false
def Sys2Proof.Claims.singleBits (x : Val) : Nat := (roundTo (Claims.single x) 1 127 .rne false).1

/-- A finite value in units of 2^e, for an e not above its own exponent. -/
def Sys2Proof.Claims.units (e : Int) : Val → Option Int
  | .fin neg m x => if e ≤ x then some ((if neg then -1 else 1) * (m * 2 ^ (x - e).toNat)) else none
  | _ => none

/-- A finite value as a multiple of 2^q; a zero is a multiple of every power. -/
def Sys2Proof.Claims.scaled (q : Int) (v : Val) : Option Int := if v.isZero then some 0 else Claims.units q v

/-- The exact sum of products (R171, R172): NaN where a product is NaN or infinities of both signs meet, an infinity where one
stands, and else the sum of the finite products; a sum of 0 is −0 only where every product is negative. -/
def Sys2Proof.Claims.ExactSum (ps : List Val) (v : Val) : Prop :=
  if (∃ p ∈ ps, p.isNan = true) ∨ (.inf true ∈ ps ∧ .inf false ∈ ps) then v.isNan = true
  else if .inf true ∈ ps then v = .inf true
  else if .inf false ∈ ps then v = .inf false
  else ∃ q xs, ps.mapM (Claims.scaled q) = some xs ∧
    v = if xs.sum = 0 then .zero (ps.all Val.neg) else .fin (decide (xs.sum < 0)) xs.sum.natAbs q

/-- The exact sum of the 64 products of two rows of values (R172). -/
def Sys2Proof.Claims.DotIs (x y : Nat → Val) (v : Val) : Prop :=
  Claims.ExactSum ((List.range 64).map (fun k => (valMul (x k) (y k)).1)) v

/-- G(x ± y) of two scaled elements in a guard format (R173): the exact sum or difference rounded, under the greater SCALE. -/
def Sys2Proof.Claims.pre (g : Guard) (sub : Bool) (x y : Val × Nat) : Val × Nat :=
  ((roundGuard g (Nat.max x.2 y.2) ((if sub then valSub else valAdd) .rne x.1 y.1)).1, Nat.max x.2 y.2)

/-- F(x + y) and F(x − y) (R171). -/
def Sys2Proof.Claims.fAdd (x y : Val) : Val := Claims.single (valAdd .rne x y).1
def Sys2Proof.Claims.fSub (x y : Val) : Val := Claims.single (valSub .rne x y).1

/-- R169: an integer K-step, in both orders, adds the sum of the 128 products to each element, modulo 2^32. R172: a Plain K-step
adds to each element chunk 0 and then chunk 1, each an exact sum rounded once, each addition rounded. The tile takes the
kind INT32 or FP32. -/
def Sys2Proof.Claims.IntegerAndPlainSums : Prop :=
  ∀ (o : KOperands) (t : Tile) (r j : Nat), o.a.length = 128 → (∀ x ∈ o.a, x.length = 128) → o.b.length = 128 →
    (∀ x ∈ o.b, x.length = 128) → r < 128 → j < 128 →
    ((kStep o true t).1.kind = .int32 ∧ (kStep o true t).1.poison = t.poison ∧ (kStep o true t).2 = 0 ∧
      Claims.tileElem (kStep o true t).1 r j = (((Claims.tileElem t r j : Int) + ((List.range 128).map (fun k =>
        (Claims.operand o.a r k).1.toInt * (Claims.operand o.b j k).1.toInt)).sum) % 2 ^ 32).toNat) ∧
    (o.plain = true → (kStep o false t).1.kind = .fp32 ∧ (kStep o false t).1.poison = t.poison ∧ ∃ v0 v1,
      Claims.DotIs (fun k => (Claims.operand o.a r k).1) (fun k => (Claims.operand o.b j k).1) v0 ∧
      Claims.DotIs (fun k => (Claims.operand o.a r (64 + k)).1) (fun k => (Claims.operand o.b j (64 + k)).1) v1 ∧
      Claims.tileElem (kStep o false t).1 r j = Claims.singleBits (valAdd .rne
        (Claims.fAdd (decodeFloat 1 (Claims.tileElem t r j) false) (Claims.single v0)) (Claims.single v1)).1)

/-- R173, R174: a Twill K-step adds to the elements (r, j), (r, j + 64), (r + 64, j) and (r + 64, j + 64) what the sequence of
R174 gives of the seven block products, whose inputs are the blocks of A and B and the pre-sums S and T. -/
def Sys2Proof.Claims.TwillSums : Prop :=
  ∀ (o : KOperands) (t : Tile) (r j : Nat) (a11 a12 a21 a22 b11 b12 b21 b22 : Nat → Val × Nat), o.plain = false →
    o.a.length = 128 → (∀ x ∈ o.a, x.length = 128) → o.b.length = 128 → (∀ x ∈ o.b, x.length = 128) → r < 64 → j < 64 →
    a11 = Claims.operand o.a r → a21 = Claims.operand o.a (64 + r) → (∀ k, a12 k = Claims.operand o.a r (64 + k)) →
    (∀ k, a22 k = Claims.operand o.a (64 + r) (64 + k)) →
    b11 = Claims.operand o.b j → b12 = Claims.operand o.b (64 + j) → (∀ k, b21 k = Claims.operand o.b j (64 + k)) →
    (∀ k, b22 k = Claims.operand o.b (64 + j) (64 + k)) →
    let ga := guardOf o.fa
    let gb := guardOf o.fb
    let s1 := fun k => Claims.pre ga false (a21 k) (a22 k)
    let s2 := fun k => Claims.pre ga true (s1 k) (a11 k)
    let s3 := fun k => Claims.pre ga true (a11 k) (a21 k)
    let s4 := fun k => Claims.pre ga true (a12 k) (s2 k)
    let t1 := fun k => Claims.pre gb true (b12 k) (b11 k)
    let t2 := fun k => Claims.pre gb true (b22 k) (t1 k)
    let t3 := fun k => Claims.pre gb true (b22 k) (b12 k)
    let t4 := fun k => Claims.pre gb true (t2 k) (b21 k)
    let old := fun (r j : Nat) => decodeFloat 1 (Claims.tileElem t r j) false
    let new := Claims.tileElem (kStep o false t).1
    (kStep o false t).1.kind = .fp32 ∧ ∃ v1 v2 v3 v4 v5 v6 v7,
      Claims.DotIs (fun k => (a11 k).1) (fun k => (b11 k).1) v1 ∧ Claims.DotIs (fun k => (a12 k).1) (fun k => (b21 k).1) v2 ∧
      Claims.DotIs (fun k => (s4 k).1) (fun k => (b22 k).1) v3 ∧ Claims.DotIs (fun k => (a22 k).1) (fun k => (t4 k).1) v4 ∧
      Claims.DotIs (fun k => (s1 k).1) (fun k => (t1 k).1) v5 ∧ Claims.DotIs (fun k => (s2 k).1) (fun k => (t2 k).1) v6 ∧
      Claims.DotIs (fun k => (s3 k).1) (fun k => (t3 k).1) v7 ∧
      let p := Claims.single
      let u1 := Claims.fAdd (p v1) (p v2)
      let u2 := Claims.fAdd (p v1) (p v6)
      let u3 := Claims.fAdd u2 (p v7)
      let u4 := Claims.fAdd u2 (p v5)
      new r j = Claims.singleBits (valAdd .rne (old r j) u1).1 ∧
      new r (64 + j) = Claims.singleBits (valAdd .rne (old r (64 + j)) (Claims.fAdd u4 (p v3))).1 ∧
      new (64 + r) j = Claims.singleBits (valAdd .rne (old (64 + r) j) (Claims.fSub u3 (p v4))).1 ∧
      new (64 + r) (64 + j) = Claims.singleBits (valAdd .rne (old (64 + r) (64 + j)) (Claims.fAdd u3 (p v5))).1

/-- A value is infinite or NaN. -/
def Sys2Proof.Claims.special (v : Val) : Bool := !Claims.isFin v

/-- The flags of a sum or difference rounded to FP32, and of a pre-sum (R171, R173). -/
def Sys2Proof.Claims.sumFlags (sub : Bool) (x y : Val) : BitVec 6 :=
  ((if sub then valSub else valAdd) .rne x y).2 ||| (roundTo ((if sub then valSub else valAdd) .rne x y).1 1 127 .rne false).2
def Sys2Proof.Claims.preFlags (g : Guard) (sub : Bool) (x y : Val × Nat) : BitVec 6 :=
  (roundGuard g (Nat.max x.2 y.2) ((if sub then valSub else valAdd) .rne x.1 y.1)).2

/-- The flags of a block product of 64 products whose exact sum is `v` (R171, R172): those of its products, NV where infinities of both
signs meet, and those of the one rounding. -/
def Sys2Proof.Claims.ProductFlag (x y : Nat → Val) (v : Val) (b : Nat) : Prop :=
  (∃ k, k < 64 ∧ (valMul (x k) (y k)).2.getLsbD b = true) ∨
  (b = 0 ∧ (∃ k, k < 64 ∧ (valMul (x k) (y k)).1 = .inf true) ∧ ∃ k, k < 64 ∧ (valMul (x k) (y k)).1 = .inf false) ∨
  (roundTo v 1 127 .rne false).2.getLsbD b = true

/-- The pre-sums of row `r` of the blocks of A and of column `j` of those of B at place `k` (R174): which are differences, and of what. -/
def Sys2Proof.Claims.preA (o : KOperands) (r k : Nat) : List (Bool × (Val × Nat) × (Val × Nat)) :=
  let a := fun (lower right : Bool) => Claims.operand o.a (if lower then 64 + r else r) (if right then 64 + k else k)
  let s1 := Claims.pre (guardOf o.fa) false (a true false) (a true true)
  let s2 := Claims.pre (guardOf o.fa) true s1 (a false false)
  [(false, a true false, a true true), (true, s1, a false false), (true, a false false, a true false), (true, a false true, s2)]
def Sys2Proof.Claims.preB (o : KOperands) (j k : Nat) : List (Bool × (Val × Nat) × (Val × Nat)) :=
  let b := fun (lower right : Bool) => Claims.operand o.b (if right then 64 + j else j) (if lower then 64 + k else k)
  let t1 := Claims.pre (guardOf o.fb) true (b false true) (b false false)
  let t2 := Claims.pre (guardOf o.fb) true (b true true) t1
  [(true, b false true, b false false), (true, b true true, t1), (true, b true true, b false true), (true, t2, b true false)]

/-- The value of pre-sum `n` (from 0) of A's row, or of B's column. -/
def Sys2Proof.Claims.preSum (g : Guard) (l : List (Bool × (Val × Nat) × (Val × Nat))) (n : Nat) : Val :=
  (l[n]?.map (fun e => (Claims.pre g e.1 e.2.1 e.2.2).1)).getD (.zero false)

/-- The factors of the seven block products of R174, P1 as 0 to P7 as 6, at row `r` and column `j`. -/
def Sys2Proof.Claims.factors (o : KOperands) (r j n : Nat) : (Nat → Val) × (Nat → Val) :=
  let s := fun i k => Claims.preSum (guardOf o.fa) (Claims.preA o r k) i
  let t := fun i k => Claims.preSum (guardOf o.fb) (Claims.preB o j k) i
  let a := fun (lower right : Bool) k => (Claims.operand o.a (if lower then 64 + r else r) (if right then 64 + k else k)).1
  let b := fun (lower right : Bool) k => (Claims.operand o.b (if right then 64 + j else j) (if lower then 64 + k else k)).1
  [(a false false, b false false), (a false true, b true false), (s 3, b true true), (a true true, t 3), (s 0, t 0), (s 1, t 1),
    (s 2, t 2)].getD n (fun _ => .zero false, fun _ => .zero false)

/-- The post-sums U1 to U7 of seven exact block products `v` (R174): which are differences, and of what. -/
def Sys2Proof.Claims.posts (v : Nat → Val) : List (Bool × Val × Val) :=
  let p := fun n => Claims.single (v n)
  let u2 := Claims.fAdd (p 0) (p 5)
  let u3 := Claims.fAdd u2 (p 6)
  let u4 := Claims.fAdd u2 (p 4)
  [(false, p 0, p 1), (false, p 0, p 5), (false, u2, p 6), (false, u2, p 4), (false, u4, p 2), (true, u3, p 3), (false, u3, p 4)]
def Sys2Proof.Claims.post (e : Bool × Val × Val) : Val := if e.1 then Claims.fSub e.2.1 e.2.2 else Claims.fAdd e.2.1 e.2.2

/-- The four tile elements that a Twill K-step changes at (r, j), each with the post-sum that it takes (R174): U1, U5, U6 and U7. -/
def Sys2Proof.Claims.finals (t : Tile) (r j : Nat) (v : Nat → Val) : List (Val × Val) :=
  [(r, j, 0), (r, 64 + j, 4), (64 + r, j, 5), (64 + r, 64 + j, 6)].map (fun e =>
    (decodeFloat 1 (Claims.tileElem t e.1 e.2.1) false, ((Claims.posts v)[e.2.2]?.map Claims.post).getD (.zero false)))

/-- R67, R169, R171 to R175: the flags of a K-step. Those of a Plain one are the flags of its block products and of its additions; those
of a Twill one, of its pre-sums, block products, post-sums and additions, and TW where an input element, a pre-sum, a block product or
a post-sum is infinite or NaN. -/
def Sys2Proof.Claims.StepFlags : Prop :=
  ∀ (o : KOperands) (t : Tile) (b : Nat), o.a.length = 128 → (∀ x ∈ o.a, x.length = 128) → o.b.length = 128 →
    (∀ x ∈ o.b, x.length = 128) → b < 6 →
    (o.plain = true → ((kStep o false t).2.getLsbD b = true ↔ ∃ r j v0 v1, r < 128 ∧ j < 128 ∧
      let x := fun h k => (Claims.operand o.a r (64 * h + k)).1
      let y := fun h k => (Claims.operand o.b j (64 * h + k)).1
      let old := decodeFloat 1 (Claims.tileElem t r j) false
      Claims.DotIs (x 0) (y 0) v0 ∧ Claims.DotIs (x 1) (y 1) v1 ∧
        (Claims.ProductFlag (x 0) (y 0) v0 b ∨ Claims.ProductFlag (x 1) (y 1) v1 b ∨
          (Claims.sumFlags false old (Claims.single v0)).getLsbD b = true ∨
          (Claims.sumFlags false (Claims.fAdd old (Claims.single v0)) (Claims.single v1)).getLsbD b = true))) ∧
    (o.plain = false → ((kStep o false t).2.getLsbD b = true ↔
      (b = 5 ∧ ((∃ r k, r < 128 ∧ k < 128 ∧
          (Claims.special (Claims.operand o.a r k).1 = true ∨ Claims.special (Claims.operand o.b r k).1 = true)) ∨
        (∃ r k n, r < 64 ∧ k < 64 ∧ n < 4 ∧ (Claims.special (Claims.preSum (guardOf o.fa) (Claims.preA o r k) n) = true ∨
          Claims.special (Claims.preSum (guardOf o.fb) (Claims.preB o r k) n) = true)) ∨
        ∃ r j v, r < 64 ∧ j < 64 ∧ (∀ n, n < 7 → Claims.DotIs (Claims.factors o r j n).1 (Claims.factors o r j n).2 (v n)) ∧
          ((∃ n, n < 7 ∧ Claims.special (Claims.single (v n)) = true) ∨
            ∃ e ∈ Claims.posts v, Claims.special (Claims.post e) = true))) ∨
      (∃ r k, r < 64 ∧ k < 64 ∧ ((∃ e ∈ Claims.preA o r k, (Claims.preFlags (guardOf o.fa) e.1 e.2.1 e.2.2).getLsbD b = true) ∨
        ∃ e ∈ Claims.preB o r k, (Claims.preFlags (guardOf o.fb) e.1 e.2.1 e.2.2).getLsbD b = true)) ∨
      ∃ r j v, r < 64 ∧ j < 64 ∧ (∀ n, n < 7 → Claims.DotIs (Claims.factors o r j n).1 (Claims.factors o r j n).2 (v n)) ∧
        ((∃ n, n < 7 ∧ Claims.ProductFlag (Claims.factors o r j n).1 (Claims.factors o r j n).2 (v n) b) ∨
          (∃ e ∈ Claims.posts v, (Claims.sumFlags e.1 e.2.1 e.2.2).getLsbD b = true) ∨
          ∃ e ∈ Claims.finals t r j v, (Claims.sumFlags false e.1 e.2).getLsbD b = true)))

/-- R173: a pre-sum's exact value `x` under the SCALE k as a guard number: rounded with RNE and subnormals kept, an infinity with OF and
NX beyond the greatest finite guard number, NX when inexact, and UF when it was below the smallest normal one too. -/
def Sys2Proof.Claims.GuardRounding : Prop :=
  ∀ (f : Nat) (g : Guard) (k : Nat) (neg : Bool) (m : Nat) (e : Int) (fl : BitVec 6) (out : Val × BitVec 6), g = guardOf f → m ≠ 0 →
    out = roundGuard g k (.fin neg m e, fl) →
    let mag := Claims.magnitude (g.p - 1) g.emin
    let unit := (2 : Rat) ^ ((k : Int) - 127)
    let x := (m : Rat) * (2 : Rat) ^ e
    let big := (g.emax - g.emin + 2).toNat * 2 ^ (g.p - 1) - 1
    ∃ n, Claims.RoundsOn mag (fun c => c * unit < x) (fun c => c * unit = x) neg .rne n ∧
      (big < n → out = (.inf neg, fl ||| 0x0A)) ∧
      (n ≤ big → out.1.neg = neg ∧ Claims.isFin out.1 = true ∧ Claims.real out.1 = (if neg then -1 else 1) * mag n * unit ∧
        (mag n * unit = x → out.2 = fl) ∧
        (mag n * unit ≠ x → out.2 = fl ||| (if x < mag (2 ^ (g.p - 1)) * unit then 0x0C else 0x08)))

/-- R173: the guard formats of the operand formats: significand bits, emax and emin. -/
def Sys2Proof.Claims.GuardFormats : Prop :=
  Claims.GuardRounding ∧
  (∀ f, f = 2 ∨ f = 7 ∨ f = 9 → guardOf f = ⟨11, 382, -127⟩) ∧ guardOf 3 = ⟨14, 46, -15⟩ ∧ guardOf 4 = ⟨7, 22, -7⟩ ∧
    guardOf 5 = ⟨6, 46, -15⟩ ∧ guardOf 6 = ⟨5, 4, -1⟩

/-- A single-step command has completed (R181, R182, R190): it leaves the queue, STEP is 0, or what was written to it while the
command ran (log 50), MSEQ covers the command, and no other tile has changed. -/
def Sys2Proof.Claims.Finished (s0 t : State) (c d : Nat) (m : MatCmd) : Prop :=
  (t.core c).mat.queue = (s0.core c).mat.queue.drop 1 ∧ (t.core c).mat.step = (s0.core c).mat.stepNext.getD 0 ∧
    Claims.Covers (s0.core c).mat (t.core c).mat m.seqn ∧
    ∀ n, n ≠ d → (t.core c).tile n = (s0.core c).tile n

/-- A ganged completion of barrier `b` with a status has reached a member (R184, R194, R199, R290). -/
def Sys2Proof.Claims.Signalled (k k' : Core) (b : Nat) (st : BitVec 8) : Prop :=
  (k'.bar b).done = (k.bar b).done + 1 ∧
    (k'.bar b).stat = (if st.getLsbD 7 = false ∨ ((k.bar b).stat.getLsbD 7 = true ∧ (k.bar b).stat.toNat ≤ st.toNat)
      then (k.bar b).stat else st) ∧
    (∀ n, n ≠ b → k'.bar n = k.bar n) ∧ k'.mat.gdone = true ∧ k'.mat.gstatus = st ∧ k'.mat.gbar.toNat = b % 16 ∧
    k'.a.evf = true ∧ k'.x.evf = true

/-- What the end of the last share of a ganged product does in a member of its gang, by its index at placement (R184, R194). -/
def Sys2Proof.Claims.Completed (z : Ganged) (st : BitVec 8) (i : Nat) (k k' : Core) : Prop :=
  (i ∈ z.partners → Claims.Signalled k k' z.bar st) ∧ (i = z.leader → Claims.Covers k.mat k'.mat z.seqn)

/-- R184, R194, R290: while another share of a ganged product runs, the end of one changes no member. With the last, the barrier is
signalled once in every partner, on a core or saved, with the status of the product, and the leader's MSEQ covers it. -/
def Sys2Proof.Claims.ShareEnds : Prop :=
  ∀ s g j num partner idx faulted y z (fs : List Nat) (st : BitVec 8) t, t = endShare g j num partner idx faulted s →
    gangOf (s.guest g) j = some y → y.ganged.find? (fun z => decide (z.num = num)) = some z → (s.cores.map Prod.fst).Nodup →
    (∀ i, i ∈ fs ↔ i ∈ z.faulted ∨ (faulted = true ∧ i = idx)) → (fs = [] → st = 0) →
    (∀ i ∈ fs, (∀ k ∈ fs, i ≤ k) → st = BitVec.ofNat 8 (0x80 + i)) →
    ((∃ p ∈ z.running, p ≠ partner) → t.cores = s.cores ∧ (t.guest g).drained = (s.guest g).drained) ∧
    ((∀ p ∈ z.running, p = partner) →
      (∀ c p, (s.core c).guest = some g → (s.core c).place = some p → p.job = j →
        Claims.Completed z st p.gidx0 (s.core c) (t.core c)) ∧
      (∀ d ∈ (s.guest g).drained, d.job = j → ∀ m ∈ d.members, ∃ d' ∈ (t.guest g).drained, d'.job = j ∧ ∃ m' ∈ d'.members,
        m'.idx = m.idx ∧ m'.park = m.park ∧ Claims.Completed z st m.idx m.core m'.core))

/-- The lines that MLDACC reads pass its checks (R195): VALID, of format FP32 or INT32 as line 0 is, under SCALE 127 and without
a span mark. -/
def Sys2Proof.Claims.TileLines (line : Nat → LineImg) : Prop :=
  ∀ n, n < 1024 → tagClass (line n).tag = 0 ∧ (tagFmt (line n).tag = 1 ∨ tagFmt (line n).tag = 8) ∧
    tagScale (line n).tag = 127 ∧ (line n).mark = false ∧ tagFmt (line n).tag = tagFmt (line 0).tag

/-- R182, R190, R191, R195, R372: the single-step commands at the head of the engine, with STEP 0: MZERO makes its tile zero of
kind NONE; MST writes the 1,024 lines of its tile; MLDACC gives its tile the bits of lines that pass its checks, in the kind
of their format; MADD gives D the sums of the elements of A and B, modulo 2^32 or rounded to FP32, where both are of one
kind or one of kind NONE, with its flags, and with the poison of A, B and D. Each completes. With STEP not 0 each completes
and changes no tile and no line. -/
def Sys2Proof.Claims.SingleSteps : Prop :=
  (∀ c s s0 m m0 d, Claims.EngineHead s s0 c m m0 → (s0.core c).mat.step = 0 → m.share = none → d = tileNo m.form.d →
    (m.op = 0xA0 → ∃ t, exec (.engineMzero c) s = .next t ∧ (t.core c).tile d = ⟨.none, [], []⟩ ∧
      Claims.Finished s0 t c d m) ∧
    (m.op = 0xA3 → ∃ t, exec (.engineMst c) s = .next t ∧ (t.core c).mat.acc = (s0.core c).mat.acc ∧
      Claims.Finished s0 t c 256 m ∧
      ∀ n tile, n < 1024 → tile = (s0.core c).tile (tileNo m.form.a) → ∃ r ∈ t.writes,
        r.loc = spLoc c (m.bv.toNat + 64 * n) ∧ r.writer = some ⟨c, .m⟩ ∧ r.mask = BitVec.allOnes 64 ∧ r.mark = some false ∧
        (n ∈ tile.poison → r.bits = 0 ∧ r.tag = some (if tile.kind = .int32 then 0x427F else 0x0A7F)) ∧
        (n ∉ tile.poison → r.tag = some (if tile.kind = .int32 then 0x407F else 0x087F) ∧
          ∀ i, i < 16 → Claims.lineElement 32 r.bits i = Claims.tileElem tile (n / 8) (16 * (n % 8) + i) % 2 ^ 32)) ∧
    (m.op = 0xA4 → ∀ line, (∀ n, line n = viewImg s0 ⟨c, .m⟩ (spLoc c (m.av.toNat + 64 * n))) → Claims.TileLines line →
      ∃ t, exec (.engineMldacc c) s = .next t ∧ Claims.Finished s0 t c d m ∧ ((t.core c).tile d).poison = [] ∧
        ((t.core c).tile d).kind = (if tagFmt (line 0).tag = 8 then .int32 else .fp32) ∧
        ∀ r j, r < 128 → j < 128 → Claims.tileElem ((t.core c).tile d) r j =
          Claims.lineElement 32 (line (8 * r + j / 16)).bits (j % 16)) ∧
    (m.op = 0xA6 → ∀ ta tb td kind, ta = (s0.core c).tile (tileNo m.form.a) → tb = (s0.core c).tile (tileNo m.form.b) →
      td = (s0.core c).tile d → kind = (if ta.kind = .none then tb.kind else ta.kind) →
      ta.kind = .none ∨ tb.kind = .none ∨ ta.kind = tb.kind → ∃ t, exec (.engineMadd c) s = .next t ∧
      Claims.Finished s0 t c d m ∧ ((t.core c).tile d).kind = kind ∧
      (∀ n, n ∈ ((t.core c).tile d).poison ↔ n ∈ ta.poison ∨ n ∈ tb.poison ∨ n ∈ td.poison) ∧
      (∀ r j a b, r < 128 → j < 128 → a = Claims.tileElem ta r j → b = Claims.tileElem tb r j →
        Claims.tileElem ((t.core c).tile d) r j = (match kind with
          | .none => 0
          | .int32 => (a + b) % 2 ^ 32
          | .fp32 => (roundTo (valAdd .rne (decodeFloat 1 a false) (decodeFloat 1 b false)).1 1 127 .rne false).1)) ∧
      (kind ≠ .fp32 → (t.core c).vec.fstat = (s0.core c).vec.fstat ||| m.flags) ∧
      (kind = .fp32 → ∀ n, (t.core c).vec.fstat.getLsbD n = true ↔ ((s0.core c).vec.fstat ||| m.flags).getLsbD n = true ∨
        ∃ r j x, r < 128 ∧ j < 128 ∧ x = valAdd .rne (decodeFloat 1 (Claims.tileElem ta r j) false)
          (decodeFloat 1 (Claims.tileElem tb r j) false) ∧ ((roundTo x.1 1 127 .rne false).2 ||| x.2).getLsbD n = true))) ∧
  (∀ (i : Nat → Instr) op c s s0 m m0, (i = .engineMzero ∧ op = 0xA0) ∨ (i = .engineMst ∧ op = 0xA3) ∨
      (i = .engineMldacc ∧ op = 0xA4) ∨ (i = .engineMadd ∧ op = 0xA6) → Claims.EngineHead s s0 c m m0 → m.op = op →
    (s0.core c).mat.step ≠ 0 → m.share = none →
    ∃ t, exec (i c) s = .next t ∧ Claims.Finished s0 t c 256 m ∧ t.writes = s0.writes)

/-- R197, R352, R355: a fault that an engine owes a stream is taken at a boundary at U level at which no halt and no STEP trap
comes before it, with the cause and TVAL of the fault and
TPC the instruction not yet executed; at S level DEFER is set and nothing is taken. -/
def Sys2Proof.Claims.EngineFaults : Prop :=
  ∀ c t s e, (s.core c).canIssue t = true → (s.core c).owedFault t = some e → bit (s.streamAt c t).wctl 7 = false →
    ((s.streamAt c t).level = .u → (s.streamAt c t).stepPending = false → ∃ u, exec (.engineFaultDelivery c t) s = .next u ∧
      (u.streamAt c t).tcause = BitVec.ofNat 8 e.cause.code ∧ (u.streamAt c t).tval = e.tval ∧
      (u.streamAt c t).tpc = (s.streamAt c t).pc &&& 0xFFFFFFFFFFF8 ∧ (u.streamAt c t).level = .s ∧
      (u.streamAt c t).wctl = (s.streamAt c t).wctl ∧ (u.core c).owedFault t = none) ∧
    ((s.streamAt c t).level = .s → ∃ u, exec (.engineFaultDelivery c t) s = .next u ∧
      bit (u.streamAt c t).tstat 10 = true ∧ (u.streamAt c t).pc = (s.streamAt c t).pc ∧
      (u.streamAt c t).level = .s ∧ (u.core c).owedFault t = some e)

/-! ### Atomics, fences, boundaries, barriers and waits (R278 to R292) -/

/-- Element `e` of 8 bytes of elements of `w` bits. -/
def Sys2Proof.Claims.element8 (w : Nat) (v : Word) (e : Nat) : Nat := v.toNat / 2 ^ (w * e) % 2 ^ w

/-- R281: the value `v` that an atomic writes for the old value `m` and the operand `b`; none when AMOCAS finds another value
than `d`. Each element of AMOFADD is the exact sum of the two, rounded once under the line's tag `t` with RNE and FZ = 0. -/
def Sys2Proof.Claims.AmoResult (op : AmoOp) (t : Tag) (m b d : Word) (v : Option Word) : Prop :=
  match op with
  | .add => v = some (word (m.toNat + b.toNat))
  | .min => v = some (BitVec.ofInt 64 (min m.toInt b.toInt))
  | .max => v = some (BitVec.ofInt 64 (max m.toInt b.toInt))
  | .and => v = some (m &&& b)
  | .or => v = some (m ||| b)
  | .xor => v = some (m ^^^ b)
  | .swp => v = some b
  | .cas => v = if m = d then some b else none
  | .fadd => ∃ n w, v = some n ∧ w = fmtWidth (tagFmt t) ∧ ∀ e, e < 64 / w → Claims.element8 w n e =
      (roundTo (valAdd .rne (decodeElem (fun _ _ => 0) (Claims.element8 w m e) t false)
        (decodeElem (fun _ _ => 0) (Claims.element8 w b e) t false)).1 (tagFmt t) (tagScale t) .rne false).1

/-- The nine atomics and what they compute. -/
def Sys2Proof.Claims.amoOf : AmoOp → MForm → Instr
  | .add => .amoadd | .min => .amomin | .max => .amomax | .and => .amoand | .or => .amoor | .xor => .amoxor
  | .swp => .amoswp | .cas => .amocas | .fadd => .amofadd

/-- An atomic may be done at a line: the near cache holds it exclusively, or the peer that it is behind has answered (R257,
R283). -/
def Sys2Proof.Claims.AtHand (s : State) (l : Loc) : Prop :=
  if l.space = .peer then s.cur.ask = some (l, true) else l ∈ s.cur.excl

/-- The machine once an atomic has its line: the answer of a peer is used, and no near cache keeps that line. -/
def Sys2Proof.Claims.claimed (s : State) (l : Loc) : State :=
  if l.space = .peer then recallLine 64 l true (s.modCur (fun k => { k with ask := none })) else s

/-- The state in which an atomic of the current stream performs: every earlier write of A has performed, its earlier reads
there have been made, and pending writes to its 8 bytes are published before it (R254, R257). -/
def Sys2Proof.Claims.atAtomic (s : State) (f : MForm) (off : Nat) (l : Loc) : State :=
  publishUnder l (byteMask off 8) (amoScope l (scopeOfSc f.sc.toNat))
    (orderAt s.turn.1 l (some (off / 8)) (performOwn s.turn.1 s))

/-- R279, R281 to R283: an atomic on 8 aligned bytes of a page that takes ordinary writes, on a line that is at hand,
with its credit at hand and a tag that it takes, writes the old value to D and the new one to the line in one write,
published as it performs. AMOCAS that finds another value writes nothing. -/
def Obligations.Atomics : Prop :=
  ∀ op f s a x l s1 line ch m v, Runs (Claims.amoOf op f) s →
    SourcesReady s ((if op = .cas then [⟨f.d, false⟩] else []) ++ [mSrcA f, mSrcB f]) → DestReady s f.d →
    a = Claims.address f 8 (s.src f.a) 0 → a.toNat % 8 = 0 → Claims.Reaches s .write a.toNat x l → pteClass x.leaf < 2 →
    Claims.NoAcquire s → creditFor s l ≤ s.cur.credit → Claims.AtHand s l →
    s1 = Claims.atAtomic (Claims.claimed (fillTlb s.turn.1 x s) l) f (a.toNat % 64) l → line = storeImg s1 s.turn.1 l →
    amoLine op (pteClass x.leaf == 1) line (a.toNat % 64) = .ok ch →
    m = (if tagClass line.tag = 1 then 0
      else BitVec.ofNat 64 (lineBytes (rcSpan (pteClass x.leaf == 1) line.tag line.bits) (a.toNat % 64) 8)) →
    Claims.AmoResult op line.tag m (s.src f.b) (s.src f.d) v →
    Claims.Completes (Claims.amoOf op f) s (fun u =>
      (f.d ≠ 0 → u.strm.reg f.d = m) ∧ (∀ c, c ≠ f.d → u.strm.reg c = s.strm.reg c) ∧
      (v = none → u.nextWrite = s1.nextWrite) ∧
      (∀ n, v = some n → ∃ r ∈ u.writes, r.loc = l ∧ r.writer = some ⟨s.turn.1, .a⟩ ∧ r.performed = true ∧
        r.pub = some (amoScope l (scopeOfSc f.sc.toNat)) ∧ r.rel = mRel f ∧
        r.mask = ch.mask ∧ (pteClass x.leaf = 0 → ∀ j, j < 8 → r.mask.getLsbD (a.toNat % 64 + j) = true) ∧
        lineBytes r.bits (a.toNat % 64) 8 = n.toNat))

/-- R259, R284: FENCE completes, once the homes of the lines that A's stream slots have still to read serve them, and, when SRC
names A, those of A's retired writes (R325), which it waits for. First every retired write of A performs, when SRC names A: that
a FENCE makes them perform, and waits for their homes, is log 61 (DEDUCED). Then the performed writes of the paths that SRC names are
in the view of every path that DST names, and at a scope beyond core what stands in the views of the paths of SRC is
published at the scope. No write goes, and no register changes. -/
def Obligations.Fences : Prop :=
  (∀ f s v ps qs sc, Runs (.fence f) s → ps = maskPaths s.turn.1 f.a → qs = maskPaths s.turn.1 f.b →
    (⟨s.turn.1, .a⟩ ∈ ps → ∀ r ∈ s.writes, r.performed = false → r.writer = some ⟨s.turn.1, .a⟩ → homeOpen s r.loc = true) →
    slotsOpen s s.turn.1 (fun _ => true) s.cur.slots = true →
    sc = scopeOfSc (f.m.toNat / 2048 % 4) → v = (if ⟨s.turn.1, .a⟩ ∈ ps then performOwn s.turn.1 s else s) →
    ∃ u, exec (.fence f) s = .next (s.done (.fence f) u) ∧ u.turn = s.turn ∧
      (⟨s.turn.1, .a⟩ ∈ ps → ∀ r ∈ u.writes, r.writer = some ⟨s.turn.1, .a⟩ → r.performed = true) ∧
      (∀ r ∈ v.writes, r.performed = true → (∃ p ∈ ps, r.writer = some p) → ∃ r' ∈ u.writes, r'.id = r.id ∧
        r'.loc = r.loc ∧ r'.bits = r.bits ∧ ∀ q ∈ qs, q ∈ r'.viewers) ∧
      (sc ≠ .core → ∀ r ∈ v.writes, r.performed = true → (∃ p ∈ ps, p ∈ r.viewers) → ∃ r' ∈ u.writes, r'.id = r.id ∧
        r'.loc = r.loc ∧ r'.bits = r.bits ∧ r'.pubAt sc = true) ∧
      u.writes.length = v.writes.length ∧ u.mem = v.mem ∧ ∀ c, u.strm.reg c = s.strm.reg c) ∧
  (∀ f s r, Runs (.fence f) s → ⟨s.turn.1, .a⟩ ∈ maskPaths s.turn.1 f.a → r ∈ s.writes → r.performed = false →
    r.writer = some ⟨s.turn.1, .a⟩ → homeOpen s r.loc = false →
    exec (.fence f) s = .next (s.modStrm (fun st => { st with wait := some ⟨.home, firstWord (.fence f)⟩ }))) ∧
  (∀ f s, Runs (.fence f) s → slotsOpen s s.turn.1 (fun _ => true) s.cur.slots = false →
    exec (.fence f) s = .next (s.modStrm (fun st => { st with wait := some ⟨.home, firstWord (.fence f)⟩ })))

/-- R285, R287: PHASE, PHASE.SPLIT and PHASE.JOIN. -/
def Sys2Proof.Claims.phaseOf (kind : Nat) : IForm → Instr :=
  if kind = 1 then .phaseSplit else if kind = 2 then .phaseJoin else .phase

/-- No member of a core's gang is drained: its boundaries and generations may complete (R285, R306, log 30). -/
def Sys2Proof.Claims.WholeGang (s : State) (c : Nat) : Prop :=
  ∀ p, (s.core c).place = some p → ∀ d ∈ (s.guest (s.guestOf c)).drained, d.job ≠ p.job

/-- The kind of the boundary of a core's gang (R287): that of the phase instruction of its member 0, or, where that member has
ended, of the lowest that has not. -/
def Sys2Proof.Claims.KindOf (s : State) (c : Nat) (k : Nat × Nat) : Prop :=
  ∃ m ∈ liveMembers s c, (s.core m).arrival.map Arrival.kind = some k ∧
    ∀ x ∈ liveMembers s c, x ≠ m → (s.core m).placeD.gidx < (s.core x).placeD.gidx

/-- The placement of a member after a boundary of a kind (R287): PHASE leaves it, PHASE.SPLIT k makes sub-gangs of
n = GSIZE ÷ 2^k consecutive indices, and PHASE.JOIN restores GSIZE and GIDX of the gang before the latest split. -/
def Sys2Proof.Claims.PlacedAfter (k : Nat × Nat) (p p' : Place) : Prop :=
  (k.1 = 0 → p' = p) ∧
  (k.1 = 1 → ∀ n, n = p.gsize / 2 ^ k.2 →
    p' = { p with gsize := n, gidx := p.gidx % n, splits := ⟨p.gsize, p.gidx, p.gidx / n⟩ :: p.splits }) ∧
  (k.1 = 2 → ∀ x r, p.splits = x :: r → p' = { p with gsize := x.gsize, gidx := x.gidx, splits := r })

/-- The PARTNER trap that a member owes (R287): where its phase instruction differed from the kind of the boundary, one that
names the lowest GIDX of those that differed. -/
def Sys2Proof.Claims.PartnerOwed (s : State) (m : Nat) (k : Nat × Nat) (o : Option Nat) : Prop :=
  if (s.core m).arrival.map Arrival.kind = some k then o = none
  else ∃ d ∈ liveMembers s m, (s.core d).arrival.map Arrival.kind ≠ some k ∧ o = some (s.core d).placeD.gidx ∧
    ∀ x ∈ liveMembers s m, (s.core x).arrival.map Arrival.kind ≠ some k → (s.core d).placeD.gidx ≤ (s.core x).placeD.gidx

/-- The other stream of the core has issued the phase instruction of the same number as this stream's next, or has retired it,
with another X or IMM (R286). -/
def Sys2Proof.Claims.OtherPhase (s : State) (k : Nat × Nat) : Prop :=
  ∃ o, o = s.cur.stream (otherStream s.turn.2) ∧
    ((o.phCount = s.strm.phCount ∧ o.phIssued.isSome = true ∧ o.phIssued ≠ some k) ∨
      (o.phCount = s.strm.phCount + 1 ∧ o.phLast.isSome = true ∧ o.phLast ≠ some k))

/-- R285, R286, R287: a phase instruction waits at its address until its boundary completes; one that differs from that of the other
stream traps ILLEGAL, and so do a SPLIT of a GSIZE that 2^k does not divide and a JOIN outside a sub-gang. A member arrives when
each of its streams waits so or has ended. When the boundary of a gang of which no member is drained completes, every member of it
is released, its gang splits or joins as the kind says, both streams see an event, the phase instruction that a stream stands at
retires, and one that a trap has taken the stream away from retires when the stream comes back to it; a stream of a member that
differed takes PARTNER at its next boundary; the performed writes of the member that arrived last are published. -/
def Sys2Proof.Claims.PhaseBoundaries : Prop :=
  (∀ kind f s trap, kind < 3 → Runs (Claims.phaseOf kind f) s → s.strm.phDone = some trap →
    s.strm.phIssued = some (kind, f.imm.toNat) → exec (Claims.phaseOf kind f) s = .next (s.done (Claims.phaseOf kind f) (s.modStrm (fun st => { st with
      phCount := st.phCount + 1, phIssued := none, phLast := some (kind, f.imm.toNat), phDone := none
      partnerTrap := trap.or st.partnerTrap })))) ∧
  (∀ kind f s, kind < 3 → Runs (Claims.phaseOf kind f) s → s.strm.phIssued ≠ some (kind, f.imm.toNat) →
    Claims.OtherPhase s (kind, f.imm.toNat) ∨ (kind = 1 ∧ s.cur.placeD.gsize % 2 ^ f.imm.toNat ≠ 0) ∨
      (kind = 2 ∧ s.cur.placeD.splits = []) →
    exec (Claims.phaseOf kind f) s = .next (takeTrap s.turn.1 s.turn.2 .illegal (firstWord (Claims.phaseOf kind f)) s.strm.pc .instr s)) ∧
  (∀ kind f s, kind < 3 → Runs (Claims.phaseOf kind f) s → s.strm.phDone = none → ¬Claims.OtherPhase s (kind, f.imm.toNat) →
    (kind = 1 → s.cur.placeD.gsize % 2 ^ f.imm.toNat = 0) → (kind = 2 → s.cur.placeD.splits ≠ []) →
    ∃ t, exec (Claims.phaseOf kind f) s = .next t ∧ t.strm.pc = s.strm.pc ∧ t.strm.wait.isSome = true ∧
      t.strm.phIssued = some (kind, f.imm.toNat) ∧ t.writes = s.writes) ∧
  (∀ c s, mayArrive s c = true →
    (completing (arrive c s) c = [] → ∃ t, exec (.memberArrival c) s = .next t ∧ (t.core c).arrival.isSome = true ∧
      (t.core c).a = (s.core c).a ∧ (t.core c).x = (s.core c).x ∧ t.mem = s.mem) ∧
    (c ∈ completing (arrive c s) c → Claims.WholeGang s c → ∃ t, exec (.memberArrival c) s = .next t ∧
      (∀ m ∈ completing (arrive c s) c, (t.core m).arrival = none ∧ (t.core m).a.evf = true ∧ (t.core m).x.evf = true ∧
        ∀ st, (s.streamAt m st).phIssued.isSome = true →
          (∀ b w, (s.streamAt m st).wait = some ⟨.phase b, w⟩ → (t.streamAt m st).pc = (s.streamAt m st).pc + 8 ∧
            (t.streamAt m st).phIssued = none ∧ (t.streamAt m st).phCount = (s.streamAt m st).phCount + 1 ∧
            (t.streamAt m st).phLast = (s.streamAt m st).phIssued ∧ (t.streamAt m st).wait = none) ∧
          ((∀ b w, (s.streamAt m st).wait ≠ some ⟨.phase b, w⟩) → (t.streamAt m st).phDone.isSome = true ∧
            (t.streamAt m st).pc = (s.streamAt m st).pc)) ∧
      ((completing (arrive c s) c).Nodup → ∀ m ∈ completing (arrive c s) c, ∀ k, Claims.KindOf (arrive c s) m k → k.1 < 3 →
        (k.1 ≠ 0 → (t.core m).bars = []) ∧ (k.1 = 0 → (t.core m).bars = (s.core m).bars) ∧
        (∀ p, (s.core m).place = some p → ∃ p', (t.core m).place = some p' ∧ Claims.PlacedAfter k p p') ∧
        ∃ o, Claims.PartnerOwed (arrive c s) m k o ∧ ∀ st, (s.streamAt m st).phIssued.isSome = true →
          (∀ b w, (s.streamAt m st).wait = some ⟨.phase b, w⟩ →
            (t.streamAt m st).partnerTrap = o.or (s.streamAt m st).partnerTrap) ∧
          ((∀ b w, (s.streamAt m st).wait ≠ some ⟨.phase b, w⟩) → (t.streamAt m st).phDone = some o)) ∧
      ∀ r ∈ t.writes, r.performed = true → r.writer.map Party.core = some c → r.pub.isSome = true)) ∧
  (∀ s s0 c st rest v, s.agenda = .issue c st :: rest → s0 = { s with agenda := rest } → (s.core c).canIssue st = true →
    bit (s.streamAt c st).wctl 7 = false → ((s.streamAt c st).level = .u → (s.streamAt c st).stepPending = false) →
    owesTrap (s.core c) st = false → (s.streamAt c st).partnerTrap = some v →
    step s = .next (trapBefore c st .partner (word v) .instr (s0.modStream c st (fun x => { x with partnerTrap := none }))))

/-- R289, R290: BARA, when every arrival of its member has its generation, counts one arrival, and completes the generation
when every other member that has not ended has arrived as often; BARW takes one completion and reports its status, or waits;
BAR does both, its arrival once, and goes on at once when its own arrival completes the generation. That the counts have 16
bits and wrap, that BARA waits while its arrivals differ from the generations, which count the completions, and that a
generation completes where they are equal, is the model's reading (log 30); R290 says that it waits while they exceed them. -/
def Sys2Proof.Claims.Barriers : Prop :=
  (∀ f s b g, Runs (.bara f) s → b = f.imm.toNat % 16 → g = (s.cur.bar b).gens → (s.cur.bar b).arr = g →
    Claims.WholeGang s s.turn.1 → s.turn.1 ∈ liveMembers s s.turn.1 → (liveMembers s s.turn.1).Nodup →
    (∀ m ∈ liveMembers s s.turn.1, ((s.core m).bar b).gens = g) →
    Claims.Completes (.bara f) s (fun u => (u.cur.bar b).arr = g + 1 ∧
      ((∀ m ∈ liveMembers s s.turn.1, m ≠ s.turn.1 → ((s.core m).bar b).arr = g + 1) →
        ∀ m ∈ liveMembers s s.turn.1, ((u.core m).bar b).gens = g + 1 ∧
          ((u.core m).bar b).done = ((s.core m).bar b).done + 1) ∧
      ((∃ m ∈ liveMembers s s.turn.1, m ≠ s.turn.1 ∧ ((s.core m).bar b).arr ≠ g + 1) →
        ∀ m, ((u.core m).bar b).gens = ((s.core m).bar b).gens ∧ ((u.core m).bar b).done = ((s.core m).bar b).done))) ∧
  (∀ f s b, Runs (.bara f) s → b = f.imm.toNat % 16 → (s.cur.bar b).arr ≠ (s.cur.bar b).gens →
    ∃ t, exec (.bara f) s = .next t ∧ t.strm.pc = s.strm.pc ∧ t.strm.wait = some ⟨.barrier, firstWord (.bara f)⟩ ∧
      t.cur.bar b = s.cur.bar b) ∧
  (∀ (i : IForm → Instr) f s b, i = .barw ∨ (i = .bar ∧ s.strm.barArrived = true) → Runs (i f) s → b = f.imm.toNat % 16 →
    (0 < (s.cur.bar b).done → Claims.Completes (i f) s (fun u =>
      (u.cur.bar b).done = (s.cur.bar b).done - 1 ∧ (u.cur.bar b).arr = (s.cur.bar b).arr ∧
      u.cur.mat.gstatus = (s.cur.bar b).stat ∧ u.cur.mat.gbar.toNat = b ∧
      ((s.cur.bar b).done = 1 → (u.cur.bar b).stat = 0))) ∧
    ((s.cur.bar b).done = 0 → ∃ t, exec (i f) s = .next t ∧ t.strm.pc = s.strm.pc ∧
      t.strm.wait = some ⟨.barrier, firstWord (i f)⟩ ∧ (t.cur.bar b) = s.cur.bar b)) ∧
  (∀ f s b u, Runs (.bar f) s → b = f.imm.toNat % 16 → s.strm.barArrived = false →
    (s.cur.bar b).arr = (s.cur.bar b).gens →
    u = tryBarrier s.turn.1 b ((s.modCur (fun k => k.setBar b { k.bar b with arr := (k.bar b).arr + 1 })).modStrm
      (fun st => { st with barArrived := true })) → (u.cur.bar b).done = 0 →
    ∃ t, exec (.bar f) s = .next t ∧ t.strm.pc = s.strm.pc ∧ t.strm.barArrived = true ∧
      (t.cur.bar b).arr = (s.cur.bar b).arr + 1) ∧
  (∀ f s b g, Runs (.bar f) s → b = f.imm.toNat % 16 → s.strm.barArrived = false → g = (s.cur.bar b).gens →
    (s.cur.bar b).arr = g → Claims.WholeGang s s.turn.1 → s.turn.1 ∈ liveMembers s s.turn.1 →
    (liveMembers s s.turn.1).Nodup → (∀ m ∈ liveMembers s s.turn.1, ((s.core m).bar b).gens = g) →
    (∀ m ∈ liveMembers s s.turn.1, m ≠ s.turn.1 → ((s.core m).bar b).arr = g + 1) → (s.cur.bar b).done < 65535 →
    Claims.Completes (.bar f) s (fun u => (u.cur.bar b).arr = g + 1 ∧ (u.cur.bar b).gens = g + 1 ∧
      (u.cur.bar b).done = (s.cur.bar b).done ∧ u.cur.mat.gstatus = (s.cur.bar b).stat ∧ u.cur.mat.gbar.toNat = b ∧
      ∀ m ∈ liveMembers s s.turn.1, m ≠ s.turn.1 → ((u.core m).bar b).gens = g + 1 ∧
        ((u.core m).bar b).done = ((s.core m).bar b).done + 1))

/-- R292: WAITSEQ.c retires when CSEQ covers A plus the immediate, and WAITSEQ.m when MSEQ does; before that they wait, and in A
a target beyond CNEXT traps ILLEGAL with TVAL = the target. -/
def Obligations.SequenceWaits : Prop :=
  (∀ f s t, Runs (.waitseqC f) s → SourcesReady s [⟨f.a, f.ea⟩] →
    t = BitVec.ofInt 64 ((s.src f.a).toNat + f.imm.toInt) →
    (t.toNat ≤ s.cur.copy.cseq.toNat → (s.turn.2 = .a → t.toNat ≤ s.cur.copy.cnext.toNat) →
      exec (.waitseqC f) s = .next (s.done (.waitseqC f) (s.modCur (fun k => k.popAll [⟨f.a, f.ea⟩])))) ∧
    (s.cur.copy.cseq.toNat < t.toNat → (s.turn.2 = .a → t.toNat ≤ s.cur.copy.cnext.toNat) →
      ∃ u, exec (.waitseqC f) s = .next u ∧ u.strm.pc = s.strm.pc ∧ u.strm.wait.isSome = true ∧ u.cur.q = s.cur.q) ∧
    (s.turn.2 = .a → s.cur.copy.cnext.toNat < t.toNat →
      exec (.waitseqC f) s = .next (takeTrap s.turn.1 .a .illegal t s.strm.pc .instr s))) ∧
  (∀ f s t, Runs (.waitseqM f) s → SourcesReady s [⟨f.a, f.ea⟩] → s.cur.shareHalt = none →
    t = BitVec.ofInt 64 ((s.src f.a).toNat + f.imm.toInt) →
    (t.toNat ≤ s.cur.mat.mseq.toNat →
      exec (.waitseqM f) s = .next (s.done (.waitseqM f) (s.modCur (fun k => k.popAll [⟨f.a, f.ea⟩])))) ∧
    (s.cur.mat.mseq.toNat < t.toNat →
      ∃ u, exec (.waitseqM f) s = .next u ∧ u.strm.pc = s.strm.pc ∧ u.strm.wait.isSome = true ∧ u.cur.q = s.cur.q))

/-- R293: LAUNCH of a record line that can be read names a queue, or traps ILLEGAL; a line that is not VALID traps TAG_CLASS, a
queue that is not enabled ILLEGAL and one that is faulted PAGE, a full one is waited for, and so is the home of a slot that cannot
be written yet (R325). Into any other the record goes at LQTAIL, after every retired write of A has performed and every write in
A's view has been published at guest scope: the LAUNCH completes. R294, R328: DONATE
in a core in RUN completes, and changes nothing when no Timetable is active, no donee is named, the drain window has begun, the gang is
donating, or the donee can place nothing; otherwise it stops the gang of its core for the donee. -/
def Obligations.LaunchAndDonate : Prop :=
  (∀ f s, Runs (.launch f) s → SourcesReady s [srcA f, srcB f] → 4 ≤ (s.src f.b).toNat →
    exec (.launch f) s = .next (takeTrap s.turn.1 s.turn.2 .illegal (s.src f.b) s.strm.pc .instr s)) ∧
  (∀ f s x l a q g i s0 s1 v s2, Runs (.launch f) s → SourcesReady s [srcA f, srcB f] → a = s.src f.a → q = (s.src f.b).toNat →
    q < 4 → a.toNat % 64 = 0 → Claims.Reaches s .read a.toNat x l → Claims.NoAcquire s → g = s.guestOf s.turn.1 →
    s0 = orderAt s.turn.1 l none (fillTlb s.turn.1 x s) → (i, s1) = readLine s.turn.1 .a x a.toNat l s0 →
    v = performOwn s.turn.1 s1 → s2 = publish (inView ⟨s.turn.1, .a⟩) .guest (gangReach v s.turn.1) v →
    (tagClass i.tag ≠ 0 → exec (.launch f) s =
      .next (takeTrap s.turn.1 s.turn.2 .tagClass (word (i.tag.toNat + 2 ^ 16 * f.a.toNat)) s.strm.pc .instr s1)) ∧
    (tagClass i.tag = 0 → ((s.guest g).queue q).enabled = false →
      exec (.launch f) s = .next (takeTrap s.turn.1 s.turn.2 .illegal (s.src f.b) s.strm.pc .instr s1)) ∧
    (tagClass i.tag = 0 → ((s.guest g).queue q).enabled = true → ((s.guest g).queue q).faulted = true →
      exec (.launch f) s = .next (takeTrap s.turn.1 s.turn.2 .page a s.strm.pc .instr s1)) ∧
    (tagClass i.tag = 0 → ((s.guest g).queue q).enabled = true → ((s.guest g).queue q).faulted = false →
      (((s.guest g).queue q).full = true → ∃ t, exec (.launch f) s = .next t ∧ t.strm.pc = s.strm.pc ∧
        t.strm.wait = some ⟨.ring, firstWord (.launch f)⟩ ∧ t.guest g = s.guest g) ∧
      (((s.guest g).queue q).full = false → postOpen s0 g q = false → ∃ t, exec (.launch f) s = .next t ∧
        t.strm.pc = s.strm.pc ∧ t.strm.wait = some ⟨.home, firstWord (.launch f)⟩ ∧ t.guest g = s.guest g) ∧
      (((s.guest g).queue q).full = false → postOpen s0 g q = true → ∃ u, exec (.launch f) s = .next (s.done (.launch f) u) ∧ u.turn = s.turn ∧
        ((u.guest g).queue q).tail = ((s.guest g).queue q).tail + 1 ∧
        (∀ n, n ≠ q → (u.guest g).queue n = (s.guest g).queue n) ∧
        (∀ r ∈ u.writes, r.writer = some ⟨s.turn.1, .a⟩ → r.performed = true) ∧
        (∀ r ∈ v.writes, r.performed = true → ⟨s.turn.1, .a⟩ ∈ r.viewers → ∃ r' ∈ u.writes, r'.id = r.id ∧ r'.loc = r.loc ∧
          r'.bits = r.bits ∧ r'.pubAt .guest = true) ∧
        (unperformed s s.turn.1 = [] → ∀ r ∈ s.writes, r.performed = true → ⟨s.turn.1, .a⟩ ∈ r.viewers →
          ∃ r' ∈ u.writes, r'.id = r.id ∧ r'.loc = r.loc ∧ r'.bits = r.bits ∧ r'.pubAt .guest = true) ∧
        ∀ y p, ringPlace s2 g (((s.guest g).queue q).slotGva ((s.guest g).queue q).tail) .free = .ok (y, p) →
          ∃ r ∈ u.writes, r.loc = p ∧ r.bits = i.bits ∧ r.mask = BitVec.allOnes 64 ∧ r.pub = some .system ∧
            r.performed = true))) ∧
  (∀ f s, Runs (.donate f) s → s.cur.mode = .run → s.ttActive = none ∨ doneeOf s (s.guestOf s.turn.1) = none →
    exec (.donate f) s = .next (s.done (.donate f) s)) ∧
  (∀ f s t d cs, Runs (.donate f) s → s.ttActive = some t → doneeOf s (s.guestOf s.turn.1) = some d →
    cs = jobCores s s.turn.1 → s.cur.mode = .run →
    (inDrain t s.timeUs = true ∨ s.cur.donated.isSome = true ∨ doneeReady (noteReserving d (admitAll d s)) d cs = false →
      exec (.donate f) s = .next (s.done (.donate f) s)) ∧
    (inDrain t s.timeUs = false → s.cur.donated = none → doneeReady (noteReserving d (admitAll d s)) d cs = true →
      ∃ t, exec (.donate f) s = .next t ∧ t.turn = s.turn ∧ t.strm.pc = s.strm.pc + 8 ∧ t.strm.wait = none ∧
        ∀ c ∈ cs, (s.core c).mode = .run → (t.core c).mode = .stop ∧ (t.core c).donated = some (s.guestOf s.turn.1)))

/-! ### Vector instructions (R119 to R161) -/

/-- R119: SETVL writes VTYPE from the immediate and VL = min(A, VLMAX), where VLMAX is VLENB × 8 / W; VSTART and VRSTATE become
0, and D receives VL. -/
def Sys2Proof.Claims.SetVectorLength : Prop :=
  ∀ f s n, Runs (.setvl f) s → SourcesReady s [⟨f.a, f.ea⟩] → DestReady s f.d →
    n = Nat.min (s.src f.a).toNat (Nat.min s.cur.units.vlcap.toNat (64 * s.cur.units.lanes) * 8 /
      (if f.imm.toNat % 4 = 0 then 8 else if f.imm.toNat % 4 = 1 then 16 else 32)) → n < 2048 →
    Claims.Completes (.setvl f) s (fun u => u.cur.vec.vl.toNat = n ∧ u.cur.vec.vtype.toNat = f.imm.toNat % 32 ∧
      u.cur.vec.vstart = 0 ∧ u.cur.vec.vrstate = 0 ∧ u.cur.vec.fstat = s.cur.vec.fstat ∧ u.cur.vec.v = s.cur.vec.v ∧
      (codeIsQ f.d = false → f.d ≠ 0 → u.strm.reg f.d = word n) ∧
      (∀ c, codeIsQ f.d = false → c ≠ f.d → u.strm.reg c = s.strm.reg c))

/-- The slots of a segment under the width in force. -/
def Sys2Proof.Claims.slots (s : State) : Nat := 512 / s.cur.vec.w

/-- A slot is active: at VSTART or above, below VL, and set in v0 when the instruction is masked (R72). -/
def Sys2Proof.Claims.active (s : State) (mk : Bool) (i : Nat) : Bool :=
  decide (s.cur.vec.vstart.toNat ≤ i) && decide (i < s.cur.vec.vl.toNat) && (!mk || (s.cur.vreg 0x40).maskBit i)

/-- A segment from SegmentOf(VSTART) to SegmentOf(VL − 1) (R123). -/
def Sys2Proof.Claims.InRange (s : State) (g : Nat) : Prop :=
  s.cur.vec.vstart.toNat < s.cur.vec.vl.toNat ∧ s.cur.vec.vstart.toNat / Claims.slots s ≤ g ∧
    g ≤ (s.cur.vec.vl.toNat - 1) / Claims.slots s

/-- The segment of a register passes its parity check (R356). -/
def Sys2Proof.Claims.Sound (s : State) (c : Code) (g : Nat) : Prop :=
  g ∉ (s.cur.vreg c).badParity

/-- The segments of v0 that hold the mask bits of slots `lo` to VL − 1 pass their parity check, when the instruction is
masked (the model's choice, log 56: R356 speaks of source segments). -/
def Sys2Proof.Claims.MaskSound (s : State) (mk : Bool) (lo : Nat) : Prop :=
  mk = true → ∀ i, lo ≤ i → i < s.cur.vec.vl.toNat → Claims.Sound s 0x40 (i / 512)

/-- The sources, the mask and the destination of a vector instruction are at hand, no debugger matches, and no drain stops it
between two segments (rows 1 to 4 of R123). -/
def Sys2Proof.Claims.VectorReady (s : State) (l : List Src) (mk : Bool) (d : Code) : Prop :=
  Quiet s ∧ (∀ x ∈ l, if codeIsV x.code then (s.cur.vreg x.code).empty = false else SourceReady s x.code) ∧
    (mk = true → (s.cur.vreg 0x40).empty = false) ∧ (codeIsV d = true → (s.cur.vreg d).empty = false) ∧
    s.cut = none ∧ Claims.MaskSound s mk s.cur.vec.vstart.toNat

/-- R72: what a register holds after a write of the slots `act` under a width and a vector length: in every segment with such a
slot, the results there, zero from VL up, and elsewhere the old slot when the old tag is the result's, else zero; every
other segment as before. -/
def Sys2Proof.Claims.Filled (w vl : Nat) (r r' : VReg) (act : Nat → Bool) (tag : Nat → Tag) (res : Nat → Nat) : Prop :=
  (∀ i, act i = true → (r'.seg (i / (512 / w))).tag = tag (i / (512 / w)) ∧ r'.slot w i = res i % 2 ^ w) ∧
  (∀ i j, act j = true → act i = false → i / (512 / w) = j / (512 / w) → r'.slot w i =
    if vl ≤ i then 0
    else if (r.seg (i / (512 / w))).tag = tag (i / (512 / w)) then r.slot w i else 0) ∧
  (∀ g, (∀ i, act i = true → i / (512 / w) ≠ g) → r'.seg g = r.seg g)

/-- The destination of a vector instruction of the current core after it (R72). -/
def Sys2Proof.Claims.Written (s u : State) (d : Code) (act : Nat → Bool) (tag : Nat → Tag) (res : Nat → Nat) : Prop :=
  Claims.Filled s.cur.vec.w s.cur.vec.vl.toNat (s.cur.vreg d) (u.cur.vreg d) act tag res ∧
    ∀ c, codeIsV c = true → c ≠ d → u.cur.vreg c = s.cur.vreg c

/-- What a vector instruction leaves alone: VL and VTYPE, the memories, the scalar registers and predicates of both streams,
the engines; VSTART is 0 (R72, R123). -/
def Sys2Proof.Claims.VectorFrame (s u : State) : Prop :=
  u.cur.vec.vl = s.cur.vec.vl ∧ u.cur.vec.vtype = s.cur.vec.vtype ∧ u.cur.vec.vstart = 0 ∧ u.mem = s.mem ∧
    u.writes = s.writes ∧ u.cur.sp = s.cur.sp ∧ u.cur.copy = s.cur.copy ∧ u.cur.mat = s.cur.mat ∧
    ∀ t c, (u.cur.stream t).reg c = (s.cur.stream t).reg c ∧ (u.cur.stream t).pred c = (s.cur.stream t).pred c

/-- A tag that a scalar element, a retag or an insertion may give: a class below 4, a format up to 9, elements no wider than a
slot (R135). -/
def Sys2Proof.Claims.TagFits (s : State) (t : Tag) : Prop :=
  tagClass t < 4 ∧ tagFmt t ≤ 9 ∧ fmtWidth (tagFmt t) ≤ s.cur.vec.w

/-- The bits of a slot of a scalar element (R135). -/
def Sys2Proof.Claims.element (s : State) (x : Word) : Nat :=
  x.toNat % 2 ^ (if tagFmt (x.extractLsb' 48 16) = 0 then s.cur.vec.w else fmtWidth (tagFmt (x.extractLsb' 48 16)))

/-- R134 to R137, R156: what VMOV, VBCAST, VID, VINS, VEXT and VRETAG write. -/
def Sys2Proof.Claims.VectorMoves : Prop :=
  (∀ f s, Runs (.vmov f) s → Claims.VectorReady s [srcA f] (mfMk f.m) f.d → (∀ g, Claims.InRange s g → Claims.Sound s f.a g) →
    Claims.Completes (.vmov f) s (fun u => Claims.VectorFrame s u ∧ u.cur.vec.fstat = s.cur.vec.fstat ∧
      Claims.Written s u f.d (Claims.active s (mfMk f.m)) (fun g => ((s.cur.vreg f.a).seg g).tag)
        (fun i => (s.cur.vreg f.a).slot s.cur.vec.w i))) ∧
  (∀ f s x, Runs (.vbcast f) s → Claims.VectorReady s [srcA f] (mfMk f.m) f.d → x = s.src f.a →
    (∀ i, Claims.active s (mfMk f.m) i = true → Claims.TagFits s (x.extractLsb' 48 16)) →
    Claims.Completes (.vbcast f) s (fun u => Claims.VectorFrame s u ∧ u.cur.vec.fstat = s.cur.vec.fstat ∧
      Claims.Written s u f.d (Claims.active s (mfMk f.m)) (fun _ => x.extractLsb' 48 16) (fun _ => Claims.element s x))) ∧
  (∀ f s, Runs (.vid f) s → Claims.VectorReady s [] (mfMk f.m) f.d →
    Claims.Completes (.vid f) s (fun u => Claims.VectorFrame s u ∧ u.cur.vec.fstat = s.cur.vec.fstat ∧
      Claims.Written s u f.d (Claims.active s (mfMk f.m))
        (fun _ => if s.cur.vec.w = 8 then 0x387F else if s.cur.vec.w = 16 then 0x187F else 0x407F)
        (fun i => if s.cur.vec.w = 16 then (roundTo (Val.ofInt i) 3 127 .rne false).1 else i))) ∧
  (∀ f s x j, Runs (.vins f) s → Claims.VectorReady s [srcA f, srcB f] false f.d → x = s.src f.a → j = (s.src f.b).toNat →
    (j < s.cur.vec.vl.toNat → Claims.TagFits s (x.extractLsb' 48 16)) →
    Claims.Completes (.vins f) s (fun u => Claims.VectorFrame s u ∧ u.cur.vec.fstat = s.cur.vec.fstat ∧
      Claims.Written s u f.d (fun i => decide (i = j) && decide (j < s.cur.vec.vl.toNat)) (fun _ => x.extractLsb' 48 16)
        (fun _ => Claims.element s x))) ∧
  (∀ f s j, Runs (.vext f) s → Claims.VectorReady s [srcA f, srcB f] false f.d → DestReady s f.d → j = (s.src f.b).toNat →
    (j < s.cur.vec.vl.toNat → Claims.Sound s f.a (j / Claims.slots s)) →
    exec (.vext f) s = .next (s.done (.vext f) ((s.wrote [srcB f] f.d
      (if j < s.cur.vec.vl.toNat then word (((s.cur.vreg f.a).seg (j / Claims.slots s)).tag.toNat * 2 ^ 48 +
        (s.cur.vreg f.a).slot s.cur.vec.w j) else 0)).modCur (fun k => k.setVstart 0)))) ∧
  (∀ f s t, Runs (.vretag f) s → Claims.VectorReady s [srcA f, srcB f] (mfMk f.m) f.d → t = (s.src f.b).setWidth 16 →
    (∀ i, Claims.active s (mfMk f.m) i = true → Claims.TagFits s t) →
    (∀ g, Claims.InRange s g → Claims.Sound s f.a g ∧ tagClass ((s.cur.vreg f.a).seg g).tag = 0) →
    Claims.Completes (.vretag f) s (fun u => Claims.VectorFrame s u ∧ u.cur.vec.fstat = s.cur.vec.fstat ∧
      Claims.Written s u f.d (Claims.active s (mfMk f.m)) (fun _ => t)
        (fun i => (s.cur.vreg f.a).slot s.cur.vec.w i %
          2 ^ (if fmtWidth (tagFmt t) = 0 then s.cur.vec.w else fmtWidth (tagFmt t)))))

/-- The completion of a bitwise integer operation: in each active slot the low bits of `v w a b` that A's format keeps,
under A's tag (R138). -/
def Sys2Proof.Claims.Bitwise (i : RForm → Instr) (v : Nat → Nat → Nat → Nat) : Prop :=
  ∀ f s, Runs (i f) s → Claims.VectorReady s [srcA f, srcB f] (mfMk f.m) f.d →
    (∀ g, Claims.InRange s g → Claims.Sound s f.a g ∧ Claims.Sound s f.b g ∧
      tagClass ((s.cur.vreg f.a).seg g).tag = 0 ∧ tagClass ((s.cur.vreg f.b).seg g).tag = 0 ∧
      tagFmt ((s.cur.vreg f.a).seg g).tag ≤ 9 ∧ tagFmt ((s.cur.vreg f.b).seg g).tag ≤ 9 ∧
      fmtWidth (tagFmt ((s.cur.vreg f.a).seg g).tag) ≤ s.cur.vec.w) →
    Claims.Completes (i f) s (fun u => Claims.VectorFrame s u ∧ u.cur.vec.fstat = s.cur.vec.fstat ∧
      Claims.Written s u f.d (Claims.active s (mfMk f.m)) (fun g => ((s.cur.vreg f.a).seg g).tag)
        (fun j => v s.cur.vec.w ((s.cur.vreg f.a).slot s.cur.vec.w j) ((s.cur.vreg f.b).slot s.cur.vec.w j) %
          2 ^ (if tagFmt ((s.cur.vreg f.a).seg (j / Claims.slots s)).tag = 0 then s.cur.vec.w
            else fmtWidth (tagFmt ((s.cur.vreg f.a).seg (j / Claims.slots s)).tag))))

/-- R138: what the bitwise integer operations compute from two patterns of W bits. -/
def Obligations.BitwiseVectors : Prop :=
  Claims.Bitwise .viadd (fun _ a b => a + b) ∧
  Claims.Bitwise .visub (fun w a b => a + 2 ^ w - b) ∧
  Claims.Bitwise .vimul (fun _ a b => a * b) ∧
  Claims.Bitwise .viand (fun _ a b => a &&& b) ∧
  Claims.Bitwise .vior (fun _ a b => a ||| b) ∧
  Claims.Bitwise .vixor (fun _ a b => a ^^^ b) ∧
  Claims.Bitwise .vishl (fun w a b => a * 2 ^ (b % w)) ∧
  Claims.Bitwise .vishr (fun w a b => a / 2 ^ (b % w))

/-- A source segment that can be decoded: sound, VALID, of a format with elements no wider than a slot and a SCALE that the
format takes, and for CB4 a slot of the pattern book that is full and VALID (R73, R74). -/
def Sys2Proof.Claims.Decodable (s : State) (c : Code) (g : Nat) : Prop :=
  Claims.Sound s c g ∧ tagClass ((s.cur.vreg c).seg g).tag = 0 ∧ fmtOk ((s.cur.vreg c).seg g).tag = true ∧
    fmtWidth (tagFmt ((s.cur.vreg c).seg g).tag) ≤ s.cur.vec.w ∧
    (tagFmt ((s.cur.vreg c).seg g).tag = 9 →
      (s.cur.bookSlot (tagScale ((s.cur.vreg c).seg g).tag)).state = .full ∧
      (s.cur.bookSlot (tagScale ((s.cur.vreg c).seg g).tag)).vclass = 0)

/-- The exact value of a slot of a register (R79). -/
def Sys2Proof.Claims.value (s : State) (c : Code) (i : Nat) : Val :=
  decodeSlot s.cur s.cur.vec.fz ((s.cur.vreg c).seg (i / Claims.slots s)).tag ((s.cur.vreg c).slot s.cur.vec.w i)

/-- What the lattice answers for the source formats of a segment (R83, R84). -/
def Sys2Proof.Claims.latticeAt (s : State) (l : List Src) (g : Nat) : Look :=
  latticeLookup (latticeOf s) (l.map (fun x => tagFmt ((s.cur.vreg x.code).seg g).tag))

/-- The flags that an instruction adds to FSTAT: those of its active slots (R98). -/
def Sys2Proof.Claims.FlagsAdded (s u : State) (act : Nat → Bool) (fl : Nat → BitVec 6) : Prop :=
  ∀ b, u.cur.vec.fstat.getLsbD b = true ↔
    s.cur.vec.fstat.getLsbD b = true ∨ ∃ i, act i = true ∧ (fl i).getLsbD b = true

/-- The completion of a polymorphic instruction (R87): its sources decodable in every segment and the lattice allowing them,
each active slot holds its operation's exact value rounded once into the result format `rf`, under the SCALE that the values
of the segment choose; a segment of integers holds the integer result. -/
def Sys2Proof.Claims.Polymorphic (i : RForm → Instr) (srcs : RForm → List Src) (op : PolyOp) (mode : Option Rm) : Prop :=
  ∀ f s (rf : Nat → Nat) rm (act : Nat → Bool) (val : Nat → Val × BitVec 6) (k : Nat → Nat)
      (out : Nat → Nat × BitVec 6), Runs (i f) s → Claims.VectorReady s (srcs f) (mfMk f.m) f.d →
    rm = mode.getD (rmFor s.cur.vec (mfRmo f.m)) → act = Claims.active s (mfMk f.m) →
    (∀ g, Claims.InRange s g → (∀ x ∈ srcs f, Claims.Decodable s x.code g) ∧
      (Claims.latticeAt s (srcs f) g).forbid = false ∧ fmtWidth (rf g) ≤ s.cur.vec.w ∧
      rf g = (if mfTov f.m = 0 then (Claims.latticeAt s (srcs f) g).rf else mfTov f.m) ∧
      (mfTov f.m = 9 → tagFmt ((s.cur.vreg f.a).seg g).tag = 9) ∧
      ((Claims.latticeAt s (srcs f) g).int = true →
        ∀ x ∈ srcs f, tagScale ((s.cur.vreg x.code).seg g).tag = 127)) →
    (∀ j, val j = op.float (rf (j / Claims.slots s)) rm ((srcs f).map (fun x => Claims.value s x.code j))) →
    (∀ g, k g = if (Claims.latticeAt s (srcs f) g).int && op.intForm then
        (if rf g = 9 then tagScale ((s.cur.vreg f.a).seg g).tag else 127)
      else if rf g = 9 then tagScale ((s.cur.vreg f.a).seg g).tag
      else scaleFor (((List.range (Claims.slots s)).map (fun n => g * Claims.slots s + n)).filter act |>.map
        (fun n => (val n).1)) (rf g)) →
    (∀ j g, g = j / Claims.slots s → out j =
      if (Claims.latticeAt s (srcs f) g).int && op.intForm then
        let r := op.int ((srcs f).map (fun x => (Claims.value s x.code j).toInt))
        let b := integerResult (bookOf s.cur) r.1 (rf g) (tagScale ((s.cur.vreg f.a).seg g).tag) rm s.cur.vec.fz
        (b.1, r.2 ||| b.2)
      else
        let b := roundOp op.estimate (bookOf s.cur) (val j).1 (rf g) (k g) rm s.cur.vec.fz
        (b.1, (val j).2 ||| b.2)) →
    Claims.Completes (i f) s (fun u => Claims.VectorFrame s u ∧
      Claims.Written s u f.d act (fun g => mkTag (rf g) 0 (k g)) (fun j => (out j).1) ∧
      Claims.FlagsAdded s u act (fun j => (out j).2))

/-- A polymorphic operation of two sources, of three, or of one. -/
def Sys2Proof.Claims.two (fl : Rm → Val → Val → Val × BitVec 6) (int : Int → Int → Int × BitVec 6) : PolyOp :=
  ⟨fun _ rm l => fl rm (l.getD 0 (.nan false)) (l.getD 1 (.nan false)), fun l => int (l.getD 0 0) (l.getD 1 0), true, false⟩
def Sys2Proof.Claims.three (fl : Rm → Val → Val → Val → Val × BitVec 6) (int : Int → Int → Int → Int) : PolyOp :=
  ⟨fun _ rm l => fl rm (l.getD 0 (.nan false)) (l.getD 1 (.nan false)) (l.getD 2 (.nan false)),
    fun l => (int (l.getD 0 0) (l.getD 1 0) (l.getD 2 0), 0), true, false⟩
def Sys2Proof.Claims.one (fl : Val → Val × BitVec 6) (int : Int → Int) (intForm : Bool) : PolyOp :=
  ⟨fun _ _ l => fl (l.getD 0 (.nan false)), fun l => (int (l.getD 0 0), 0), intForm, false⟩
def Sys2Proof.Claims.estimate (g : Val → Val × BitVec 6) (n : Nat → Option Nat) : PolyOp :=
  ⟨fun rf _ l => approxOf g (n rf) (l.getD 0 (.nan false)), fun l => (l.getD 0 0, 0), false, true⟩

/-- R127 to R130: what the polymorphic instructions compute. That VSQRT of a segment of integers takes ScaleFor with an INT8 result is
log 57 (DESIGN CHOICE: R87 has 127 there); what the exact operations and the rounding give is stated in ExactValues. -/
def Obligations.VectorArithmetic : Prop :=
  Claims.Polymorphic .vadd (fun f => [srcA f, srcB f]) (Claims.two valAdd (fun a b => (a + b, 0))) none ∧
  Claims.Polymorphic .vsub (fun f => [srcA f, srcB f]) (Claims.two valSub (fun a b => (a - b, 0))) none ∧
  Claims.Polymorphic .vmul (fun f => [srcA f, srcB f]) (Claims.two (fun _ => valMul) (fun a b => (a * b, 0))) none ∧
  Claims.Polymorphic .vdiv (fun f => [srcA f, srcB f])
    (Claims.two (fun _ => valDiv) (fun a b => if b = 0 then (-1, 0x10) else (Int.tdiv a b, 0))) none ∧
  Claims.Polymorphic .vmin (fun f => [srcA f, srcB f]) (Claims.two (fun _ => valMinMax false) (fun a b => (min a b, 0))) none ∧
  Claims.Polymorphic .vmax (fun f => [srcA f, srcB f]) (Claims.two (fun _ => valMinMax true) (fun a b => (max a b, 0))) none ∧
  Claims.Polymorphic .vfma (fun f => [srcA f, srcB f, srcC f]) (Claims.three valFma (fun a b c => a * b + c)) none ∧
  Claims.Polymorphic .vfms (fun f => [srcA f, srcB f, srcC f])
    (Claims.three (fun rm a b c => valFma rm a b c.negate) (fun a b c => a * b - c)) none ∧
  Claims.Polymorphic .vfnma (fun f => [srcA f, srcB f, srcC f])
    (Claims.three (fun rm a b c => valFma rm a.negate b c) (fun a b c => c - a * b)) none ∧
  Claims.Polymorphic .vabs (fun f => [srcA f])
    (Claims.one (fun a => (a.abs, snanFlags [a])) (fun a => if a < 0 then -a else a) true) none ∧
  Claims.Polymorphic .vneg (fun f => [srcA f]) (Claims.one (fun a => (a.negate, snanFlags [a])) (fun a => -a) true) none ∧
  Claims.Polymorphic .vsqrt (fun f => [srcA f]) (Claims.one valSqrt (fun a => a) false) none ∧
  Claims.Polymorphic .vrcpe (fun f => [srcA f]) (Claims.estimate valRecip (fun _ => some 12)) (some .rne) ∧
  Claims.Polymorphic .vrsqrte (fun f => [srcA f]) (Claims.estimate valRsqrt (fun _ => some 12)) (some .rne) ∧
  Claims.Polymorphic .vexp2 (fun f => [srcA f]) (Claims.estimate valExp2 (fun n => if n = 1 then some 16 else none)) (some .rne) ∧
  Claims.Polymorphic .vlog2 (fun f => [srcA f]) (Claims.estimate valLog2 (fun n => if n = 1 then some 16 else none)) (some .rne)

/-- R64 to R66, R79 to R82: sums, differences, products and fused products of finite values are exact and raise no flag; an encoding
that a format holds is rounded to itself without a flag; the specials of the operations; and what rounding gives of a value, a
quotient and a root in each mode, with overflow, underflow and FZ. How a quotient and a root stand between the values of the model is
log 8 (DEDUCED); of R82, a NaN under a slot of NaNs alone is log 27 (DESIGN CHOICE), and a zero beside a zero entry of the other sign
log 27 (DEDUCED). -/
def Obligations.ExactValues : Prop :=
  Claims.Rounding ∧ Claims.SpecialValues ∧ Claims.BookRounding ∧
  (∀ rm e a b x y, Claims.units e a = some x → Claims.units e b = some y →
    (∃ v n, valAdd rm a b = (v, 0) ∧ Claims.units n v = some ((x + y) * 2 ^ (e - n).toNat) ∧ n ≤ e) ∧
    (∃ v n, valSub rm a b = (v, 0) ∧ Claims.units n v = some ((x - y) * 2 ^ (e - n).toNat) ∧ n ≤ e)) ∧
  (∀ e e' a b x y, Claims.units e a = some x → Claims.units e' b = some y →
    ∃ v n, valMul a b = (v, 0) ∧ Claims.units n v = some (x * y * 2 ^ (e + e' - n).toNat) ∧ n ≤ e + e') ∧
  (∀ rm e e' a b c x y z, Claims.units e a = some x → Claims.units e' b = some y → Claims.units (e + e') c = some z →
    ∃ v n, valFma rm a b c = (v, 0) ∧ Claims.units n v = some ((x * y + z) * 2 ^ (e + e' - n).toNat) ∧ n ≤ e + e') ∧
  (∀ f bits rm, f ∈ [1, 2, 3, 4, 5, 6] → bits < 2 ^ fmtWidth f → (decodeFloat f bits false).isNan = false →
    roundTo (decodeFloat f bits false) f 127 rm false = (bits, 0))

/-- R131 to R133: VCMP writes the condition of each active slot to the mask bit of its number, keeps the other bits below VL and
clears those from VL to the end of the segment that holds bit VL − 1; the conditions and their NV by the order of the exact values;
VPOPC counts mask bits below VL; VSEL takes A or B by v0, with the flags of its rounding where the tags differ. -/
def Obligations.VectorPredicates : Prop :=
  (∀ cc f s act, Runs (.vcmp cc f) s → Claims.VectorReady s [srcA f, srcB f] (mfMk f.m) f.d → act = Claims.active s (mfMk f.m) →
    (∀ g, Claims.InRange s g → Claims.Decodable s f.a g ∧ Claims.Decodable s f.b g ∧
      (Claims.latticeAt s [srcA f, srcB f] g).forbid = false) →
    Claims.Completes (.vcmp cc f) s (fun u => Claims.VectorFrame s u ∧
      (∀ i, act i = true → (u.cur.vreg f.d).maskBit i = (vcmpCond cc (Claims.value s f.a i) (Claims.value s f.b i)).1 ∧
        ((u.cur.vreg f.d).seg (i / 512)).tag = 0) ∧
      (∀ i, i < s.cur.vec.vl.toNat → act i = false → (u.cur.vreg f.d).maskBit i = (s.cur.vreg f.d).maskBit i) ∧
      (∀ i, s.cur.vec.vstart.toNat < s.cur.vec.vl.toNat → s.cur.vec.vl.toNat ≤ i →
        i / 512 = (s.cur.vec.vl.toNat - 1) / 512 → (u.cur.vreg f.d).maskBit i = false) ∧
      (∀ c, codeIsV c = true → c ≠ f.d → u.cur.vreg c = s.cur.vreg c) ∧
      Claims.FlagsAdded s u act (fun i => (vcmpCond cc (Claims.value s f.a i) (Claims.value s f.b i)).2))) ∧
  (∀ a b, ((vcmpCond .eq a b).1 = true ↔ Claims.Same a b) ∧ ((vcmpCond .ne a b).1 = true ↔ ¬Claims.Same a b) ∧
    ((vcmpCond .lt a b).1 = true ↔ Claims.Less a b) ∧ ((vcmpCond .le a b).1 = true ↔ Claims.Less a b ∨ Claims.Same a b) ∧
    ((vcmpCond .gt a b).1 = true ↔ Claims.Less b a) ∧ ((vcmpCond .ge a b).1 = true ↔ Claims.Less b a ∨ Claims.Same a b) ∧
    (vcmpCond .uo a b).1 = (a.isNan || b.isNan) ∧
    (∀ cc, cc = .eq ∨ cc = .ne ∨ cc = .uo → (vcmpCond cc a b).2 = Claims.signals [a, b]) ∧
    ∀ cc, cc = .lt ∨ cc = .le ∨ cc = .gt ∨ cc = .ge →
      (vcmpCond cc a b).2 = if a.isNan || b.isNan then 1 else 0) ∧
  (∀ f s, Runs (.vpopc f) s → Claims.VectorReady s [srcA f] (mfMk f.m) f.d → DestReady s f.d →
    Claims.MaskSound s (mfMk f.m) 0 → (∀ g, g * 512 < s.cur.vec.vl.toNat → Claims.Sound s f.a g) →
    exec (.vpopc f) s = .next (s.done (.vpopc f) ((s.wrote [] f.d (word (((List.range s.cur.vec.vl.toNat).filter (fun i =>
      (s.cur.vreg f.a).maskBit i && (!mfMk f.m || (s.cur.vreg 0x40).maskBit i))).length))).modCur (fun k => k.setVstart 0)))) ∧
  (∀ f s (tag : Nat → Tag) (out : Nat → Nat) (pick : Nat → Code), Runs (.vsel f) s → Claims.VectorReady s [srcA f, srcB f] true f.d →
    (∀ i, pick i = if (s.cur.vreg 0x40).maskBit i then f.a else f.b) →
    (∀ g, Claims.InRange s g →
      if ((s.cur.vreg f.a).seg g).tag = ((s.cur.vreg f.b).seg g).tag then
        Claims.Sound s f.a g ∧ Claims.Sound s f.b g
      else Claims.Decodable s f.a g ∧ Claims.Decodable s f.b g ∧ (Claims.latticeAt s [srcA f, srcB f] g).forbid = false ∧
        fmtWidth (Claims.latticeAt s [srcA f, srcB f] g).rf ≤ s.cur.vec.w ∧
        ((Claims.latticeAt s [srcA f, srcB f] g).int = true → tagScale ((s.cur.vreg f.a).seg g).tag = 127 ∧
          tagScale ((s.cur.vreg f.b).seg g).tag = 127)) →
    (∀ g, tag g = if ((s.cur.vreg f.a).seg g).tag = ((s.cur.vreg f.b).seg g).tag then ((s.cur.vreg f.a).seg g).tag
      else mkTag (Claims.latticeAt s [srcA f, srcB f] g).rf 0 (scaleFor (((List.range (Claims.slots s)).map
        (fun n => g * Claims.slots s + n)).filter (Claims.active s false) |>.map (fun n => Claims.value s (pick n) n))
        (Claims.latticeAt s [srcA f, srcB f] g).rf)) →
    (∀ i g, g = i / Claims.slots s → out i =
      if ((s.cur.vreg f.a).seg g).tag = ((s.cur.vreg f.b).seg g).tag then (s.cur.vreg (pick i)).slot s.cur.vec.w i
      else (roundAny (bookOf s.cur) (Claims.value s (pick i) i) (tagFmt (tag g)) (tagScale (tag g)) s.cur.vec.rm
        s.cur.vec.fz).1) →
    Claims.Completes (.vsel f) s (fun u => Claims.VectorFrame s u ∧ Claims.Written s u f.d (Claims.active s false) tag out ∧
      Claims.FlagsAdded s u (Claims.active s false) (fun i =>
        if ((s.cur.vreg f.a).seg (i / Claims.slots s)).tag = ((s.cur.vreg f.b).seg (i / Claims.slots s)).tag then 0
        else Claims.signals [Claims.value s (pick i) i] ||| (roundAny (bookOf s.cur) (Claims.value s (pick i) i)
          (tagFmt (tag (i / Claims.slots s))) (tagScale (tag (i / Claims.slots s))) s.cur.vec.rm s.cur.vec.fz).2)))

/-- The lines that VLDS reads, each with its first segment and its number of segments, from segment `sg` and line `l` on: lines
within the scratchpad, each of a whole number of segments that divides its first (R143). -/
def Sys2Proof.Claims.Laid (s : State) (base : Nat) : Nat → Nat → List (Nat × Nat × LineImg) → Prop
  | sg, _, [] => (s.cur.vec.vl.toNat + Claims.slots s - 1) / Claims.slots s ≤ sg
  | sg, l, (a, k, i) :: r => sg < (s.cur.vec.vl.toNat + Claims.slots s - 1) / Claims.slots s ∧ a = sg ∧
      base + 64 * l + 64 ≤ 0x400000 ∧ i = viewImg s ⟨s.turn.1, .x⟩ ⟨.sp s.turn.1, (base + 64 * l) / 64⟩ ∧
      k = lineElemsOf i.tag i.mark s.cur.vec.w * s.cur.vec.w / 512 ∧ k ≠ 0 ∧ sg % k = 0 ∧
      Claims.Laid s base (sg + k) (l + 1) r

/-- The groups of segments that VSTS writes, one line each, from segment `sg` and line `l` on: a group has one tag, begins at a
multiple of its size, and its line lies within the declared bytes (R144). -/
def Sys2Proof.Claims.Grouped (s : State) (b : Code) (base : Nat) : Nat → Nat → List (Nat × Nat × Tag) → Prop
  | sg, _, [] => (s.cur.vec.vl.toNat + Claims.slots s - 1) / Claims.slots s ≤ sg
  | sg, l, (a, c, t) :: r => sg < (s.cur.vec.vl.toNat + Claims.slots s - 1) / Claims.slots s ∧ a = sg ∧
      t = ((s.cur.vreg b).seg sg).tag ∧ lineWidth t s.cur.vec.w ≤ s.cur.vec.w ∧ c = s.cur.vec.w / lineWidth t s.cur.vec.w ∧
      sg % c = 0 ∧ (∀ j, j < c → Claims.Sound s b (sg + j) ∧ ((s.cur.vreg b).seg (sg + j)).tag = t) ∧
      base + 64 * l + 64 ≤ 0x400000 ∧ base + 64 * l + 64 ≤ s.cur.placeD.spBytes ∧
      Claims.Grouped s b base (sg + c) (l + 1) r

/-- R143, R144, R146, R147: VLDS lays the elements of lines into the slots from VSTART to VL − 1, under the tags of the lines;
VSTS writes each group of segments as one line; VPOP moves a whole queue line into the lowest segments; VPUSH pushes the
line of the lowest segments. -/
def Obligations.VectorTransfers : Prop :=
  (∀ f s a (lines : List (Nat × Nat × LineImg)) (tag : Nat → Tag) (res : Nat → Nat), Runs (.vlds f) s →
    Claims.VectorReady s [mSrcA f, mSrcB f] false f.d → s.cur.scatters = [] →
    a = Claims.address f 64 (s.src f.a) (s.src f.b) → s.cur.vec.vstart.toNat < s.cur.vec.vl.toNat → a.toNat % 64 = 0 →
    Claims.Laid s a.toNat 0 0 lines → lines.length ≤ 16 →
    (∃ e ∈ lines, e.1 = s.cur.vec.vstart.toNat / Claims.slots s) →
    (∀ e ∈ lines, ∀ j, j < e.2.1 → tag (e.1 + j) = e.2.2.tag) →
    (∀ e ∈ lines, ∀ i, e.1 ≤ i / Claims.slots s → i / Claims.slots s < e.1 + e.2.1 →
      res i = Claims.lineElement (lineWidth e.2.2.tag s.cur.vec.w) e.2.2.bits (i - e.1 * Claims.slots s)) →
    Claims.Completes (.vlds f) s (fun u => Claims.Written s u f.d (Claims.active s false) tag res ∧
      u.cur.vec.vstart = 0 ∧ u.writes = s.writes ∧ u.cur.vec.fstat = s.cur.vec.fstat ∧
      Claims.BaseUpdated f 64 (s.src f.a) u)) ∧
  (∀ f s a (groups : List (Nat × Nat × Tag)), Runs (.vsts f) s → Claims.VectorReady s [mSrcA f, mSrcB f] false 0 →
    s.cur.scatters = [] → a = Claims.address f 64 (s.src f.a) 0 → s.cur.vec.vstart.toNat < s.cur.vec.vl.toNat →
    a.toNat % 64 = 0 → Claims.Grouped s f.b a.toNat 0 0 groups → groups.length ≤ 16 →
    Claims.Completes (.vsts f) s (fun u => u.cur.vec.vstart = 0 ∧ u.cur.vec.v = s.cur.vec.v ∧
      Claims.BaseUpdated f 64 (s.src f.a) u ∧
      ∀ n e, groups[n]? = some e → s.cur.vec.vstart.toNat / Claims.slots s ≤ e.1 → ∃ r ∈ u.writes,
        r.loc = ⟨.sp s.turn.1, (a.toNat + 64 * n) / 64⟩ ∧ r.writer = some ⟨s.turn.1, .x⟩ ∧ r.mask = BitVec.allOnes 64 ∧
        r.tag = some e.2.2 ∧ r.performed = true ∧ ∀ j, j < 512 / lineWidth e.2.2 s.cur.vec.w →
          Claims.lineElement (lineWidth e.2.2 s.cur.vec.w) r.bits j =
            if s.cur.vec.vl.toNat ≤ e.1 * Claims.slots s + j then 0
            else (s.cur.vreg f.b).slot s.cur.vec.w (e.1 * Claims.slots s + j) % 2 ^ lineWidth e.2.2 s.cur.vec.w)) ∧
  (∀ f s e r n, Runs (.vpop f) s → Quiet s → (s.cur.vreg f.d).empty = false → s.cur.queue f.a = e :: r →
    n = lineElemsOf e.tag e.mark s.cur.vec.w * s.cur.vec.w / 512 → n ≠ 0 →
    Claims.Completes (.vpop f) s (fun u => Claims.VectorFrame s u ∧ u.cur.queue f.a = r ∧
      u.cur.vec.fstat = s.cur.vec.fstat ∧
      (∀ g, g < n → ((u.cur.vreg f.d).seg g).tag = e.tag) ∧
      (∀ i, i / Claims.slots s < n → (u.cur.vreg f.d).slot s.cur.vec.w i =
        Claims.lineElement (lineWidth e.tag s.cur.vec.w) e.bits i % 2 ^ s.cur.vec.w) ∧
      (∀ g, n ≤ g → (u.cur.vreg f.d).seg g = (s.cur.vreg f.d).seg g) ∧
      ∀ c, codeIsV c = true → c ≠ f.d → u.cur.vreg c = s.cur.vreg c)) ∧
  (∀ f s t lw, Runs (.vpush f) s → Claims.VectorReady s [srcA f] false f.d → DestReady s f.d →
    t = ((s.cur.vreg f.a).seg 0).tag → lw = lineWidth t s.cur.vec.w → lw ≤ s.cur.vec.w →
    (∀ g, g < s.cur.vec.w / lw → Claims.Sound s f.a g ∧ ((s.cur.vreg f.a).seg g).tag = t) → Claims.Sound s f.a 0 →
    Claims.Completes (.vpush f) s (fun u => Claims.VectorFrame s u ∧ u.cur.vec.v = s.cur.vec.v ∧
      ∃ e, u.cur.queue f.d = s.cur.queue f.d ++ [e] ∧ e.tag = t ∧ e.mark = false ∧ ∀ j, j < 512 / lw →
        Claims.lineElement lw e.bits j = (s.cur.vreg f.a).slot s.cur.vec.w j % 2 ^ lw))

/-- The cluster address of slot `i` of a gather or a scatter: A plus the 32-bit index i of B (R148). -/
def Sys2Proof.Claims.clusterAddr (s : State) (f : RForm) (i : Nat) : Nat :=
  ((s.src f.a) + word ((s.cur.vreg f.b).slot 32 i)).toNat

/-- A cluster address that a gather may read, or a scatter may write: aligned to its element, below 2^25, of a member of the
gang, and for a scatter within the declared bytes (R142, R148, R149). -/
def Sys2Proof.Claims.ClusterFits (s : State) (scatter : Bool) (a : Nat) : Prop :=
  a % (s.cur.vec.w / 8) = 0 ∧ a < 2 ^ 25 ∧ s.cur.placeD.gidx / 8 * 8 + a / 2 ^ 22 % 8 < s.cur.placeD.gsize ∧
    (scatter = true → a % 2 ^ 22 + s.cur.vec.w / 8 ≤ s.cur.placeD.spBytes)

/-- R148, R149: VGATHC and VSCATC with a VL up to 256, sound sources and addresses that fit retire, the gather's register empty
and its elements on their way, or the scatter's elements queued in ascending order; GATHER_COMPLETE fills the register with
the elements found, as the X path sees them then, or as they were when a later access of the path to their lines fixed
them (R254; that a gather may be served as late as this, and what fixes it, is log 24, DEDUCED), a member whose work has ended giving
zeros (R400), and each segment the tag that the lines of its elements give; SCATTER_ELEMENT_APPLY performs the oldest element for a member as one write of the X path, which meets its line as
R149 says, and discards it when the member's work has ended (R400). -/
def Obligations.ClusterTransfers : Prop :=
  (∀ f s, Runs (.vgathc f) s → Claims.VectorReady s [srcA f, srcB f] false f.d →
    s.cur.vec.vstart.toNat < s.cur.vec.vl.toNat → s.cur.vec.vl.toNat ≤ 256 →
    (∀ g, s.cur.vec.vstart.toNat / 16 ≤ g → g ≤ (s.cur.vec.vl.toNat - 1) / 16 → Claims.Sound s f.b g) →
    (∀ i, Claims.active s false i = true → Claims.ClusterFits s false (Claims.clusterAddr s f i)) →
    s.cur.scatters = [] →
    Claims.Completes (.vgathc f) s (fun u => Claims.VectorFrame s u ∧ (u.cur.vreg f.d).empty = true ∧
      u.cur.producers.length = s.cur.producers.length + 1 ∧ ∃ es,
      es = ((List.range s.cur.vec.vl.toNat).filter (Claims.active s false)).map (fun i =>
        (i, clusterCore s s.turn.1 (Claims.clusterAddr s f i), Claims.clusterAddr s f i % 2 ^ 22)) ∧
      u.cur.producers.getLast? = some (.gather f.d.toNat es s.cur.vec.w s.cur.vec.vl.toNat
        (es.map (gatherElem s s.turn.1 s.cur.vec.w)) false))) ∧
  (∀ c n s reg es w vl got fixed xs, (s.core c).producers[n]? = some (.gather reg es w vl got fixed) → w ∈ [8, 16, 32] →
    0x40 ≤ reg → reg < 0x60 → xs = (if fixed then got else es.map (gatherElem s c w)) →
    ∃ t, exec (.gatherComplete c n) s = .next t ∧ t = s.setCore c (t.core c) ∧
      (t.core c).producers = (s.core c).producers.eraseIdx n ∧
      ((t.core c).vreg (BitVec.ofNat 8 reg)).empty = false ∧ (t.core c).x.evf = true ∧
      Claims.Filled w vl ((s.core c).vreg (BitVec.ofNat 8 reg)) ((t.core c).vreg (BitVec.ofNat 8 reg))
        (fun i => xs.any (fun e => e.1 == i))
        (fun g => gatherTag w ((xs.filter (fun e => e.1 / (512 / w) == g)).map (fun e => e.2.1)))
        (fun i => ((tabFind xs i).map (fun e => e.2)).getD 0)) ∧
  (∀ s c w (e : Nat × Option Nat × Nat),
    (∀ m, e.2.1 = some m → sameJobGang (s.core c) (s.core m) = true → gatherElem s c w e =
      (e.1, (viewImg s ⟨c, .x⟩ ⟨.sp m, e.2.2 / 64⟩).tag, lineBytes (viewImg s ⟨c, .x⟩ ⟨.sp m, e.2.2 / 64⟩).bits (e.2.2 % 64) (w / 8))) ∧
    ((∀ m, e.2.1 = some m → sameJobGang (s.core c) (s.core m) = false) → gatherElem s c w e = (e.1, 0x0000, 0))) ∧
  (∀ w (ts : List Tag), ts ≠ [] →
    (∀ l1 t l2, ts = l1 ++ t :: l2 → (∀ x ∈ l1, tagClass x = 0) → tagClass t ≠ 0 → gatherTag w ts = t) ∧
    (∀ t, (∀ x ∈ ts, x = t) → tagClass t = 0 → tagFmt t = 0 ∨ fmtWidth (tagFmt t) = w → gatherTag w ts = t) ∧
    ((∀ x ∈ ts, tagClass x = 0) → (∀ t, (∀ x ∈ ts, x = t) → tagFmt t ≠ 0 ∧ fmtWidth (tagFmt t) ≠ w) →
      gatherTag w ts = 0x0000)) ∧
  (∀ f s, Runs (.vscatc f) s → Claims.VectorReady s [srcA f, srcB f, srcC f] false 0 →
    s.cur.vec.vstart.toNat < s.cur.vec.vl.toNat → s.cur.vec.vl.toNat ≤ 256 →
    (∀ g, s.cur.vec.vstart.toNat / 16 ≤ g → g ≤ (s.cur.vec.vl.toNat - 1) / 16 → Claims.Sound s f.b g) →
    (∀ g, Claims.InRange s g → Claims.Sound s f.c g) →
    (∀ i, Claims.active s false i = true → Claims.ClusterFits s true (Claims.clusterAddr s f i)) →
    Claims.Completes (.vscatc f) s (fun u => Claims.VectorFrame s u ∧ u.cur.vec.v = s.cur.vec.v ∧
      u.cur.scatters = s.cur.scatters ++ ((List.range s.cur.vec.vl.toNat).filter (Claims.active s false)).filterMap
        (fun i => (clusterCore s s.turn.1 (Claims.clusterAddr s f i)).map (fun m => ⟨m, Claims.clusterAddr s f i % 2 ^ 22,
          s.cur.vec.w / 8, word ((s.cur.vreg f.c).slot s.cur.vec.w i),
          ((s.cur.vreg f.c).seg (i / Claims.slots s)).tag⟩)))) ∧
  (∀ c m s e, (s.core c).scatters.find? (fun x => x.member == m) = some e →
    ∃ t, exec (.scatterElementApply c m) s = .next t ∧ (t.core c).scatters = (s.core c).scatters.erase e ∧
      (sameJobGang (s.core c) (s.core m) = false → t.writes = s.writes) ∧
      (sameJobGang (s.core c) (s.core m) = true → ∃ r ∈ t.writes, r.loc = spLoc m e.addr ∧ r.writer = some ⟨c, .x⟩ ∧
        r.performed = true ∧ r.bits = setLineBytes 0 (e.addr % 64) e.bytes e.value.toNat ∧
        r.mask = byteMask (e.addr % 64) e.bytes ∧ ∀ book i,
          (tagClass e.tag ≠ 0 → applyRec book i r = ⟨mergeLine i.bits r.bits r.mask, e.tag, false⟩) ∧
          (tagClass e.tag = 0 → tagClass i.tag = 1 → applyRec book i r = ⟨mergeLine 0 r.bits r.mask, e.tag, false⟩) ∧
          (tagClass e.tag = 0 → 2 ≤ tagClass i.tag → applyRec book i r = i) ∧
          (tagClass e.tag = 0 → tagClass i.tag = 0 → applyRec book i r =
            if i.tag = e.tag then { i with bits := mergeLine i.bits r.bits r.mask }
            else ⟨mergeLine i.bits r.bits r.mask, 0x0000, false⟩)))

/-- The tags of the sources of each destination segment agree (R151): a segment whose sources are slots or a scalar takes
their one tag, and one that takes no source keeps A's. -/
def Sys2Proof.Claims.TagsAgree (s : State) (a : Code) (x : Word) (act : Nat → Bool) (src : Nat → SlotSrc) (tag : Nat → Tag) :
    Prop :=
  (∀ i, act i = true →
    (src i = .scalar → tag (i / Claims.slots s) = x.extractLsb' 48 16) ∧
    (∀ j, src i = .slot j → tag (i / Claims.slots s) = ((s.cur.vreg a).seg (j / Claims.slots s)).tag ∧
      Claims.Sound s a (j / Claims.slots s))) ∧
  ∀ g, (∀ i, act i = true → i / Claims.slots s = g → src i = .none) → tag g = ((s.cur.vreg a).seg g).tag

/-- The bits that a source gives (R151). -/
def Sys2Proof.Claims.sourceBits (s : State) (a : Code) (x : Word) : SlotSrc → Nat
  | .none => 0
  | .scalar => Claims.element s x
  | .slot j => (s.cur.vreg a).slot s.cur.vec.w j

/-- The completion of a slide whose active slots are those of the mask that `act` allows, each from its source (R152). -/
def Sys2Proof.Claims.Slide (i : RForm → Instr) (inserts : Bool) (act : Nat → Nat → Bool) (src : Nat → Nat → Nat → SlotSrc) :
    Prop :=
  ∀ f s x n (acts : Nat → Bool) tag, Runs (i f) s → Claims.VectorReady s [srcA f, srcB f] (mfMk f.m) f.d → x = s.src f.b →
    n = x.toNat → (∀ j, acts j = (Claims.active s (mfMk f.m) j && act n j)) →
    (inserts = true → ∀ j, acts j = true → Claims.TagFits s (x.extractLsb' 48 16)) →
    Claims.TagsAgree s f.a x acts (src n s.cur.vec.vl.toNat) tag →
    Claims.Completes (i f) s (fun u => Claims.VectorFrame s u ∧ u.cur.vec.fstat = s.cur.vec.fstat ∧
      Claims.Written s u f.d acts tag (fun j => Claims.sourceBits s f.a x (src n s.cur.vec.vl.toNat j)))

/-- The completion of a permutation of the slots below VL (R153); B's segments hold `per` slots or mask bits each. -/
def Sys2Proof.Claims.Permutation (i : RForm → Instr) (bits : Bool) (src : State → RForm → Nat → SlotSrc) : Prop :=
  ∀ f s (acts : Nat → Bool) tag, Runs (i f) s → Claims.VectorReady s [srcA f, srcB f] false f.d →
    (∀ j, acts j = decide (j < s.cur.vec.vl.toNat)) →
    (∀ g, g * (if bits then 512 else Claims.slots s) < s.cur.vec.vl.toNat → Claims.Sound s f.b g) →
    Claims.TagsAgree s f.a 0 acts (src s f) tag →
    Claims.Completes (i f) s (fun u => Claims.VectorFrame s u ∧ u.cur.vec.fstat = s.cur.vec.fstat ∧
      Claims.Written s u f.d acts tag (fun j => Claims.sourceBits s f.a 0 (src s f j)))

/-- The number of set mask bits of a register below `n`. -/
def Sys2Proof.Claims.setBelow (r : VReg) (n : Nat) : Nat := ((List.range n).filter (fun i => r.maskBit i)).length

/-- R151 to R153: the slides, VPERM, VCMPRS and VEXPND. -/
def Obligations.Permutations : Prop :=
  Claims.Slide .vslide1up true (fun _ _ => true) (fun _ _ i => if i = 0 then .scalar else .slot (i - 1)) ∧
  Claims.Slide .vslide1dn true (fun _ _ => true) (fun _ vl i => if i + 1 = vl then .scalar else .slot (i + 1)) ∧
  Claims.Slide .vslideup false (fun k i => decide (k ≤ i)) (fun k _ i => .slot (i - k)) ∧
  Claims.Slide .vslidedn false (fun _ _ => true) (fun k vl i => if i + k < vl then .slot (i + k) else .none) ∧
  Claims.Permutation .vperm false (fun s f i =>
    if (s.cur.vreg f.b).slot s.cur.vec.w i < s.cur.vec.vl.toNat then .slot ((s.cur.vreg f.b).slot s.cur.vec.w i) else .none) ∧
  Claims.Permutation .vcmprs true (fun s f i =>
    match (List.range s.cur.vec.vl.toNat).find? (fun j =>
        (s.cur.vreg f.b).maskBit j && Claims.setBelow (s.cur.vreg f.b) j == i) with
    | some j => .slot j
    | none => .none) ∧
  Claims.Permutation .vexpnd true (fun s f i =>
    if (s.cur.vreg f.b).maskBit i then .slot (Claims.setBelow (s.cur.vreg f.b) i) else .none)

/-- A reduction may run: its source decodable and allowed by the lattice in every segment from SegmentOf(`lo`) to
SegmentOf(VL − 1), and a width of 32 bits, or of 16 when it does not accumulate integers (R154). -/
def Sys2Proof.Claims.Reducible (s : State) (f : RForm) (lo : Nat) (int : Bool) : Prop :=
  s.cur.vec.vstart.toNat < s.cur.vec.vl.toNat ∧ (s.cur.vec.w = 32 ∨ (s.cur.vec.w = 16 ∧ int = false)) ∧
    ∀ g, lo / Claims.slots s ≤ g → g ≤ (s.cur.vec.vl.toNat - 1) / Claims.slots s →
      Claims.Decodable s f.a g ∧ (Claims.latticeAt s [srcA f] g).forbid = false

/-- The active slots of a reduction from `lo`, ascending. -/
def Sys2Proof.Claims.summands (s : State) (f : RForm) (lo : Nat) : List Nat :=
  (List.range s.cur.vec.vl.toNat).filter (fun i => decide (lo ≤ i) && (!mfMk f.m || (s.cur.vreg 0x40).maskBit i))

/-- A reduction accumulates integers: each segment with a summand is INT32, and with no summand each segment of the range
(R154). -/
def Sys2Proof.Claims.SumsIntegers (s : State) (f : RForm) (lo : Nat) : Prop :=
  ∀ g, (if Claims.summands s f lo = [] then lo / Claims.slots s ≤ g ∧ g ≤ (s.cur.vec.vl.toNat - 1) / Claims.slots s
    else ∃ i ∈ Claims.summands s f lo, i / Claims.slots s = g) → tagFmt ((s.cur.vreg f.a).seg g).tag = 8

/-- The segment that a reduction writes: the accumulator as INT32 or FP32, or rounded to BF16 under 16-bit slots (R154); and FSTAT with
the flags `fl` of the accumulation and those of that rounding (R67). -/
def Sys2Proof.Claims.Reduced (s u : State) (d : Code) (int : Bool) (rm : Rm) (acc : Nat) (fl : BitVec 6) : Prop :=
  u.cur.vec.fstat = s.cur.vec.fstat ||| (if int then 0 else fl ||| (if s.cur.vec.w = 16 then
      (roundTo (decodeFloat 1 acc false) 2 127 rm s.cur.vec.fz).2 else 0)) ∧
  u.cur.vec.vstart = 0 ∧ u.cur.vec.vrstate = 0 ∧ u.cur.vec.vl = s.cur.vec.vl ∧ u.cur.vec.vtype = s.cur.vec.vtype ∧
    (u.cur.vreg d).seg 0 = (if int then ⟨BitVec.ofNat 512 acc, 0x407F⟩
      else if s.cur.vec.w = 16 then ⟨BitVec.ofNat 512 (roundTo (decodeFloat 1 acc false) 2 127 rm s.cur.vec.fz).1, 0x107F⟩
      else ⟨BitVec.ofNat 512 acc, 0x087F⟩) ∧
    (∀ g, g ≠ 0 → (u.cur.vreg d).seg g = (s.cur.vreg d).seg g) ∧
    (∀ c, codeIsV c = true → c ≠ d → u.cur.vreg c = s.cur.vreg c) ∧ u.mem = s.mem ∧ u.writes = s.writes

/-- The ordered sum of values in FP32, with its flags (R94). -/
def Sys2Proof.Claims.orderedSum (rm : Rm) (fz : Bool) : List Val → Nat × BitVec 6
  | [] => (0, 0)
  | v :: r => r.foldl (fun a x => ((roundTo (valAdd rm (decodeFloat 1 a.1 false) x).1 1 127 rm fz).1,
      a.2 ||| (valAdd rm (decodeFloat 1 a.1 false) x).2 ||| (roundTo (valAdd rm (decodeFloat 1 a.1 false) x).1 1 127 rm fz).2))
      ((roundTo v 1 127 rm fz).1, Claims.signals [v] ||| (roundTo v 1 127 rm fz).2)

/-- Node(lo, 2^n) of R96, with its flags; none is ABSENT. -/
def Sys2Proof.Claims.node (rm : Rm) (fz : Bool) (x : Nat → Option Val) : Nat → Nat → Option (Nat × BitVec 6)
  | 0, lo => (x lo).map (fun v => ((roundTo v 1 127 rm fz).1, Claims.signals [v] ||| (roundTo v 1 127 rm fz).2))
  | n + 1, lo =>
    match Claims.node rm fz x n lo, Claims.node rm fz x n (lo + 2 ^ n) with
    | none, b => b
    | a, none => a
    | some a, some b =>
      let y := valAdd rm (decodeFloat 1 a.1 false) (decodeFloat 1 b.1 false)
      some ((roundTo y.1 1 127 rm fz).1, a.2 ||| b.2 ||| y.2 ||| (roundTo y.1 1 127 rm fz).2)

/-- R94 to R97, R154: VREDSUM.O adds the active slots in ascending order, each sum rounded to FP32, or modulo 2^32;
VREDSUM.T adds them in the tree of R96; VREDMAX and VREDMIN pick the greatest and the least, and give the canonical NaN where
a NaN is among them. That these three take the slots from 0 whatever VSTART below VL holds is log 28 (DEDUCED). -/
def Obligations.Reductions : Prop :=
  (∀ f s int rm acc fl, Runs (.vredsumO f) s → Claims.VectorReady s [srcA f] (mfMk f.m) f.d → s.cur.vec.vstart = 0 →
    (int = true ↔ Claims.SumsIntegers s f 0) → Claims.Reducible s f 0 int → rm = rmFor s.cur.vec (mfRmo f.m) →
    (int = true → acc = (((Claims.summands s f 0).map (fun i => (Claims.value s f.a i).toInt)).sum.emod (2 ^ 32)).toNat) →
    (int = false → (acc, fl) = Claims.orderedSum rm s.cur.vec.fz ((Claims.summands s f 0).map (Claims.value s f.a))) →
    Claims.Completes (.vredsumO f) s (fun u => Claims.Reduced s u f.d int rm acc fl)) ∧
  (∀ f s int rm acc fl x n, Runs (.vredsumT f) s → Claims.VectorReady s [srcA f] (mfMk f.m) f.d →
    Claims.MaskSound s (mfMk f.m) 0 →
    (int = true ↔ Claims.SumsIntegers s f 0) → Claims.Reducible s f 0 int → rm = rmFor s.cur.vec (mfRmo f.m) →
    (∀ i, x i = if i ∈ Claims.summands s f 0 then some (Claims.value s f.a i) else none) →
    (int = true → acc = (((Claims.summands s f 0).map (fun i => (Claims.value s f.a i).toInt)).sum.emod (2 ^ 32)).toNat) →
    s.cur.vec.vl.toNat ≤ 2 ^ n → (∀ k, s.cur.vec.vl.toNat ≤ 2 ^ k → n ≤ k) →
    (int = false → (acc, fl) = (Claims.node rm s.cur.vec.fz x n 0).getD (0, 0)) →
    Claims.Completes (.vredsumT f) s (fun u => Claims.Reduced s u f.d int rm acc fl)) ∧
  (∀ (i : RForm → Instr) (greatest : Bool) f s int rm, (i = .vredmax ∧ greatest = true) ∨ (i = .vredmin ∧ greatest = false) →
    Runs (i f) s → Claims.VectorReady s [srcA f] (mfMk f.m) f.d → Claims.MaskSound s (mfMk f.m) 0 →
    (int = true ↔ Claims.SumsIntegers s f 0) → Claims.Reducible s f 0 int → rm = rmFor s.cur.vec (mfRmo f.m) →
    Claims.Completes (i f) s (fun u => ∃ acc fl, Claims.Reduced s u f.d int rm acc fl ∧
      (Claims.summands s f 0 = [] → acc = 0 ∧ fl = 0) ∧
      ((∃ j ∈ Claims.summands s f 0, (Claims.value s f.a j).isNan = true) → acc = 0x7FC00000 ∧
        fl = Claims.signals ((Claims.summands s f 0).map (Claims.value s f.a))) ∧
      (Claims.summands s f 0 ≠ [] → (∀ j ∈ Claims.summands s f 0, (Claims.value s f.a j).isNan = false) →
        ∃ n ∈ Claims.summands s f 0, (∀ j ∈ Claims.summands s f 0,
          ¬(if greatest then Claims.Under (Claims.value s f.a n) (Claims.value s f.a j)
            else Claims.Under (Claims.value s f.a j) (Claims.value s f.a n))) ∧
          (acc, fl) = roundTo (Claims.value s f.a n) (if int then 8 else 1) 127 rm s.cur.vec.fz))) ∧
  (∀ (i : RForm → Instr) f s, i = .vredsumO ∨ i = .vredsumT ∨ i = .vredmax ∨ i = .vredmin → Runs (i f) s →
    Claims.VectorReady s [srcA f] (mfMk f.m) f.d → s.cur.vec.vl.toNat ≤ s.cur.vec.vstart.toNat →
    Claims.Completes (i f) s (fun u => Claims.VectorFrame s u ∧ u.cur.vec.v = s.cur.vec.v))

/-- The completion of a conversion: A decodable in every segment, the values that `values` makes of those of a segment's active
slots rounded once into the format `rf`, under the SCALE that they choose (R155, R157, R158), with the flags of what is decoded and
rounded. -/
def Sys2Proof.Claims.Conversion (i : RForm → Instr) (srcs : RForm → List Src) (rf : RForm → Nat → Nat)
    (values : State → RForm → Rm → List Val → List (Val × BitVec 6)) : Prop :=
  ∀ f s rm (fmt k : Nat → Nat) (is : Nat → List Nat) (vs : Nat → List (Val × BitVec 6)) (out : Nat → Nat), Runs (i f) s →
    Claims.VectorReady s (srcs f) (mfMk f.m) f.d → rm = rmFor s.cur.vec (mfRmo f.m) →
    (mfTov f.m = 9 → (s.cur.bookSlot 255).state = .full ∧ (s.cur.bookSlot 255).vclass = 0) →
    (∀ g, fmt g = rf f (tagFmt ((s.cur.vreg f.a).seg g).tag)) →
    (∀ g, Claims.InRange s g → Claims.Decodable s f.a g ∧ fmtWidth (fmt g) ≤ s.cur.vec.w ∧ (fmt g = 9 → mfTov f.m = 9)) →
    (∀ g, is g = ((List.range (Claims.slots s)).map (fun n => g * Claims.slots s + n)).filter
      (Claims.active s (mfMk f.m))) →
    (∀ g, vs g = values s f rm ((is g).map (Claims.value s f.a))) →
    (∀ g, k g = if fmt g = 9 then 255 else scaleFor ((vs g).map (fun x => x.1)) (fmt g)) →
    (∀ (g n j : Nat) (v : Val × BitVec 6), (is g)[n]? = some j → (vs g)[n]? = some v →
      out j = (roundAny (bookOf s.cur) v.1 (fmt g) (k g) rm s.cur.vec.fz).1) →
    Claims.Completes (i f) s (fun u => Claims.VectorFrame s u ∧
      Claims.Written s u f.d (Claims.active s (mfMk f.m)) (fun g => mkTag (fmt g) 0 (k g)) out ∧
      ∀ b, u.cur.vec.fstat.getLsbD b = true ↔ s.cur.vec.fstat.getLsbD b = true ∨
        ∃ g, (Claims.signals ((is g).map (Claims.value s f.a))).getLsbD b = true ∨
          ∃ v ∈ vs g, (v.2 ||| (roundAny (bookOf s.cur) v.1 (fmt g) (k g) rm s.cur.vec.fz).2).getLsbD b = true)

/-- R155, R157, R158: VCVT rounds each value into the format of TOV; VSCALE multiplies it by 2^B first, where the clamp of B to
±4,096 is log 27 (DEDUCED); VQNT rounds to the
format of TOV under one SCALE, and stores what that gives in A's own format. -/
def Obligations.Conversions : Prop :=
  Claims.Conversion .vcvt (fun f => [srcA f]) (fun f _ => mfTov f.m) (fun _ _ _ l => l.map (fun x => (x, 0))) ∧
  Claims.Conversion .vscale (fun f => [srcA f, srcB f])
    (fun f fa => if mfTov f.m = 0 then (if fa = 9 then 2 else fa) else mfTov f.m)
    (fun s f _ l => l.map (fun x => (x.shift (max (-4096) (min 4096 (s.src f.b).toInt)), 0))) ∧
  Claims.Conversion .vqnt (fun f => [srcA f]) (fun _ fa => if fa = 9 then 2 else fa)
    (fun s f rm l => l.map (fun x => (decodeElem (fun _ _ => 0)
      (roundTo x (mfTov f.m) (scaleFor l (mfTov f.m)) rm s.cur.vec.fz).1 (mkTag (mfTov f.m) 0 (scaleFor l (mfTov f.m))) false,
      (roundTo x (mfTov f.m) (scaleFor l (mfTov f.m)) rm s.cur.vec.fz).2)))

/-- The code of slot `i` of an expansion: `c` bits of A's bit stream from bit B + c·i (R78, R159). -/
def Sys2Proof.Claims.code (r : VReg) (b c i : Nat) : Nat :=
  ((List.range c).map (fun j => if r.maskBit (b + c * i + j) then 2 ^ j else 0)).sum

/-- R159 to R161: CBLOAD leaves its slot PENDING with a table of 32 bytes on its way, waits while it is PENDING already, and
traps ALIGN at an address that is no multiple of 32. That the table is as the A path sees it at issue, where step 5 of R160
takes the bytes when the line arrives, is log 24 (DESIGN CHOICE). CBLOAD_COMPLETE makes the slot FULL with the table, and writes the
register of the expansion that waits for it. VDEQ, with a FULL slot, writes to each active slot the entry that its code
names, or zero under the slot's class; with a PENDING slot its register becomes empty and the expansion waits; codes beyond
the register trap BOUND, and an UNLOADED slot, or with EA a PENDING one, EMPTY_READ. -/
def Obligations.Codebooks : Prop :=
  (∀ f s n, Runs (.cbload f) s → SourcesReady s [srcA f, srcB f] → n = (s.src f.b).toNat % 256 →
    ((s.cur.bookSlot n).state = .pending → exec (.cbload f) s =
      .next (s.modStrm (fun st => { st with wait := some ⟨.book, firstWord (.cbload f)⟩ }))) ∧
    ((s.cur.bookSlot n).state ≠ .pending → (s.src f.a).toNat % 32 ≠ 0 → exec (.cbload f) s =
      .next (takeTrap s.turn.1 s.turn.2 .align (s.src f.a) s.strm.pc .instr s)) ∧
    ∀ x l i s1, (s.cur.bookSlot n).state ≠ .pending → (s.src f.a).toNat % 32 = 0 →
      Claims.Reaches s .read (s.src f.a).toNat x l → Claims.NoAcquire s →
      (i, s1) = readLine s.turn.1 .a x (s.src f.a).toNat l (orderAt s.turn.1 l none (fillTlb s.turn.1 x s)) →
      Claims.Completes (.cbload f) s (fun u => (u.cur.bookSlot n).state = .pending ∧
        (u.cur.bookSlot n).nextEntries = BitVec.ofNat 256 (lineBytes i.bits ((s.src f.a).toNat % 64) 32) ∧
        (u.cur.bookSlot n).nextClass = BitVec.ofNat 3 (tagClass i.tag) ∧
        (∀ m, m ≠ n → u.cur.bookSlot m = s.cur.bookSlot m) ∧ u.writes = s1.writes ∧
        (pteClass x.leaf < 2 → (∀ r ∈ s.writes, r.apage = none) → i = spanned x (viewImg s ⟨s.turn.1, .a⟩ l)))) ∧
  (∀ c n s, (((s.core c).bookSlot n).state ≠ .pending → exec (.cbloadComplete c n) s = .next s) ∧
    (((s.core c).bookSlot n).state = .pending → ∃ t, exec (.cbloadComplete c n) s = .next t ∧
      t = s.setCore c (t.core c) ∧ ((t.core c).bookSlot n).state = .full ∧
      ((t.core c).bookSlot n).vclass = ((s.core c).bookSlot n).nextClass ∧
      ((t.core c).bookSlot n).entries = ((s.core c).bookSlot n).nextEntries ∧
      (∀ m, m ≠ n → (t.core c).bookSlot m = (s.core c).bookSlot m) ∧ (t.core c).a.evf = true ∧ (t.core c).x.evf = true ∧
      ∀ l1 l2 reg codes tov w vl rm fz, (s.core c).producers = l1 ++ .vdeq reg n codes tov w vl rm fz :: l2 →
        (∀ p ∈ l1 ++ l2, ∀ reg' codes' tov' w' vl' rm' fz', p ≠ .vdeq reg' n codes' tov' w' vl' rm' fz') →
        w ∈ [8, 16, 32] → (t.core c).producers = l1 ++ l2 ∧ ((t.core c).vreg (BitVec.ofNat 8 reg)).empty = false ∧
          (((s.core c).bookSlot n).nextClass = 0 → tov = 0 → (t.core c).vec.fstat = (s.core c).vec.fstat ∧
            Claims.Filled w vl ((s.core c).vreg (BitVec.ofNat 8 reg)) ((t.core c).vreg (BitVec.ofNat 8 reg))
              (fun i => codes.any (fun e => e.1 == i)) (fun _ => 0x107F)
              (fun i => bookOf (t.core c) n (tabGet 0 codes i))))) ∧
  (∀ f s b c n, Runs (.vdeq f) s → Claims.VectorReady s [srcA f, srcB f, srcC f] (mfMk f.m) f.d → b = (s.src f.b).toNat →
    c = (if bit (s.src f.c) 8 then 4 else 3) → n = (s.src f.c).toNat % 256 →
    (s.cur.vec.vl.toNat ≤ s.cur.vec.vstart.toNat → Claims.Completes (.vdeq f) s (fun u => Claims.VectorFrame s u ∧
      u.cur.vec.v = s.cur.vec.v ∧ u.cur.vec.fstat = s.cur.vec.fstat)) ∧
    (s.cur.vec.vstart.toNat < s.cur.vec.vl.toNat →
      Nat.min s.cur.units.vlcap.toNat (64 * s.cur.units.lanes) * 8 < b + c * s.cur.vec.vl.toNat →
      exec (.vdeq f) s = .next (takeTrap s.turn.1 s.turn.2 .bound (word (b + c * s.cur.vec.vl.toNat)) s.strm.pc .instr s)) ∧
    (s.cur.vec.vstart.toNat < s.cur.vec.vl.toNat →
      b + c * s.cur.vec.vl.toNat ≤ Nat.min s.cur.units.vlcap.toNat (64 * s.cur.units.lanes) * 8 →
      (∀ g, g < 16 → (∃ i, Claims.active s (mfMk f.m) i = true ∧ (b + c * i) / 512 ≤ g ∧ g ≤ (b + c * i + c - 1) / 512) →
        Claims.Sound s f.a g ∧ tagClass ((s.cur.vreg f.a).seg g).tag = 0 ∧ tagFmt ((s.cur.vreg f.a).seg g).tag = 0) →
      fmtWidth (if mfTov f.m = 0 then 2 else mfTov f.m) ≤ s.cur.vec.w →
      ((s.cur.bookSlot n).state = .unloaded ∨ ((s.cur.bookSlot n).state = .pending ∧ f.ea = true) →
        exec (.vdeq f) s = .next (takeTrap s.turn.1 s.turn.2 .emptyRead (word (0x100 + n)) s.strm.pc .instr s)) ∧
      ((s.cur.bookSlot n).state = .full → (s.cur.bookSlot n).vclass ≠ 0 →
        Claims.Completes (.vdeq f) s (fun u => Claims.VectorFrame s u ∧ u.cur.vec.fstat = s.cur.vec.fstat ∧
          Claims.Written s u f.d (Claims.active s (mfMk f.m))
            (fun _ => mkTag (if mfTov f.m = 0 then 2 else mfTov f.m) (s.cur.bookSlot n).vclass.toNat 127) (fun _ => 0))) ∧
      ((s.cur.bookSlot n).state = .full → (s.cur.bookSlot n).vclass = 0 → mfTov f.m = 0 →
        Claims.Completes (.vdeq f) s (fun u => Claims.VectorFrame s u ∧ u.cur.vec.fstat = s.cur.vec.fstat ∧
          Claims.Written s u f.d (Claims.active s (mfMk f.m)) (fun _ => 0x107F)
            (fun i => bookOf s.cur n (Claims.code (s.cur.vreg f.a) b c i)))) ∧
      ((s.cur.bookSlot n).state = .full → (s.cur.bookSlot n).vclass = 0 → mfTov f.m ≠ 0 → ∀ k : Nat → Nat,
        (∀ g, k g = scaleFor (((List.range (Claims.slots s)).map (fun j => g * Claims.slots s + j)).filter
          (Claims.active s (mfMk f.m)) |>.map (fun i => decodeFloat 2 (bookOf s.cur n (Claims.code (s.cur.vreg f.a) b c i))
            s.cur.vec.fz)) (mfTov f.m)) →
        Claims.Completes (.vdeq f) s (fun u => Claims.VectorFrame s u ∧
          Claims.Written s u f.d (Claims.active s (mfMk f.m)) (fun g => mkTag (mfTov f.m) 0 (k g))
            (fun i => (roundTo (decodeFloat 2 (bookOf s.cur n (Claims.code (s.cur.vreg f.a) b c i)) s.cur.vec.fz) (mfTov f.m)
              (k (i / Claims.slots s)) (rmFor s.cur.vec (mfRmo f.m)) s.cur.vec.fz).1))) ∧
      ((s.cur.bookSlot n).state = .pending → f.ea = false →
        Claims.Completes (.vdeq f) s (fun u => Claims.VectorFrame s u ∧ u.cur.vec.fstat = s.cur.vec.fstat ∧
          (u.cur.vreg f.d).empty = true ∧ (u.cur.vreg f.d).segs = (s.cur.vreg f.d).segs ∧
          u.cur.producers = s.cur.producers ++ [.vdeq f.d.toNat n
            (((List.range s.cur.vec.vl.toNat).filter (Claims.active s (mfMk f.m))).map
              (fun i => (i, Claims.code (s.cur.vreg f.a) b c i)))
            (mfTov f.m) s.cur.vec.w s.cur.vec.vl.toNat (rmFor s.cur.vec (mfRmo f.m)).code s.cur.vec.fz]))))

/-! ### Tags, the lattice, translations and freed pages (R160, R162 to R164, R367, R368) -/

/-- R162: TGET writes to D the tag of the line as a load of A would read it. R163: TSET adds one performed write of A, which in
its place in line order keeps the data of a VALID line, but for the bytes beyond the span of an RC page's line, gives an
UNINIT line zero data, both under the tag given, and leaves any other line. -/
def Sys2Proof.Claims.LineTags : Prop :=
  (∀ f s a x l i s1, Runs (.tget f) s → SourcesReady s [srcA f] → DestReady s f.d → a = s.src f.a →
    Claims.Reaches s .read a.toNat x l → Claims.NoAcquire s →
    (i, s1) = readLine s.turn.1 .a x a.toNat l (orderAt s.turn.1 l none (fillTlb s.turn.1 x s)) →
    Claims.Completes (.tget f) s (fun u => u.writes = s1.writes ∧ u.mem = s.mem ∧
      (codeIsQ f.d = false → f.d ≠ 0 → u.strm.reg f.d = i.tag.setWidth 64) ∧
      (codeIsQ f.d = true → (u.cur.queue f.d).getLast? = some ⟨i.tag.setWidth 512, 0x0000, false⟩))) ∧
  (∀ f s a x l t rc, Runs (.tset f) s → SourcesReady s [srcA f, srcB f] → a = s.src f.a → t = (s.src f.b).setWidth 16 →
    tagClass t < 4 → tagFmt t ≤ 9 → Claims.Reaches s .write a.toNat x l → pteClass x.leaf < 2 →
    rc = (pteClass x.leaf == 1) → (rc = true → rcFormat (tagFmt t) = true) → Claims.NoAcquire s →
    creditFor s l ≤ s.cur.credit →
    Claims.Completes (.tset f) s (fun u => ∃ r ∈ u.writes, r.loc = l ∧ r.writer = some ⟨s.turn.1, .a⟩ ∧
      r.performed = true ∧ r.pub = none ∧ r.mask = 0 ∧ r.bits = 0 ∧ (l.space ≠ .host → ∀ book i,
        (2 ≤ tagClass i.tag → applyRec book i r = i) ∧
        (tagClass i.tag = 1 → (applyRec book i r).bits = 0 ∧ (applyRec book i r).tag = t) ∧
        (tagClass i.tag = 0 → (applyRec book i r).tag = t ∧ (applyRec book i r).bits =
          if rc ∧ 0 < fmtWidth (tagFmt t) then BitVec.ofNat 512 (i.bits.toNat % 2 ^ (32 * fmtWidth (tagFmt t)))
          else i.bits))))

/-- An index of the lattice: below 256, with both formats at most 9 (R83). -/
def Sys2Proof.Claims.GoodIndex (v : Word) : Prop := v.toNat < 256 ∧ v.toNat / 16 ≤ 9 ∧ v.toNat % 16 ≤ 9

/-- R83: an entry is 0x8000, or holds FORBID 0, RF of 1 to 8, CF of 1 or 8, MI and four zero bits, where CF = 8 needs three
integer formats and MI two. -/
def Sys2Proof.Claims.GoodEntry (i : Nat) (e : BitVec 16) : Prop :=
  e = 0x8000 ∨ (e.toNat < 2 ^ 15 ∧ e.toNat % 16 = 0 ∧ 1 ≤ e.toNat / 1024 ∧ e.toNat / 1024 ≤ 8 ∧
    (e.toNat / 32 % 32 = 1 ∨ (e.toNat / 32 % 32 = 8 ∧ fmtIsInt (i / 16) = true ∧ fmtIsInt (i % 16) = true ∧
      fmtIsInt (e.toNat / 1024) = true)) ∧
    (e.toNat / 16 % 2 = 1 → fmtIsInt (i / 16) = true ∧ fmtIsInt (i % 16) = true))

/-- R83, R164: LATW with a good index and a good entry writes that entry of the guest's lattice and no other; LATR gives the
entry at its index to D, as the lattice holds it; a bad index traps ILLEGAL with TVAL = s[A], and a bad entry at a good
index with TVAL = s[B]. -/
def Sys2Proof.Claims.Lattice : Prop :=
  (∀ f s i e, Runs (.latw f) s → SourcesReady s [srcA f, srcB f] → i = s.src f.a → e = (s.src f.b).setWidth 16 →
    (Claims.GoodIndex i → Claims.GoodEntry i.toNat e → Claims.Completes (.latw f) s (fun u =>
      (∀ fa fb, fa < 16 → fb < 16 → latticeEntry (latticeOf u) fa fb =
        if 16 * fa + fb = i.toNat then e else latticeEntry (latticeOf s) fa fb) ∧
      (∀ g, g ≠ s.guestOf s.turn.1 → u.guest g = s.guest g) ∧ u.writes = s.writes ∧ ∀ c, u.strm.reg c = s.strm.reg c)) ∧
    (¬ Claims.GoodIndex i → exec (.latw f) s = .next (takeTrap s.turn.1 s.turn.2 .illegal i s.strm.pc .instr s)) ∧
    (Claims.GoodIndex i → ¬ Claims.GoodEntry i.toNat e →
      exec (.latw f) s = .next (takeTrap s.turn.1 s.turn.2 .illegal (s.src f.b) s.strm.pc .instr s))) ∧
  (∀ f s i, Runs (.latr f) s → SourcesReady s [srcA f] → i = s.src f.a →
    (Claims.GoodIndex i → DestReady s f.d → exec (.latr f) s = .next (s.done (.latr f) (s.wrote [srcA f] f.d
      ((latticeEntry (latticeOf s) (i.toNat / 16) (i.toNat % 16)).setWidth 64)))) ∧
    (¬ Claims.GoodIndex i → exec (.latr f) s = .next (takeTrap s.turn.1 s.turn.2 .illegal i s.strm.pc .instr s)))

/-- R367: TLBINV leaves no cached translation that it names on a core of the guest; it retires when no pin of the guest is on one,
and waits at its address while one is; an operand with a bit of [63:48] or [11:1] set traps ILLEGAL. R368: SEALFREE on a
SEALED page starts its shootdown, or joins the one in progress, and waits; the end of the shootdown, which waits for the homes
of the page's lines (R325), turns every line of the page into zeros under 0x0300, published, with no replica left; a SEALFREE
that asked for it then retires. -/
def Obligations.InvalidateAndFree : Prop :=
  (∀ f s v g, Runs (.tlbinv f) s → SourcesReady s [srcA f] → v = s.src f.a → g = s.guestOf s.turn.1 → s.Serving →
    (fld v 48 16 = 0 → fld v 1 11 = 0 →
      ((∀ x ∈ guestPins s g, tlbinvHits v x = false) → Claims.Completes (.tlbinv f) s (fun u =>
        (∀ c, (s.core c).guest = some g → ∀ x ∈ (u.core c).tlb, tlbinvHits v x = false) ∧
        ∀ r ∈ s.writes, r.performed = true → ⟨s.turn.1, .a⟩ ∈ r.viewers → unperformed s s.turn.1 = [] →
          ∃ r' ∈ u.writes, r'.id = r.id ∧ r'.bits = r.bits ∧ r'.pubAt .guest = true)) ∧
      ((∃ x ∈ guestPins s g, tlbinvHits v x = true) → ∃ t, exec (.tlbinv f) s = .next t ∧ t.strm.pc = s.strm.pc ∧
        t.strm.wait = some ⟨.system, firstWord (.tlbinv f)⟩ ∧
        ∀ c, (s.core c).guest = some g → ∀ x ∈ (t.core c).tlb, tlbinvHits v x = false)) ∧
    (fld v 48 16 ≠ 0 ∨ fld v 1 11 ≠ 0 →
      exec (.tlbinv f) s = .next (takeTrap s.turn.1 s.turn.2 .illegal v s.strm.pc .instr s))) ∧
  (∀ f s v g x l w, Runs (.sealfree f) s → SourcesReady s [srcA f] → v = s.src f.a → g = s.guestOf s.turn.1 →
    Claims.Reaches s .free v.toNat x l → pteClass x.leaf = 3 → pageState s g x.gpa = .ok w → psSealed w = true →
    (x.gpa ∈ s.strm.freeing → x.gpa ∈ (s.guest g).freed → x ∉ (s.guest g).shooting →
      Claims.Completes (.sealfree f) s (fun u => u.writes = s.writes ∧ u.mem = s.mem ∧ x.gpa ∉ u.strm.freeing)) ∧
    (x.gpa ∉ s.strm.freeing ∨ x.gpa ∉ (s.guest g).freed ∨ x ∈ (s.guest g).shooting →
      ∃ t, exec (.sealfree f) s = .next t ∧ t.strm.pc = s.strm.pc ∧ t.strm.wait = some ⟨.sealfree, firstWord (.sealfree f)⟩ ∧
        x.gpa ∈ t.strm.freeing ∧ x ∈ (t.guest g).shooting ∧ t.writes = s.writes)) ∧
  (∀ s g x gva n l, (s.guest g).shooting.find? (fun y => y.covers gva) = some x → n < x.size / 64 →
    placeGpa s g 1 true (x.gpa + 64 * n) = .ok l → homeOpen s l = false → exec (.replicaShootdownDone g gva) s = .next s) ∧
  (∀ s g x gva, (s.guest g).shooting.find? (fun y => y.covers gva) = some x →
    (∀ n l, n < x.size / 64 → placeGpa s g 1 true (x.gpa + 64 * n) = .ok l → homeOpen s l = true) → ∃ t,
    exec (.replicaShootdownDone g gva) s = .next t ∧ x ∉ (t.guest g).shooting ∧ x.gpa ∈ (t.guest g).freed ∧
    (∀ c st, (t.streamAt c st).freeing = (s.streamAt c st).freeing ∧ (t.streamAt c st).pc = (s.streamAt c st).pc) ∧
    (∀ r ∈ t.replicas, r.guest = g → ¬ (hpaOf (s.guest g) x.gpa / 64 ≤ r.line ∧
      r.line < hpaOf (s.guest g) x.gpa / 64 + x.size / 64)) ∧
    ∀ n l, n < x.size / 64 → placeGpa s g 1 true (x.gpa + 64 * n) = .ok l →
      ∃ r ∈ t.writes, r.loc = l ∧ r.bits = 0 ∧ r.mask = BitVec.allOnes 64 ∧ r.pub = some .system ∧
        (l.space ≠ .host → r.tag = some 0x0300))

/-! ### Page faults and violations: records and answers (R223, R224, R311, R335 to R337) -/

/-- A stream has trapped as R354 says, without the state that TSTAT keeps. -/
def Sys2Proof.Claims.Trapped (st st' : Stream) (cause : Cause) (tval : Nat) : Prop :=
  st'.level = .s ∧ st'.tcause.toNat = cause.code ∧ st'.tval = word tval ∧ st'.tpc = st.pc &&& 0xFFFFFFFFFFF8 ∧
    st'.pc = st.sentry &&& 0xFFFFFFFFFFF8

/-- R223, R224, R325, R357, R384: the oldest unwritten fault record goes to the slot of FQTAIL when the queue has room and the
slot's home serves it, and FQTAIL advances. An answer to a written record takes the record away; RETRY lets a stream on its
core go on from its pc; ABORT makes one at U take trap PAGE with TVAL = the faulting GVA; that it ends one at S is log 41
(DEDUCED). A frozen function drops the answer with REASON 4. The answers to a page fault of a copy engine are not stated. -/
def Sys2Proof.Claims.FaultAnswers : Prop :=
  (∀ s g r n a l, (s.guest g).faults.find? (fun r => !r.written) = some r →
    ringSize (fld ((s.guest g).reg 0x418) 0 5) 16 = some n →
    a = fld ((s.guest g).reg 0x410) 5 43 * 32 + 32 * (((s.guest g).reg 0x420).toNat % n) →
    (n ≤ ((s.guest g).reg 0x420 - (s.guest g).reg 0x428).toNat → exec (.faultRecordWrite g) s = .next s) ∧
    (placeGpa s g 1 true a = .ok l → homeOpen s l = false → exec (.faultRecordWrite g) s = .next s) ∧
    (((s.guest g).reg 0x420 - (s.guest g).reg 0x428).toNat < n → placeGpa s g 1 true a = .ok l → homeOpen s l = true →
      ∃ t, exec (.faultRecordWrite g) s = .next t ∧ (t.guest g).reg 0x420 = (s.guest g).reg 0x420 + 1 ∧
        (∀ r' ∈ (t.guest g).faults, r'.seq = r.seq → r'.written = true) ∧ t.cores = s.cores ∧
        ∃ w ∈ t.writes, w.loc = l ∧ w.pub = some .system ∧ w.performed = true ∧
          lineBytes w.bits (a % 64) 32 = faultRecBits r)) ∧
  (∀ (i : Nat → Nat → Instr) s g seq, i = .frespRetry ∨ i = .frespAbort → (s.guest g).frozen.isSome = true →
    exec (i g seq) s = .next (hostError (.vf g) 0 0x430 4 s)) ∧
  (∀ s g seq r, (s.guest g).frozen = none → r ∈ (s.guest g).faults → r.seq = seq → r.written = true →
    (∃ t, exec (.frespRetry g seq) s = .next t ∧ (∀ r ∈ (t.guest g).faults, r.seq ≠ seq) ∧
      ∀ c st p, (s.core c).guest = some g → (s.core c).mode = .run → (s.streamAt c st).pfault = some p → p.seq = seq →
        (t.streamAt c st).pfault = none ∧ (t.streamAt c st).pc = (s.streamAt c st).pc ∧
        (t.streamAt c st).level = (s.streamAt c st).level) ∧
    (∃ t, exec (.frespAbort g seq) s = .next t ∧ (∀ r ∈ (t.guest g).faults, r.seq ≠ seq) ∧
      ∀ c st p, (s.core c).guest = some g → (s.core c).mode = .run → (s.streamAt c st).pfault = some p → p.seq = seq →
        (t.streamAt c st).pfault = none ∧
        ((s.streamAt c st).level = .u → Claims.Trapped (s.streamAt c st) (t.streamAt c st) .page p.gva) ∧
        ((s.streamAt c st).level = .s → (t.streamAt c st).ended = true ∧ (t.streamAt c st).pc = (s.streamAt c st).pc)))

/-- The answers of the host to a violation (R337). -/
def Sys2Proof.Claims.answer (n : Nat) : Nat → Instr :=
  if n = 1 then .frzrespResume else if n = 2 then .frzrespTrap else .frzrespDiscard

/-- R335, R337: the oldest unwritten violation record goes to the slot of VQTAIL when the ring has room, and VQTAIL advances.
RESUME lets the frozen stream re-execute its instruction; TRAP makes it take ILLEGAL with the detail of a privilege
violation, or BOUND with the GVA; DISCARD ends the job's work on its core and clears the core, which keeps VLCAP with its tenant
(R115). A frozen function goes on, or its guest is disabled and enabled; a frozen peer's link is down, and that a DISCARD also
withdraws the request to train it is the model's choice (log 55). -/
def Sys2Proof.Claims.ViolationAnswers : Prop :=
  (∀ s r n a, s.viols.find? (fun r => !r.written) = some r → ringSize (fld (s.pfReg 0x50008) 0 5) 12 = some n →
    a = fld (s.pfReg 0x50000) 6 58 * 64 + 64 * ((s.pfReg 0x50010).toNat % n) →
    (n ≤ (s.pfReg 0x50010 - s.pfReg 0x50018).toNat → exec .violationRecordWrite s = .next s) ∧
    ((s.pfReg 0x50010 - s.pfReg 0x50018).toNat < n → ∃ t, exec .violationRecordWrite s = .next t ∧
      t.pfReg 0x50010 = s.pfReg 0x50010 + 1 ∧ (∀ r' ∈ t.viols, r'.seq = r.seq → r'.written = true) ∧ t.cores = s.cores ∧
      ∃ w ∈ t.writes, w.loc = ⟨.host, a / 64⟩ ∧ w.pub = some .system ∧ w.mask = BitVec.allOnes 64 ∧
        w.bits = BitVec.ofNat 512 (violRecBits r))) ∧
  (∀ n s seq c k st v, 1 ≤ n → n ≤ 3 → s.cores.find? (fun e => frozenIn seq e.2) = some (c, k) → k = s.core c →
    (st = .a ∨ (s.core c).a.frozen ≠ some seq) → (s.streamAt c st).frozen = some seq → violOf s seq = some v →
    ∃ t, exec (Claims.answer n seq) s = .next t ∧ (∀ r ∈ t.viols, r.seq = seq → r.written = false) ∧
      (n = 1 → (t.streamAt c st).frozen = none ∧ (t.streamAt c st).pc = (s.streamAt c st).pc ∧
        (t.streamAt c st).level = (s.streamAt c st).level ∧ t.mem = s.mem) ∧
      (n = 2 → (t.streamAt c st).frozen = none ∧ Claims.Trapped (s.streamAt c st) (t.streamAt c st)
        (if v.kind = 3 then .illegal else .bound) (if v.kind = 3 then v.detail else v.gva)) ∧
      (n = 3 → (s.core c).place.isSome = true → (s.core c).mode = .run → (t.core c).mode = .idle ∧
        (t.core c).place = none ∧ (t.core c).tlb = [] ∧ (t.core c).near = [] ∧ (t.core c).units = (s.core c).units)) ∧
  (∀ n s seq g x, 1 ≤ n → n ≤ 3 → s.cores.find? (fun e => frozenIn seq e.2) = none →
    s.guests.find? (fun e => decide (e.2.frozen = some seq)) = some (g, x) →
    ∃ t, exec (Claims.answer n seq) s = .next t ∧ (t.guest g).frozen = none ∧
      (n < 3 → (t.guest g).en = (s.guest g).en ∧ (t.guest g).faults = (s.guest g).faults) ∧
      (n = 3 → (t.guest g).en = true ∧ (t.guest g).drained = [] ∧ (t.guest g).lattice = [])) ∧
  (∀ n s seq l, 1 ≤ n → n ≤ 3 → s.cores.find? (fun e => frozenIn seq e.2) = none →
    s.guests.find? (fun e => decide (e.2.frozen = some seq)) = none → s.peerFrozen.find? (fun e => e.2 == seq) = some (l, seq) →
    l < 16 → ∃ t, exec (Claims.answer n seq) s = .next t ∧ tabFind t.peerFrozen l = none ∧
      bit (t.pfReg linkstatOff) l = false ∧ (n = 3 → bit (t.pfReg linkctlOff) l = false))

/-- R311: after 65,536 cycles in which QIDLE advances, every stream of the core in a counted wait, for which it still has to wait,
traps QUEUE_CYCLE at the instruction it waits at, with TVAL the code of the queue, 0 at an RDV, and the instruction word else;
the other stream stays. That every wait for pin entries counts, and that TVAL of a push behind an earlier stream is the word, is
log 60 (DESIGN CHOICE). -/
def Sys2Proof.Claims.QueueCycles : Prop :=
  ∀ s c, 65536 ≤ (s.core c).qidle → qidleAdvances s c = true → ∃ t, exec (.queueCycle c) s = .next t ∧
    (t.core c).qidle = 0 ∧ t.mem = s.mem ∧ t.writes = s.writes ∧
    ∀ st, (s.inCounted c st = true → ∀ w, (s.streamAt c st).wait = some w →
        Claims.Trapped (s.streamAt c st) (t.streamAt c st) .queueCycle
          (match w.why with | .queue q _ => q.toNat | .rdv => 0 | _ => w.word.toNat)) ∧
      (s.inCounted c st = false → t.streamAt c st = s.streamAt c st)

/-! ### Work and launch queues (R113, R297 to R309) -/

/-- R113, R302, R309, log 41: when both streams of a member have ended, its engines hold nothing, no ganged product that it leads runs
and its writes have performed, its work ends: the core returns to the Porter of its guest, whose evaluation is due, without a
job, and no write names it as its writer; that its credit goes back and that it stands as at job start is log 41 (DEDUCED). -/
def Sys2Proof.Claims.WorkEnds : Prop :=
  ∀ s c, mayEnd s c = true → ∃ t, exec (.coreWorkEnd c) s = .next t ∧ (t.core c).mode = .idle ∧ (t.core c).place = none ∧
    (t.core c).guest = (s.core c).guest ∧ (t.core c).credit = 0 ∧ (t.core c).units = (s.core c).units ∧
    (t.core c).vec = Vec.reset ∧ (t.core c).mat = MatrixEngine.reset ∧ (t.core c).copy = CopyEngine.reset ∧
    (t.guest (s.guestOf c)).due = true ∧ ∀ r ∈ t.writes, r.writer.map Party.core ≠ some c

/-- A free core of a guest: in its hands in the current row, with no work on it (R16, R305). -/
def Sys2Proof.Claims.Free (s : State) (g c : Nat) : Prop :=
  c < 64 ∧ (s.core c).guest = some g ∧ (s.core c).mode = .idle ∧ (s.core c).place = none

/-- The stacks whose eight cores are all free, or that have `n` free cores (R305). -/
def Sys2Proof.Claims.HasFree (s : State) (g n st : Nat) : Prop :=
  st < 8 ∧ ∃ cs : List Nat, cs.Nodup ∧ cs.length = n ∧ ∀ c ∈ cs, c / 8 = st ∧ Claims.Free s g c

/-- Where R305 places one gang of `n` cores: 1 to 8 in the lowest-numbered stack with so many free cores, on those of lowest
position; 16, 32 and 64 in the lowest-numbered stacks that are wholly free; GIDX rises with stack and position. -/
def Sys2Proof.Claims.PlacedAt (s : State) (g n : Nat) (cs : List Nat) : Prop :=
  cs.length = n ∧ cs.Pairwise (· < ·) ∧ (∀ c ∈ cs, Claims.Free s g c) ∧
  (n ∈ [1, 2, 3, 4, 5, 6, 7, 8] → ∃ st, st < 8 ∧ (∀ c ∈ cs, c / 8 = st) ∧ (∀ x, x < st → ¬Claims.HasFree s g n x) ∧
    ∀ c ∈ cs, ∀ d, d < c → d / 8 = st → Claims.Free s g d → d ∈ cs) ∧
  (n ∈ [16, 32, 64] → (∀ c ∈ cs, Claims.HasFree s g 8 (c / 8)) ∧
    ∀ c ∈ cs, ∀ st, st < c / 8 → Claims.HasFree s g 8 st → ∃ d ∈ cs, d / 8 = st)

/-- R302, R303, R305, R308, R321: a guest that owns no core places nothing. With one queue enabled, whose one record has GCOUNT = 1
and has been admitted, no age limit and no drained gang, and with enough context slots, an evaluation of the Porter starts the gang on the cores that R305
names, in GIDX order, with both streams at their entry points at U, and takes the record from the queue. -/
def Sys2Proof.Claims.GangPlacement : Prop :=
  (∀ s g, (∀ e ∈ s.cores, e.2.guest ≠ some g) → exec (.porterEvaluation g) s = .next s) ∧
  (∀ s g q r cs, q < 4 → (s.guest g).drained = [] → (s.guest g).ageLimit = 0 →
    (∀ p, p < 4 → p ≠ q → ((s.guest g).queue p).enabled = false ∧ ((s.guest g).queue p).headRec = none) →
    ((s.guest g).queue q).enabled = true →
    ((s.guest g).queue q).faulted = false → ((s.guest g).queue q).headRec = some (r, 0) → depMet (s.guest g) r = true →
    ((s.guest g).queue q).tail = ((s.guest g).queue q).head + 1 → recF r 224 32 = 1 → recordFits s g r = true →
    recF r 192 8 ∈ [1, 2, 3, 4, 5, 6, 7, 8, 16, 32, 64] → Claims.PlacedAt s g (recF r 192 8) cs →
    slotsUsed s g + recF r 192 8 ≤ fld (s.guest g).gsaveszIn 0 32 →
    ∃ t, exec (.porterEvaluation g) s = .next t ∧ ((t.guest g).queue q).headRec = none ∧
      ((t.guest g).queue q).head = ((s.guest g).queue q).head + 1 ∧ (t.guest g).due = false ∧
      ∀ i c, cs[i]? = some c → (t.core c).mode = .run ∧
        (t.core c).place = some ⟨⟨q, ((s.guest g).queue q).head, 0, ((s.guest g).queue q).epoch⟩, word (recF r 128 48), i, recF r 192 8, i, [],
          recF r 256 23, recF r 288 6⟩ ∧
        (t.core c).a.pc = word (recF r 0 48) ∧ (t.core c).x.pc = word (recF r 64 48) ∧ (t.core c).a.level = .u ∧
        (t.core c).x.level = .u ∧ (t.core c).vec = Vec.reset ∧ (t.core c).sp = [])

/-- R302 to R304: a head whose effective priority is no longer the one announced, and one whose wait has reached
(q + 1) × AGE_LIMIT, are recorded; with no core free nothing is placed. -/
def Sys2Proof.Claims.AgedHeads : Prop :=
  ∀ s g q r n, q < 4 → freeCores s g = [] → (∀ d ∈ (s.guest g).drained, 1 ≤ d.gsize) →
    (∀ p r n, ((s.guest g).queue p).headRec = some (r, n) → 1 ≤ recF r 192 8) →
    ((s.guest g).queue q).headRec = some (r, n) → (n ≠ 0 ∨ recordFits s g r = true) →
    ((readyHeads (s.guest g)).contains q = true → effPrio (s.guest g) q ≠ ((s.guest g).queue q).prio →
      ∃ t, exec (.agePriorityChange g q) s = .next t ∧ ((t.guest g).queue q).prio = effPrio (s.guest g) q ∧
        ((t.guest g).queue q).headRec = some (r, n) ∧ ∀ c, t.core c = s.core c) ∧
    (mayReserve (s.guest g) q = true →
      ∃ t, exec (.headReserving g q) s = .next t ∧ ((t.guest g).queue q).reserving.isSome = true ∧
        ((t.guest g).queue q).headRec = some (r, n) ∧ ∀ c, t.core c = s.core c) ∧
    (mayReserve (s.guest g) q = false → exec (.headReserving g q) s = .next s)

/-- R297, R298, R299, R302, R409: a post of a whole record to an enabled queue with room of a function that may send writes the record to
the slot of LQTAIL, which advances, once the slot's home serves it (R325) and no earlier post to the queue waits; a full ring sets OVF; any other post is dropped with REASON 4, 5 or 9. A write of LQCTL
keeps LOGSZ of an enabled queue, and starts a queue anew when ENABLE rises. A write of LQSTAT clears FAULTED, OVF and ERR
where it holds 1; when that takes FAULTED away, the Porter reads the head again (R299) and its evaluation is due (R302). A
frozen function drops both. -/
def Obligations.LaunchQueueRegisters : Prop :=
  (∀ s g q w d, g < 128 → q < 4 →
    ((s.guest g).maySend = false → exec (.lqpost g q w d) s = .next (hostError (.vf g) 0 (0x600 + 0x40 * q) 4 s)) ∧
    ((s.guest g).maySend = true → w = false →
      exec (.lqpost g q w d) s = .next (hostError (.vf g) 0 (0x600 + 0x40 * q) 5 s)) ∧
    ((s.guest g).maySend = true → w = true → ((s.guest g).queue q).enabled = false →
      exec (.lqpost g q w d) s = .next (hostError (.vf g) 0 (0x600 + 0x40 * q) 9 s)) ∧
    ((s.guest g).maySend = true → w = true → ((s.guest g).queue q).enabled = true →
      (((s.guest g).queue q).full = true → ∃ t, exec (.lqpost g q w d) s = .next t ∧
        bit ((t.guest g).queue q).stat 62 = true ∧ ((t.guest g).queue q).tail = ((s.guest g).queue q).tail ∧
        t.writes = s.writes) ∧
      (((s.guest g).queue q).full = false → postOpen s g q = false → ∃ t, exec (.lqpost g q w d) s = .next t ∧
        t.hostHeld = s.hostHeld ++ [.lqpost g q w d] ∧ t.guest g = s.guest g ∧ t.writes = s.writes) ∧
      (((s.guest g).queue q).full = false → postOpen s g q = true →
        ∃ t, exec (.lqpost g q w d) s = .next t ∧
        ((t.guest g).queue q).tail = ((s.guest g).queue q).tail + 1 ∧ (t.guest g).due = true ∧
        (∀ p, p ≠ q → (t.guest g).queue p = (s.guest g).queue p) ∧
        ∀ y l, ringPlace s g (((s.guest g).queue q).slotGva ((s.guest g).queue q).tail) .free = .ok (y, l) →
          ∃ r ∈ t.writes, r.loc = l ∧ r.bits = d ∧ r.mask = BitVec.allOnes 64 ∧ r.pub = some .system))) ∧
  (∀ s g q v, g < 128 → q < 4 → (s.guest g).frozen = none →
    (∃ t, exec (.lqctlWrite g q v) s = .next t ∧ (∀ p, p ≠ q → (t.guest g).queue p = (s.guest g).queue p) ∧
      bit ((t.guest g).queue q).ctl 16 = bit v 16 ∧ fld ((t.guest g).queue q).ctl 8 8 = fld v 8 8 ∧
      fld ((t.guest g).queue q).ctl 0 5 =
        (if bit ((s.guest g).queue q).ctl 16 then fld ((s.guest g).queue q).ctl 0 5 else fld v 0 5) ∧
      (bit v 16 = true → bit ((s.guest g).queue q).ctl 16 = false → ((t.guest g).queue q).tail = 0 ∧
        ((t.guest g).queue q).head = 0 ∧ ((t.guest g).queue q).done = 0 ∧ ((t.guest g).queue q).headRec = none)) ∧
    (∃ u, u = s.setGuest g (u.guest g) ∧ (∀ p, p ≠ q → (u.guest g).queue p = (s.guest g).queue p) ∧
      (∀ i, i < 64 → bit ((u.guest g).queue q).stat i =
        (bit ((s.guest g).queue q).stat i && !(decide (61 ≤ i) && bit v i))) ∧
      (((s.guest g).queue q).faulted = false ∨ bit v 63 = false → exec (.lqstatWrite g q v) s = .next u) ∧
      (((s.guest g).queue q).faulted = true → bit v 63 = true → ((u.guest g).queue q).faulted = false ∧
        exec (.lqstatWrite g q v) s = .next (porterDue g (readHead g q u))))) ∧
  (∀ s g q v, g < 128 → q < 4 → (s.guest g).frozen.isSome = true →
    exec (.lqctlWrite g q v) s = .next (hostError (.vf g) 0 (0x508 + 0x40 * q) 4 s) ∧
    exec (.lqstatWrite g q v) s = .next (hostError (.vf g) 0 (0x528 + 0x40 * q) 4 s))

/-! ### Slot edges, contexts and the Timetable (R306, R315 to R328) -/

/-- R322, R323, R327, R328: in a drain window SLOT_STOP stops every core that drains at the edge ahead and no other, and before it
none; one that is draining for a donation drains for the edge from then on. A stopped core whose parties have stopped is saved:
its state joins the drained gangs of its guest, and a queued matrix command keeps its lattice reading and its flags and gives
up its place and its index vector (R167, R192; log 51, DEDUCED). A core in CLEAR is cleared and stands in HOLD, with its units as they were when the next row leaves it to its guest
(R115), or else with VLCAP = 1,024 and no unit in quarantine (that the decision of R183 on it falls here is log 38, DEDUCED); or
it goes to an enabled donee, whose evaluation is due (R302). -/
def Sys2Proof.Claims.DrainedCores : Prop :=
  (∀ s t, s.ttActive = some t →
    (inDrain t s.timeUs = false → exec .slotStop s = .next s) ∧
    (inDrain t s.timeUs = true → ∃ u, exec .slotStop s = .next u ∧ u.mem = s.mem ∧ ∀ c,
      (c ∈ drainingCores t (nextRow t s.ttNext) s → (s.core c).mode = .run ∨ (s.core c).mode = .idle →
        (u.core c).mode = .stop ∧ (u.core c).donated = none ∧ (u.core c).place = (s.core c).place ∧
        (u.core c).a = (s.core c).a ∧ (u.core c).x = (s.core c).x) ∧
      (c ∈ drainingCores t (nextRow t s.ttNext) s → (s.core c).mode ≠ .run → (s.core c).mode ≠ .idle →
        u.core c = { s.core c with donated := none }) ∧
      (c ∉ drainingCores t (nextRow t s.ttNext) s → u.core c = s.core c))) ∧
  (∀ s c, (s.core c).mode = .stop → partiesStopped s c = true →
    ((s.core c).place = none → ∃ t, exec (.contextSave c) s = .next t ∧ (t.core c).mode = .clear ∧
      t = s.setCore c (t.core c)) ∧
    (∀ p, (s.core c).place = some p → ∃ t, exec (.contextSave c) s = .next t ∧ (t.core c).mode = .clear ∧
      (t.core c).place = none ∧ ∃ d ∈ (t.guest (s.guestOf c)).drained, d.job = p.job ∧
        ∃ m ∈ d.members, m.idx = p.gidx0 ∧ m.core.place = some p ∧ m.core.a = (s.core c).a ∧ m.core.x = (s.core c).x ∧
          m.core.vec = (s.core c).vec ∧ m.core.q = (s.core c).q ∧ m.core.sp = (s.core c).sp ∧
          m.core.mat = { (s.core c).mat with queue := (s.core c).mat.queue.map MatCmd.held })) ∧
  (∀ s c, (s.core c).mode = .clear →
    ((s.core c).donated = none → ∃ t, exec (.contextClear c) s = .next t ∧ (t.core c).mode = .hold ∧
      (t.core c).guest = none ∧ (t.core c).place = none ∧ (t.core c).a = Stream.reset ∧ (t.core c).x = Stream.reset ∧
      (t.core c).tlb = [] ∧ (t.core c).near = [] ∧ (t.core c).sp = [] ∧ (t.core c).book = [] ∧ (t.core c).pmc = [] ∧
      ((s.core c).guest.isSome = true → tenantAfter s c = (s.core c).guest → (t.core c).units = (s.core c).units) ∧
      ((s.core c).guest = none ∨ tenantAfter s c ≠ (s.core c).guest →
        (t.core c).units.vlcap = 1024 ∧ (t.core c).units.quarantined = none)) ∧
    (∀ g d, (s.core c).donated = some g → doneeOf s g = some d → (s.guest d).en = true →
      ∃ t, exec (.contextClear c) s = .next t ∧ (t.core c).mode = .idle ∧ (t.core c).guest = some d ∧
        (t.core c).donated = some g ∧ (t.core c).a = Stream.reset ∧ (t.core c).sp = [] ∧ (t.guest d).due = true))

/-- R319, R322, R326, R332: at the edge the next row is in force, a guest whose slot starts there takes the values that wait for GBASE and
GBOUND, and one that owned a core before does not, a core that is idle or in HOLD and belongs to nobody takes the
enabled guest that the row names, and a core still in STOP or CLEAR stands in TTOVR with OVERRUN set; so does one that should
drain and has not stopped, which stops now and keeps its guest. Before the edge nothing happens. -/
def Sys2Proof.Claims.SlotEdges : Prop :=
  ∀ s t, s.ttActive = some t →
    (s.timeUs < edgeTime t → exec .slotRestore s = .next s) ∧
    (edgeTime t ≤ s.timeUs → ∃ u, exec .slotRestore s = .next u ∧ u.ttActive = some (nextRow t s.ttNext) ∧
      fld (u.pfReg ttstatOff) 0 9 = (nextRow t s.ttNext).row % 512 ∧
      (∀ c g, c < 64 → (s.core c).guest = none → (s.core c).mode = .idle ∨ (s.core c).mode = .hold →
        c ∉ overrunCores t (nextRow t s.ttNext) s → rowOwner (nextRow t s.ttNext).rows (nextRow t s.ttNext).row c = some g → (s.guest g).en = true →
        (u.core c).guest = some g) ∧
      (∀ g, (∀ c, c < 64 → rowOwner t.rows t.row c ≠ some g) →
        (∃ c, c < 64 ∧ rowOwner (nextRow t s.ttNext).rows (nextRow t s.ttNext).row c = some g) →
        (∀ c ∈ overrunCores t (nextRow t s.ttNext) s, (s.core c).guest ≠ some g) →
        (u.guest g).base = (s.guest g).pendBase.getD (s.guest g).base ∧
        (u.guest g).bound = (s.guest g).pendBound.getD (s.guest g).bound ∧
        (u.guest g).pendBase = none ∧ (u.guest g).pendBound = none) ∧
      (∀ g, (∃ c, c < 64 ∧ rowOwner t.rows t.row c = some g) → (u.guest g).base = (s.guest g).base ∧
        (u.guest g).pendBase = (s.guest g).pendBase) ∧
      (∀ c, c < 64 → (s.core c).mode = .stop ∨ (s.core c).mode = .clear →
        bit (u.pfReg ttovrOff) c = true ∧ bit (u.pfReg ttstatOff) 44 = true ∧ (u.core c).mode = (s.core c).mode) ∧
      (∀ c, c < 64 → c ∈ drainingCores t (nextRow t s.ttNext) s → (s.core c).mode = .run ∨ (s.core c).mode = .idle →
        bit (u.pfReg ttovrOff) c = true ∧ bit (u.pfReg ttstatOff) 44 = true ∧ (u.core c).mode = .stop ∧
        (u.core c).guest = (s.core c).guest ∧ (u.core c).donated = none))

/-- S(g) of R320, from GRES. -/
def Sys2Proof.Claims.contextBytes (gres : Word) : Nat :=
  65536 * ((gres.toNat % 2 ^ 23 + 65536 * (gres.toNat / 2 ^ 24 % 2 ^ 6) + 98304 + 65535) / 65536)

/-- B(c) of R320 for a core whose tenant in the row is `g`. -/
def Sys2Proof.Claims.savedBytes (gres : Nat → Word) (t : Timetable) (g : Nat) : Nat :=
  match (guestEntry t.rows t.row g).bind tenDonee with
  | some d => max (Claims.contextBytes (gres g)) (Claims.contextBytes (gres (tenGuest (tenant t.rows t.row d))))
  | none => Claims.contextBytes (gres g)

/-- The bytes that the cores of a stack save at the edge between two rows, of the guests that `p` selects: of every core whose
guest owns a core of the package that changes hands (R320). -/
def Sys2Proof.Claims.savedAt (gres : Nat → Word) (t t' : Timetable) (st : Nat) (p : Nat → Bool) : Nat :=
  ((List.range 8).map (fun n => match rowOwner t.rows t.row (8 * st + n) with
    | some g => if p g && (List.range 64).any (fun c => decide (rowOwner t.rows t.row c = some g) &&
        decide (rowOwner t'.rows t'.row c ≠ some g)) then Claims.savedBytes gres t g else 0
    | none => 0)).sum

/-- A guest saves into its ways of a stack: it has ways, and the banks that work leave them 8 × S(g) bytes (R320, R321; the banks
are log 53, DEDUCED). -/
def Sys2Proof.Claims.inWays (s : State) (gres : Nat → Word) (t : Timetable) (st g : Nat) : Bool :=
  match guestEntry t.rows t.row g with
  | none => false
  | some e => tenWays e != 0 && decide (8 * Claims.contextBytes (gres g) * 128 ≤
      ((List.range 16).filter (fun w => (tenWays e).testBit w)).length * 2 ^ 27 * (128 - banksOut s st))

/-- The edge from one row to the next fits in a stack: DRAIN ≥ 1.5 µs + L ÷ 10 TB/s + H ÷ 4 TB/s (R320), the retired banks taking
their share of the 10 TB/s (log 53, DEDUCED). -/
def Sys2Proof.Claims.EdgeFits (s : State) (gres : Nat → Word) (t t' : Timetable) (st : Nat) : Prop :=
  30000000 + 2 * (Claims.savedAt gres t t' st (Claims.inWays s gres t st) * 128 / (128 - banksOut s st)) +
    5 * Claims.savedAt gres t t' st (fun g => !Claims.inWays s gres t st g) ≤ 20000000 * rowDrain t.rows t.row

/-- Two tenant entries cannot stand in one frame (R319 reason 5). -/
def Sys2Proof.Claims.WaysClash (a b : Word) : Prop :=
  if tenGuest a = tenGuest b then tenWays a ≠ tenWays b else tenWays a &&& tenWays b ≠ 0

/-- The shares of HBM stack `p`, or of link `p − 16`, that the entries of a row add up to (R318). -/
def Sys2Proof.Claims.shares (rows : Memory) (r p : Nat) : Nat :=
  ((List.range (rowTenants rows r)).map (fun i => rowRead rows r (128 + 48 * i + 8 + p) 1)).sum

/-- A shadow fails for a REASON of R319 in row `r`, at the core, entry, stack or link `p` (link j as 16 + j): 0 where the reason
names none, and for a reserved bit of the row's header or of its bytes outside the entries, which comes before the entries of the
row; of a pair of entries in reasons 4 and 5 the later is meant, and in reason 6 the stacks come before the links: R319 settles none
of these four, and each is the model's choice (log 37, DESIGN CHOICE). -/
def Sys2Proof.Claims.Fails (s : State) (last : Nat) (gres save : Nat → Word) (reason r p : Nat) : Prop :=
  let rows := s.ttShadow
  let n := rowTenants rows r
  let hd := rowRead rows r 0 8
  let at' : Nat → Timetable := fun r => ⟨rows, last, 0, r⟩
  (reason = 1 ∧ r ≤ last ∧ p = 0 ∧ (hd % 2 ^ 20 < 100 ∨ hd / 2 ^ 20 % 32 = 1 ∨ 21 ≤ hd / 2 ^ 20 % 32)) ∨
  (reason = 2 ∧ r ≤ last ∧ ((p = 0 ∧ (hd / 2 ^ 38 ≠ 0 ∨ hd / 2 ^ 25 % 2 ^ 7 ≠ 0 ∨ rowRead rows r 8 8 ≠ 0 ∨
      rowRead rows r 80 48 ≠ 0)) ∨
    (p < n ∧ (fld (tenant rows r p) 48 16 ≠ 0 ∨ bit (tenant rows r p) 46 = true ∨ fld (tenant rows r p) 38 2 ≠ 0 ∨
      fld (tenant rows r p) 7 9 ≠ 0 ∨ rowRead rows r (128 + 48 * p + 40) 8 ≠ 0)) ∨
    (n ≤ p ∧ p < 64 ∧ rowRead rows r (128 + 48 * p) 48 ≠ 0))) ∨
  (reason = 3 ∧ r ≤ last ∧ p < 64 ∧ rowMap rows r p ≠ 0xFF ∧ n ≤ rowMap rows r p) ∨
  (reason = 4 ∧ r ≤ last ∧ p < n ∧ ∃ j, j < p ∧ tenGuest (tenant rows r j) = tenGuest (tenant rows r p)) ∨
  (reason = 5 ∧ r ≤ last ∧ p < n ∧ ∃ r' j, (r' < r ∨ (r' = r ∧ j < p)) ∧ j < rowTenants rows r' ∧
    Claims.WaysClash (tenant rows r p) (tenant rows r' j)) ∨
  (reason = 6 ∧ r ≤ last ∧ p < 32 ∧ 256 < Claims.shares rows r p) ∨
  (reason = 7 ∧ r ≤ last ∧ p < n ∧ ∃ d, tenDonee (tenant rows r p) = some d ∧
    (d = p ∨ n ≤ d ∨ tenGroup (tenant rows r d) ≠ tenGroup (tenant rows r p))) ∨
  (reason = 8 ∧ r ≤ last ∧ p < 8 ∧ ¬Claims.EdgeFits s gres (at' r) (at' (if r < last then r + 1 else 0)) p) ∨
  (reason = 9 ∧ r ≤ last ∧ p < n ∧ fld (save (tenGuest (tenant rows r p))) 0 32 <
    (rowCores rows r (tenGuest (tenant rows r p))).length +
      (((List.range n).filter (fun j => decide (tenDonee (tenant rows r j) = some p))).map (fun j =>
        (rowCores rows r (tenGuest (tenant rows r j))).length)).sum) ∨
  (reason = 10 ∧ p < 8 ∧ ∃ a, s.ttActive = some a ∧ r = a.lastRow ∧
    ¬Claims.EdgeFits s gres { a with row := a.lastRow } (at' 0) p)

/-- The first failure of a shadow, by reason, row and place (R319). -/
def Sys2Proof.Claims.FirstFailure (s : State) (last : Nat) (gres save : Nat → Word) (reason r p : Nat) : Prop :=
  Claims.Fails s last gres save reason r p ∧
    ∀ x y z, (x < reason ∨ (x = reason ∧ (y < r ∨ (y = r ∧ z < p)))) → ¬Claims.Fails s last gres save x y z

/-- R316, R319, R321: a write of TTCTL with COMMIT starts a validation of the shadow with the limits and save regions as they
stand, unless one runs; while one runs or an accepted shadow waits, a LASTROW that differs is dropped with REASON 6. The
validation of a shadow that fails sets ERR with the reason, row and index of its first failure, the index as log 37 (DESIGN CHOICE)
has it where R319 leaves it open: 0 for a reserved bit of a row's header, before the row's entries, and for a reason without an
index; the later entry in reasons 4 and 5; the stacks before the links in reason 6. One that passes becomes active at
once when no table is, and waits for the frame's end otherwise; what the commit carried of a guest is in force from then on. -/
def Obligations.TimetableCommits : Prop :=
  (∀ s v, (ttBusy s = false → ∃ t, exec (.ttctlCommit v) s = .next t ∧ fld (t.pfReg ttctlOff) 0 9 = fld v 0 9 ∧
      fld (t.pfReg ttctlOff) 16 8 = fld v 16 8 ∧ (bit v 31 = true → bit (t.pfReg ttctlOff) 31 = true ∧
        t.ttCommit = s.guests.map (fun e => (e.1, e.2.gres, e.2.gsavesz, e.2.gsave))) ∧ t.ttShadow = s.ttShadow) ∧
    (ttBusy s = true → ∃ t, exec (.ttctlCommit v) s = .next t ∧ fld (t.pfReg ttctlOff) 0 9 = fld (s.pfReg ttctlOff) 0 9 ∧
      (bit v 31 = true → bit (s.pfReg ttctlOff) 31 = false → bit (t.pfReg ttctlOff) 31 = true ∧
        t.ttCommit = s.guests.map (fun e => (e.1, e.2.gres, e.2.gsavesz, e.2.gsave))) ∧
      (bit v 31 = false ∨ bit (s.pfReg ttctlOff) 31 = true → t.ttCommit = s.ttCommit) ∧ (fld v 0 9 ≠ fld (s.pfReg ttctlOff) 0 9 →
        bit (t.pfReg 0) 0 = true ∧ fld (t.pfReg 0) 8 4 = 6))) ∧
  (∀ s last gres save, bit (s.pfReg ttctlOff) 31 = true → last = fld (s.pfReg ttctlOff) 0 9 →
    (∀ g, gres g = (tabGet (gresReset, 0, 0) s.ttCommit g).1 ∧ save g = (tabGet (gresReset, 0, 0) s.ttCommit g).2.1) →
    (∀ reason row p, Claims.FirstFailure s last gres save reason row p → ∃ t, exec .timetableValidation s = .next t ∧
      bit (t.pfReg ttctlOff) 31 = false ∧ bit (t.pfReg ttstatOff) 46 = true ∧ fld (t.pfReg ttstatOff) 40 4 = reason ∧
      fld (t.pfReg ttstatOff) 31 9 = row % 512 ∧ fld (t.pfReg ttstatOff) 24 7 = (if reason = 6 then p % 16 else p) ∧
      t.ttActive = s.ttActive ∧ t.ttNext = s.ttNext) ∧
    ((∀ x y z, ¬Claims.Fails s last gres save x y z) → ∃ t, exec .timetableValidation s = .next t ∧
      ∀ g e l1 l2, s.ttCommit = l1 ++ (g, e) :: l2 → (∀ y ∈ l2, y.1 ≠ g) →
        (t.guest g).gresIn = e.1 ∧ (t.guest g).gsaveszIn = e.2.1 ∧ (t.guest g).gsaveIn = e.2.2) ∧
    ((∀ x y z, ¬Claims.Fails s last gres save x y z) → s.ttActive = none → ∃ t, exec .timetableValidation s = .next t ∧ bit (t.pfReg ttctlOff) 31 = false ∧
      t.ttActive = some ⟨s.ttShadow, last, s.timeUs, 0⟩ ∧
      fld (t.pfReg ttstatOff) 48 16 = (fld (s.pfReg ttstatOff) 48 16 + 1) % 2 ^ 16) ∧
    ((∀ x y z, ¬Claims.Fails s last gres save x y z) → ∀ a, s.ttActive = some a → ∃ t, exec .timetableValidation s = .next t ∧
      bit (t.pfReg ttctlOff) 31 = false ∧ t.ttActive = some a ∧ t.ttNext = some (s.ttShadow, last, s.timeUs) ∧
      bit (t.pfReg ttstatOff) 47 = true))

/-- The work on the record `i` places after the one at FWHEAD is `w` (R219): a record that still has Fullers at it, or stands behind
one that has, changes nothing else; the record at FWHEAD, when `w` is complete, no other has been begun and the record's home
serves it (R325), completes with its LINES and STATUS written and FWHEAD one on. -/
def Sys2Proof.Claims.FullerWorked (s t : State) (g i gpa : Nat) (w : FullerWork) : Prop :=
  ((i = 0 → w.complete = false) → (0 < i → ((s.guest g).fullerAt 0).complete = false) →
    t.guest g = (s.guest g).setFuller i w ∧ t.writes = s.writes ∧ t.mem = s.mem) ∧
  (i = 0 → w.complete = true → (s.guest g).fuller.length ≤ 1 → gpaOpen s g gpa = true →
    (t.guest g).fuller = [] ∧ (t.guest g).reg 0x458 = (s.guest g).reg 0x458 + 1 ∧ t.mem = s.mem ∧
    ∀ l, placeGpa s g 1 true (gpa + 8) = .ok l → ∃ r ∈ t.writes, r.loc = l ∧ r.pub = some .system ∧
      lineBytes r.bits ((gpa + 8) % 64) 8 = w.lines % 2 ^ 32 * 2 ^ 32 + (if w.refused then 2 else 1))

/-- The target format of a POLICY of 1 to 4 (R92). -/
def Sys2Proof.Claims.recodeFmt (policy : Nat) : Nat := if policy = 1 then 2 else if policy = 2 then 4 else if policy = 3 then 6 else 9

/-- R220: a line changes under a POLICY when it has the RC span, is VALID, holds elements (R73; log 39, DEDUCED), and is of another format, a
CB4 line with SLOT 255 alone. -/
def Sys2Proof.Claims.Changes (policy : Nat) (i : LineImg) : Prop :=
  i.mark = true ∧ tagClass i.tag = 0 ∧ tagFmt i.tag ≠ Claims.recodeFmt policy ∧ 1 ≤ tagFmt i.tag ∧ tagFmt i.tag ≤ 9 ∧
    (tagFmt i.tag ≤ 7 → tagScale i.tag ≠ 255) ∧ (tagFmt i.tag = 8 → tagScale i.tag = 127) ∧
    (tagFmt i.tag = 9 → tagScale i.tag = 255)

/-- R69, R92, R220: `i'` is the line `i` recoded: each of its 32 elements, decoded exactly and rounded once with RNE and FZ = 0
into the target, under SCALE 127, that of ScaleFor or SLOT 255, and zero above them; CB4 on either side goes by the table. -/
def Sys2Proof.Claims.Recoded (table : Nat → Nat) (policy : Nat) (i i' : LineImg) : Prop :=
  ∃ f vs k, f = Claims.recodeFmt policy ∧
    vs = (List.range 32).map (fun j => decodeElem (fun _ => table) (Claims.lineElement (fmtWidth (tagFmt i.tag)) i.bits j) i.tag false) ∧
    k = (if policy = 1 then 127 else if policy = 4 then 255 else scaleFor vs f) ∧ i'.tag = mkTag f 0 k ∧ i'.mark = true ∧
    i'.bits.toNat < 2 ^ (32 * fmtWidth f) ∧ ∀ j v, vs[j]? = some v → Claims.lineElement (fmtWidth f) i'.bits j =
      (if policy = 4 then (roundCb4 v ((List.range 16).map (fun c => decodeFloat 2 (table c) false))).1
        else (roundTo v f k .rne false).1)

/-- R219, R220, R221, R261, R325: a Fuller takes the first record that it has not finished; the first to take one reads and checks
it, and a bad one is complete with STATUS 2 before any line changes; that every Fuller works by the record as it was read then is
log 39 (DESIGN CHOICE). It stands at the first line of its stack, and finishes its part
when there is none. It recodes the line it stands at, once the line's home serves it, and goes to the next; a line that the
policy recodes is written by one write, which makes of every image beneath it what R92 makes of a full-line store, published
at system scope, and is counted; any other stays. The lines that change and what they become are written out from R220 and R92. -/
def Obligations.FullerRecords : Prop :=
  (∀ s g st i gpa r w, i = (s.guest g).fullerIndex st → fullerSlot (s.guest g) i = some gpa → fullerWorks s g = true → st < 8 →
    w = (s.guest g).fullerAt i → st ∉ w.taken → (w.taken = [] → selfRead s g gpa 16 = some r) → (w.taken ≠ [] → r = w.record) →
    ((s.guest g).fullerAt 0).complete = false → gpaOpen s g gpa = true →
    (w.taken = [] → fullerOk s g r = false → ∃ t, exec (.fullerRecordTake g st) s = .next t ∧
      Claims.FullerWorked s t g i gpa { w with taken := [st], record := r, finished := List.range 8, refused := true }) ∧
    (w.taken ≠ [] ∨ fullerOk s g r = true → ∃ t, exec (.fullerRecordTake g st) s = .next t ∧
      (∀ j, nextHomed (hpaOf (s.guest g) (regionGpa r)) st (regionBytes r / 64) 9 0 = some j →
        Claims.FullerWorked s t g i gpa
          { w with taken := w.taken ++ [st], record := r, next := tabPut w.next st (j + 1) }) ∧
      (nextHomed (hpaOf (s.guest g) (regionGpa r)) st (regionBytes r / 64) 9 0 = none →
        Claims.FullerWorked s t g i gpa ({ w with taken := w.taken ++ [st], record := r }.finish st)))) ∧
  (∀ s g st i gpa r n l, i = (s.guest g).fullerIndex st → fullerSlot (s.guest g) i = some gpa → fullerWorks s g = true →
    st ∈ ((s.guest g).fullerAt i).taken → r = ((s.guest g).fullerAt i).record →
    n = tabGet 1 ((s.guest g).fullerAt i).next st → l = ⟨.hbm, hpaOf (s.guest g) (regionGpa r) / 64 + (n - 1)⟩ →
    (homeOpen s l = false → exec (.fullerLineRecode g st) s = .next s) ∧
    (homeOpen s l = true → ∀ u w, u = recodeLine g i (regionPolicy r) l s → w = (u.guest g).fullerAt i →
      ∃ t, exec (.fullerLineRecode g st) s = .next t ∧
        (∀ j, nextHomed (hpaOf (s.guest g) (regionGpa r)) st (regionBytes r / 64) 9 n = some j →
          Claims.FullerWorked u t g i gpa { w with next := tabPut w.next st (j + 1) }) ∧
        (nextHomed (hpaOf (s.guest g) (regionGpa r)) st (regionBytes r / 64) 9 n = none →
          Claims.FullerWorked u t g i gpa (w.finish st)))) ∧
  (∀ s g i policy l table, i ≤ (s.guest g).fuller.length → 1 ≤ policy → policy ≤ 4 →
    (∀ c, table c = ((s.guest g).reg (0x460 + 8 * (c / 4))).toNat / 2 ^ (16 * (c % 4)) % 2 ^ 16) →
    (¬Claims.Changes policy (publishedImg s l) → recodeLine g i policy l s = s) ∧
    (Claims.Changes policy (publishedImg s l) → ∃ u, recodeLine g i policy l s = u ∧
      (u.guest g).fullerAt i = { (s.guest g).fullerAt i with lines := ((s.guest g).fullerAt i).lines + 1 } ∧
      (u.guest g).reg 0x458 = (s.guest g).reg 0x458 ∧ u.mem = s.mem ∧
      ∃ r ∈ u.writes, r.loc = l ∧ r.pub = some .system ∧ r.mask = BitVec.allOnes 64 ∧
        ∀ book img, (Claims.Changes policy img → Claims.Recoded table policy img (applyRec book img r)) ∧
          (¬Claims.Changes policy img → applyRec book img r = img)))

/-! ### The host: apertures, guests, registers and the window (R225, R331 to R347, R383, R384) -/

/-- The words of 8 bytes that answer a read of `n` bytes. -/
def Sys2Proof.Claims.Replied (s t : State) (n v : Nat) : Prop :=
  ∃ l, t.replies = s.replies ++ l ∧ l.length = (n + 7) / 8 ∧
    ∀ i w, l[i]? = some w → w.toNat = v / 2 ^ (64 * i) % 2 ^ (Nat.min 64 (8 * n))

/-- A host access was dropped with a reason: HAE shows it, and a read answers all ones (R384). -/
def Sys2Proof.Claims.Refused (s t : State) (g reason : Nat) (req : ApertureReq) : Prop :=
  bit ((t.guest g).reg 0) 0 = true ∧ fld ((t.guest g).reg 0) 8 4 = reason ∧ t.writes = s.writes ∧ t.mem = s.mem ∧
    (req.write = true → t.replies = s.replies) ∧
    (req.write = false → Claims.Replied s t req.size (2 ^ (8 * req.size) - 1))

/-- R211, R225, R325, R384: a read through the data aperture answers the bytes of the line as its home shows them, within the span of an
RC line, and of an APPEND page zeros at or above the tail; a write to a NORMAL page without HWRAW writes its bytes and keeps the tag, at system scope; a write to an APPEND or
SEALED page is dropped with REASON 2, an access whose translation fails with REASON 1, and one of a function that may not
send with REASON 4. An access waits while a home that its translation reads, or the home of its line, serves save traffic only
(R325), and so does one behind a link that is not ready (log 19). -/
def Sys2Proof.Claims.DataAperture : Prop :=
  ∀ s g req, g < 128 → 1 ≤ req.size → req.addr % 64 + req.size ≤ 64 → req.addr < 2 ^ 48 →
    ((s.guest g).maySend = false → ∃ t, exec (.dataApertureAccess g req) s = .next t ∧ Claims.Refused s t g 4 req) ∧
    ((s.guest g).maySend = true → walkOpen s g req.addr = false → ∃ t, exec (.dataApertureAccess g req) s = .next t ∧
      t.writes = s.writes ∧ t.replies = s.replies ∧ t.hostHeld = s.hostHeld ++ [.dataApertureAccess g req]) ∧
    ((s.guest g).maySend = true → walkOpen s g req.addr = true →
      (∀ e, hostPlace s g req.addr req.write = .error e → (∀ hpa, e ≠ .absent hpa) →
        ∃ t, exec (.dataApertureAccess g req) s = .next t ∧ Claims.Refused s t g 1 req) ∧
      ∀ x l, hostPlace s g req.addr req.write = .ok (x, l) →
        (req.write = true → 2 ≤ pteClass x.leaf →
          ∃ t, exec (.dataApertureAccess g req) s = .next t ∧ Claims.Refused s t g 2 req) ∧
        (req.write = true → pteClass x.leaf = 0 → bit x.leaf 10 = false →
          reachable s g (x.gpaAt req.addr) l = true → ∃ t, exec (.dataApertureAccess g req) s = .next t ∧
            ∃ r ∈ t.writes, r.loc = l ∧ r.pub = some .system ∧ r.tag = none ∧ r.mask = byteMask (req.addr % 64) req.size ∧
            lineBytes r.bits (req.addr % 64) req.size = req.data.toNat % 2 ^ (8 * req.size)) ∧
        (req.write = false → pteClass x.leaf < 2 → reachable s g (x.gpaAt req.addr) l = true →
          ∃ t, exec (.dataApertureAccess g req) s = .next t ∧ t.writes = s.writes ∧ Claims.Replied s t req.size
            (lineBytes (rcSpan (pteClass x.leaf == 1) (homeImg s l).tag (homeImg s l).bits) (req.addr % 64) req.size)) ∧
        (req.write = false → 2 ≤ pteClass x.leaf → reachable s g (x.gpaAt req.addr) l = true →
          ∃ t, exec (.dataApertureAccess g req) s = .next t ∧ t.writes = s.writes ∧
            Claims.Replied s t req.size (lineBytes (hostImg s g x (x.gpaAt req.addr) l).bits (req.addr % 64) req.size)) ∧
        (∀ w, 2 ≤ pteClass x.leaf → pageState s g x.gpa = .ok w → psSealed w = false →
          psTail w ≤ (x.gpaAt req.addr - x.gpa) / 64 → hostImg s g x (x.gpaAt req.addr) l = ⟨0, 0x0100, false⟩) ∧
        (req.write = false ∨ pteClass x.leaf < 2 → reachable s g (x.gpaAt req.addr) l = false →
          ∃ t, exec (.dataApertureAccess g req) s = .next t ∧ t.writes = s.writes ∧ t.replies = s.replies ∧
            t.hostHeld = s.hostHeld ++ [.dataApertureAccess g req]))

/-- R225, R384: the tag aperture reads the tag of a line and writes one that a line may hold, FMT at most 9 and VCLASS at most
3; another tag is dropped with REASON 3. R263, R383: an HDM access reads and writes the data of HBM by its HPA and leaves
tags as they are. Both where the line's home serves the access (R325) and its link is ready. -/
def Sys2Proof.Claims.TagApertureAndHdm : Prop :=
  (∀ s g req x l, g < 128 → req.size = 2 → req.addr % 2 = 0 → req.addr / 2 * 64 < 2 ^ 48 → (s.guest g).maySend = true →
    walkOpen s g (req.addr / 2 * 64) = true → hostPlace s g (req.addr / 2 * 64) req.write = .ok (x, l) →
    (req.write = true → pteClass x.leaf < 2) → reachable s g (x.gpaAt (req.addr / 2 * 64)) l = true →
    (req.write = false → ∃ t, exec (.tagApertureAccess g req) s = .next t ∧ t.writes = s.writes ∧
      Claims.Replied s t 2 (if pteClass x.leaf < 2 then (homeImg s l).tag.toNat
        else (hostImg s g x (x.gpaAt (req.addr / 2 * 64)) l).tag.toNat)) ∧
    (req.write = true → 10 ≤ tagFmt (req.data.setWidth 16) ∨ 4 ≤ tagClass (req.data.setWidth 16) →
      ∃ t, exec (.tagApertureAccess g req) s = .next t ∧ Claims.Refused s t g 3 req) ∧
    (req.write = true → tagFmt (req.data.setWidth 16) ≤ 9 → tagClass (req.data.setWidth 16) ≤ 3 → l.space ≠ .host →
      ∃ t, exec (.tagApertureAccess g req) s = .next t ∧ ∃ r ∈ t.writes, r.loc = l ∧ r.pub = some .system ∧ r.mask = 0 ∧
        r.tag = some (req.data.setWidth 16))) ∧
  (∀ s req, 1 ≤ req.size → req.addr % 64 + req.size ≤ 64 → req.addr < 768 * 2 ^ 30 →
    homeOpen s ⟨.hbm, req.addr / 64⟩ = true →
    (req.write = false → ∃ t, exec (.hdmAccess req) s = .next t ∧ t.writes = s.writes ∧ Claims.Replied s t req.size
      (lineBytes (systemImg s ⟨.hbm, req.addr / 64⟩).bits (req.addr % 64) req.size)) ∧
    (req.write = true → ∃ t, exec (.hdmAccess req) s = .next t ∧ ∃ r ∈ t.writes, r.loc = ⟨.hbm, req.addr / 64⟩ ∧
      r.pub = some .system ∧ r.tag = none ∧ r.mask = byteMask (req.addr % 64) req.size ∧
      lineBytes r.bits (req.addr % 64) req.size = req.data.toNat % 2 ^ (8 * req.size)))

/-- R331 to R333, R395: enabling a guest gives it an empty lattice, no drained gang, no frozen function and no pending vector,
keeps its registers, and drops what the LLC holds of it; disabling one takes its cores through CLEAR, publishes its performed writes
at system scope, drops its gangs, faults, violations and pending vectors, and clears ENABLE of its launch queues. SSPEND reads as 1
while a value for GBASE or GBOUND waits, which neither enabling nor disabling changes. GBASE and GBOUND take effect at once for a guest that owns no core, and
wait otherwise. R340: the pending vectors that are not masked leave in ascending order at the end of the period of a function
that may send. -/
def Obligations.Guests : Prop :=
  (∀ s g, g < 128 → ((s.guest g).en = true → exec (.guestEnable g) s = .next s) ∧
    ((s.guest g).en = false → ∃ t, exec (.guestEnable g) s = .next t ∧ (t.guest g).en = true ∧ (t.guest g).lattice = [] ∧
      (t.guest g).drained = [] ∧ (t.guest g).frozen = none ∧ (t.guest g).pending = [] ∧
      (∀ e ∈ t.llc, e.2.1 ≠ g) ∧ (∀ r ∈ t.replicas, r.guest ≠ g) ∧ t.mem = s.mem ∧
      (t.guest g).lq = (s.guest g).lq ∧ (t.guest g).vf = (s.guest g).vf ∧ (t.guest g).base = (s.guest g).base ∧
      (t.guest g).bound = (s.guest g).bound ∧ (t.guest g).pendBase = (s.guest g).pendBase ∧
      (t.guest g).pendBound = (s.guest g).pendBound ∧ ∀ h, h ≠ g → t.guest h = s.guest h)) ∧
  (∀ s g, g < 128 → ∃ w, pfRead s (0x40000 + 0x40 * g) = some w ∧ bit w 0 = (s.guest g).en ∧
    bit w 1 = ((s.guest g).pendBase.isSome || (s.guest g).pendBound.isSome) ∧ fld w 2 62 = 0) ∧
  (∀ s g, (s.guest g).en = true → ∃ t, exec (.guestDisable g) s = .next t ∧ (t.guest g).en = false ∧
    (t.guest g).gangs = [] ∧ (t.guest g).drained = [] ∧ (t.guest g).faults = [] ∧ (t.guest g).frozen = none ∧
    (t.guest g).pending = [] ∧ (∀ q, ((t.guest g).queue q).enabled = false ∧ bit ((t.guest g).queue q).ctl 16 = false ∧
      (∀ i, i ≠ 16 → bit ((t.guest g).queue q).ctl i = bit ((s.guest g).queue q).ctl i) ∧
      ((t.guest g).queue q).base = ((s.guest g).queue q).base ∧ ((t.guest g).queue q).stat = ((s.guest g).queue q).stat) ∧
    (t.guest g).base = (s.guest g).base ∧ (t.guest g).bound = (s.guest g).bound ∧
    (t.guest g).pendBase = (s.guest g).pendBase ∧ (t.guest g).pendBound = (s.guest g).pendBound ∧ (∀ v ∈ t.viols, v.guest ≠ some g ∧ ¬ (v.mtype = 3 ∧ v.midx = g)) ∧
    (∀ c, (s.core c).guest = some g → (t.core c).mode = .hold ∧ (t.core c).guest = none ∧ (t.core c).place = none) ∧
    (∀ r ∈ t.writes, r.guest = g → r.performed = true → r.pub = some .system ∧ r.loc.isSp = false)) ∧
  (∀ s g v, g < 128 →
    (ownsNow s g = false →
      (∃ t, exec (.gbaseGboundWrite g false v) s = .next t ∧ (t.guest g).base = fld v 16 32 ∧
        (t.guest g).bound = (s.guest g).bound) ∧
      (∃ t, exec (.gbaseGboundWrite g true v) s = .next t ∧ (t.guest g).bound = fld v 16 31 ∧
        (t.guest g).base = (s.guest g).base)) ∧
    (ownsNow s g = true →
      (∃ t, exec (.gbaseGboundWrite g false v) s = .next t ∧ (t.guest g).base = (s.guest g).base ∧
        (t.guest g).pendBase = some (fld v 16 32)) ∧
      (∃ t, exec (.gbaseGboundWrite g true v) s = .next t ∧ (t.guest g).bound = (s.guest g).bound ∧
        (t.guest g).pendBound = some (fld v 16 31)))) ∧
  (∀ s g e n, (s.guest g).period = some (e, n) →
    (s.timeUs < e → exec (.coalescePeriodEnd g) s = .next s) ∧
    (e ≤ s.timeUs → (s.guest g).maySend = true → ∃ t, exec (.coalescePeriodEnd g) s = .next t ∧
      t.sent = s.sent ++ ((List.range 64).filter (fun v => decide (v ∈ (s.guest g).pending) &&
        decide (v ∈ (s.guest g).unmasked))).map (fun v => ⟨.vf g, v⟩) ∧
      (t.guest g).period = none ∧ ∀ v, v ∈ (t.guest g).pending ↔ v ∈ (s.guest g).pending ∧ v ∉ (s.guest g).unmasked) ∧
    (e ≤ s.timeUs → (s.guest g).maySend = false → ∃ t, exec (.coalescePeriodEnd g) s = .next t ∧ t.sent = s.sent ∧
      (t.guest g).period = none ∧ (t.guest g).pending = (s.guest g).pending))

/-- R336, R339, R344, R384: PMOVHI answers the high half of the oldest overflow entry, 0 when there is none, and takes it; of a
frozen function it is dropped with REASON 4 and answers all ones. R345, R347: the window reads and writes the registers of a stream that is halted or frozen,
and its CSRs at any time while it is in RUN; otherwise a read answers all ones and a write does nothing. -/
def Sys2Proof.Claims.OverflowAndWindow : Prop :=
  (∀ s g, ((s.guest g).frozen.isSome = true → ∃ t, exec (.pmovhiRead g) s = .next t ∧
      Claims.Replied s t 8 (2 ^ 64 - 1) ∧ (t.guest g).overflow = (s.guest g).overflow ∧
      bit ((t.guest g).reg 0) 0 = true ∧ fld ((t.guest g).reg 0) 8 4 = 4) ∧
    ((s.guest g).frozen = none → ∃ t, exec (.pmovhiRead g) s = .next t ∧
      Claims.Replied s t 8 (((s.guest g).overflow.head?.map (fun e => e.2.toNat)).getD 0) ∧
      (t.guest g).overflow = (s.guest g).overflow.tail)) ∧
  (∀ s v c st, c = dbgCore s → st = dbgStream s →
    (dbgOpen s = false ∨ dbgNames s = false → exec (.dbgdataWrite v) s = .next s ∧
      ∃ t, exec .dbgdataRead s = .next t ∧ Claims.Replied s t 8 (2 ^ 64 - 1)) ∧
    (dbgOpen s = true → dbgNames s = true →
      (dbgSpace s = 0 → ∃ t, exec .dbgdataRead s = .next t ∧
        Claims.Replied s t 8 (csrRead (s.core c) st (dbgCsr s)).toNat) ∧
      (dbgSpace s = 1 → dbgCode s < 64 → ∃ t, exec .dbgdataRead s = .next t ∧
        Claims.Replied s t 8 ((s.streamAt c st).reg (BitVec.ofNat 8 (dbgCode s))).toNat) ∧
      (dbgSpace s = 0 → dbgCsr s = 0x302 → ∃ t, exec (.dbgdataWrite v) s = .next t ∧
        (t.streamAt c st).tpc = (v &&& 0xFFFFFFFFFFF8) ||| ((s.streamAt c st).tpc &&& 0xFFFF000000000007) ∧ (t.streamAt c st).pc = (s.streamAt c st).pc) ∧
      (dbgSpace s = 1 → 0 < dbgCode s → dbgCode s < 64 → ∃ t, exec (.dbgdataWrite v) s = .next t ∧
        (t.streamAt c st).reg (BitVec.ofNat 8 (dbgCode s)) = v ∧
        (∀ r, r ≠ BitVec.ofNat 8 (dbgCode s) → (t.streamAt c st).reg r = (s.streamAt c st).reg r) ∧
        t = s.setCore c (t.core c))))

/-- R4, R334, R336, R339, R384: a write to a plain register of a function stores the RW bits and clears those W1C bits where
it holds 1, and keeps the rest; a misaligned offset is dropped with REASON 7, and any write to a frozen function with
REASON 4; a driver's write to a host-only register freezes its function with a violation record of kind 4. -/
def Sys2Proof.Claims.RegisterWrites : Prop :=
  (∀ s off v m, off % 8 = 0 → pfMasks off = some m → ∃ t, exec (.registerWrite .pf off v) s = .next t ∧
    t.pfReg off = ((v &&& m.1) ||| (s.pfReg off &&& ~~~m.1)) &&& ~~~(v &&& m.2) ∧
    ∀ o, o ≠ off → t.pfReg o = s.pfReg o) ∧
  (∀ s off v, off % 8 ≠ 0 → ∃ t, exec (.registerWrite .pf off v) s = .next t ∧ fld (t.pfReg 0) 8 4 = 7 ∧
    bit (t.pfReg 0) 0 = true ∧ ∀ o, o ≠ 0 → t.pfReg o = s.pfReg o) ∧
  (∀ s g off v m, g < 128 → (s.guest g).frozen = none → off % 8 = 0 → vfMasks off = some m →
    ∃ t, exec (.registerWrite (.vf g) off v) s = .next t ∧
      (t.guest g).reg off = ((v &&& m.1) ||| ((s.guest g).reg off &&& ~~~m.1)) &&& ~~~(v &&& m.2) ∧
      ∀ o, o ≠ off → (t.guest g).reg o = (s.guest g).reg o) ∧
  (∀ s g off v, g < 128 → (s.guest g).frozen.isSome = true → ∃ t, exec (.registerWrite (.vf g) off v) s = .next t ∧
    fld ((t.guest g).reg 0) 8 4 = 4 ∧ ∀ o, o ≠ 0 → (t.guest g).reg o = (s.guest g).reg o) ∧
  (∀ s g off v, g < 128 → (s.guest g).frozen = none → off = 0x820 ∨ off = 0x828 →
    ∃ t, exec (.registerWrite (.vf g) off v) s = .next t ∧ (t.guest g).frozen = some s.violSeq ∧
      (∃ r ∈ t.viols, r.seq = s.violSeq ∧ r.kind = 4 ∧ r.detail = off) ∧ (t.guest g).vf = (s.guest g).vf)

/-- R252: a published write enters the view of a path that its publication reaches, whether it stays or is folded into its
line. R150, R186, R201, R269, R270: that a write to the own scratchpad may enter the view of another path of its core before any
fence, but for one of the M path, and a scattered element that of a path of the member it goes to before any boundary, is log 29
(DEDUCED). R311, R341 to R344: a cycle of a core in RUN gives the events noted to the counters that count them, modulo 2^48, and
counts one cycle; a core in any other state counts nothing. -/
def Obligations.ViewsAndCycles : Prop :=
  (∀ s n c p r, s.writes.find? (fun r => r.id == n) = some r →
    (r.performed = true → reachesParty s r ⟨c, p⟩ = true → (s.core c).place.isSome = true →
      ∃ t, exec (.writeEntersView n c p) s = .next t ∧ (∀ r' ∈ t.writes, r'.id = n → ⟨c, p⟩ ∈ r'.viewers) ∧
        (∀ r' ∈ t.writes, ∃ q ∈ s.writes, q.id = r'.id ∧ q.bits = r'.bits ∧ q.loc = r'.loc)) ∧
    (r.performed = true → mayReach r ⟨c, p⟩ = true → (s.core c).place.isSome = true →
      ∃ t, exec (.writeEntersView n c p) s = .next t ∧ (∀ r' ∈ t.writes, r'.id = n → ⟨c, p⟩ ∈ r'.viewers) ∧
        (∀ r' ∈ t.writes, ∃ q ∈ s.writes, q.id = r'.id ∧ q.bits = r'.bits ∧ q.loc = r'.loc ∧ q.pub = r'.pub)) ∧
    (r.performed = false ∨ (reachesParty s r ⟨c, p⟩ = false ∧ mayReach r ⟨c, p⟩ = false) →
      exec (.writeEntersView n c p) s = .next s)) ∧
  (∀ (r : WriteRec) (p : Party) w, r.writer = some w → (mayReach r p = true ↔ r.loc.space = .sp p.core ∧
    ((w.core = p.core ∧ w.path ≠ .m) ∨ ∃ t, r.kind = .scatter t))) ∧
  (∀ s c, c < 64 → (s.core c).mode ≠ .run → ∃ t, exec (.arithmeticClockCycle c) s = .next t ∧
    (t.core c).tally = [] ∧ (t.core c).pmc = (s.core c).pmc ∧ (t.core c).qidle = 0) ∧
  (∀ s c n m ev, c < 64 → n < 8 → (s.core c).mode = .run →
    ev = (noteWait .x (noteWait .a ((s.core c).note 1 none .u 1))).tally →
    m = ((ev.filter (pmcCounts ((s.core c).pmcReg (8 + n)))).map (·.n)).sum →
    ∃ t, exec (.arithmeticClockCycle c) s = .next t ∧ (t.core c).tally = [] ∧ (t.core c).pmcX = [] ∧
      (0 < m → (t.core c).pmcReg n = word ((((s.core c).pmcReg n).toNat + m) % 2 ^ 48)) ∧
      (m = 0 → (t.core c).pmcReg n = (s.core c).pmcReg n) ∧
      (((s.core c).pmcReg n).toNat + m < 2 ^ 48 → (t.core c).pmcReg (8 + n) = (s.core c).pmcReg (8 + n)) ∧
      (0 < m → 2 ^ 48 ≤ ((s.core c).pmcReg n).toNat + m → bit ((t.core c).pmcReg (8 + n)) 61 = true) ∧
      (t.core c).qidle = (if qidleAdvances s c then (s.core c).qidle + 1 else 0))

/-! ### Links, retirement, bring-up and management (R375 to R392) -/

/-- A violation of a link's protocol: a record of kind 5 with its code, and the peer behind the link frozen (R387). -/
def Sys2Proof.Claims.LinkViolated (s t : State) (link code : Nat) : Prop :=
  tabFind t.peerFrozen link = some s.violSeq ∧ t.mem = s.mem ∧ t.writes = s.writes ∧
    ∃ r ∈ t.viols, r.seq = s.violSeq ∧ r.kind = 5 ∧ r.mtype = 4 ∧ r.midx = link ∧ r.detail = code

/-- An entry of a guest's inbound aperture admits a peer's request (R386): it is valid and names the peer, its guest, and the
link that the request came on (that it must name the link is log 34). -/
def Sys2Proof.Claims.Admits (q : PeerReq) (e : Word) : Prop :=
  bit e 63 = true ∧ fld e 16 8 = q.dev ∧ fld e 0 7 = q.rguest ∧ bit e (32 + q.link) = true

/-- A peer's request that can be served: an inbound entry admits it, its GPA passes the comparator, and its line's home serves it
(R325, R386). -/
def Sys2Proof.Claims.Served (s : State) (q : PeerReq) (l : Loc) : Prop :=
  (∃ j, j < 16 ∧ Claims.Admits q (apertureLo s true q.guest j) ∧ (∀ i, i < j → ¬ Claims.Admits q (apertureLo s true q.guest i)) ∧
    (q.op.writes = true → bit (apertureLo s true q.guest j) 62 = true)) ∧
  gpaPasses (s.guest q.guest) q.gpa = true ∧ placeGpa s q.guest 1 q.op.writes q.gpa = .ok l ∧ homeOpen s l = true

/-- R263, R283, R336, R386, R387: a peer's request on a link that is up and not frozen, which the first inbound entry that names
it admits and whose GPA passes the comparator, reads a line with its tag, replaces one whole at system scope, or performs
an atomic on 8 bytes at their home, which answers what they held; one with a bad tag or without an entry violates the
protocol with code 4 or 3. A link that is down or frozen takes nothing. -/
def Sys2Proof.Claims.PeerRequests : Prop :=
  ∀ s (q : PeerReq), q.link < 16 → q.guest < 128 →
    (linkReady s q.link = false → exec (.peerRequest q) s = .next s) ∧
    (linkReady s q.link = true →
      (∀ bits tag, q.op = .write bits tag → 10 ≤ tagFmt tag ∨ 4 ≤ tagClass tag →
        ∃ t, exec (.peerRequest q) s = .next t ∧ Claims.LinkViolated s t q.link 4) ∧
      ((∀ bits tag, q.op = .write bits tag → tagFmt tag ≤ 9 ∧ tagClass tag ≤ 3) →
        (∀ j, j < 16 → ¬ Claims.Admits q (apertureLo s true q.guest j)) →
        ∃ t, exec (.peerRequest q) s = .next t ∧ Claims.LinkViolated s t q.link 3) ∧
      ∀ l, Claims.Served s q l →
        (q.op = .read → ∃ t, exec (.peerRequest q) s = .next t ∧ t.writes = s.writes ∧
          Claims.Replied s t 66 ((systemImg s l).bits.toNat + (systemImg s l).tag.toNat * 2 ^ 512)) ∧
        (∀ bits tag, q.op = .write bits tag → tagFmt tag ≤ 9 → tagClass tag ≤ 3 →
          ∃ t, exec (.peerRequest q) s = .next t ∧ ∃ r ∈ t.writes, r.loc = l ∧ r.pub = some .system ∧ r.bits = bits ∧
            r.tag = some tag ∧ r.mask = BitVec.allOnes 64) ∧
        (∀ op b d, q.op = .atomic op b d → (∀ r ∈ s.writes, r.loc = l → r.pub.isSome = true) → l.space ≠ .host →
          tagClass (systemImg s l).tag = 0 → (systemImg s l).mark = false → op ≠ .fadd → q.gpa % 8 = 0 →
          ∃ t, exec (.peerRequest q) s = .next t ∧
            Claims.Replied s t 8 (lineBytes (systemImg s l).bits (q.gpa % 64) 8) ∧
            ∀ v, Claims.AmoResult op 0 (word (lineBytes (systemImg s l).bits (q.gpa % 64) 8)) b d (some v) →
              ∃ r ∈ t.writes, r.loc = l ∧ r.pub = some .system ∧ r.tag = none ∧ r.mask = byteMask (q.gpa % 64) 8 ∧
                lineBytes r.bits (q.gpa % 64) 8 = v.toNat))

/-- A request is outstanding on a link, and the lines of a response are all outstanding there, each asked for as often as the
response brings it (R387). -/
def Sys2Proof.Claims.Asked (s : State) (i dev g : Nat) (ls : List PeerLine) : Prop :=
  (∃ e ∈ s.peerOut, e.1 = i) ∧ ∀ e, (ls.map (fun x => (i, peerAddr dev g x.gpa / 64))).count e ≤ s.peerOut.count e

/-- R370, R385, R387: on a link that is up and not frozen a flit whose CRC fails is retried, with its failures counted; a
malformed one violates the protocol with code 1, a response with a line that nothing asked for, or on a link with nothing
outstanding, with code 2, and one with a
bad tag with code 4; a response brings the peer's lines, three at most, and the peer's requests in a flit are taken in
order. Elsewhere a flit is lost. -/
def Sys2Proof.Claims.Flits : Prop :=
  ∀ s i, i < 16 →
    (∀ f, linkReady s i = false → exec (.flitReceive i f) s = .next s) ∧
    (linkReady s i = true →
      (∀ lanes, ∃ t, exec (.flitReceive i (.badCrc lanes)) s = .next t ∧ t.mem = s.mem ∧ t.viols = s.viols ∧
        tabGet 0 t.linkRetry i = tabGet 0 s.linkRetry i + 1) ∧
      (∃ t, exec (.flitReceive i .malformed) s = .next t ∧ Claims.LinkViolated s t i 1) ∧
      (∀ dev g ls, ls.length ≤ 3 → ¬ Claims.Asked s i dev g ls →
        ∃ t, exec (.flitReceive i (.response dev g ls)) s = .next t ∧ Claims.LinkViolated s t i 2) ∧
      (∀ dev g ls, ls.length ≤ 3 → Claims.Asked s i dev g ls → (∃ x ∈ ls, 10 ≤ tagFmt x.tag ∨ 4 ≤ tagClass x.tag) →
        ∃ t, exec (.flitReceive i (.response dev g ls)) s = .next t ∧ Claims.LinkViolated s t i 4) ∧
      (∀ dev g ls, ls.length ≤ 3 → Claims.Asked s i dev g ls → (∀ x ∈ ls, tagFmt x.tag ≤ 9 ∧ tagClass x.tag ≤ 3) →
        (ls.map (fun x => peerAddr dev g x.gpa / 64)).Nodup →
        (∀ x ∈ ls, ∀ r ∈ s.writes, r.loc ≠ ⟨.peer, peerAddr dev g x.gpa / 64⟩) →
        ∃ t, exec (.flitReceive i (.response dev g ls)) s = .next t ∧ t.viols = s.viols ∧
          (∀ e, t.peerOut.count e = s.peerOut.count e - (ls.map (fun x => (i, peerAddr dev g x.gpa / 64))).count e) ∧
          ∀ x ∈ ls, systemImg t ⟨.peer, peerAddr dev g x.gpa / 64⟩ = ⟨x.bits, x.tag, false⟩) ∧
      ∀ q n, n = (match q.op with | .write _ _ => 1 | _ => 0) → exec (.flitReceive i (.request [q])) s =
        exec (.peerRequest { q with link := i })
          (fabricCount 0x23 i n (fabricCount 0x21 i 1 { s with linkRetry := tabErase s.linkRetry i })))

/-- R375, R377, R379, R380, R381: once an edge has come, the retirement of a marked LLC bank takes its lines out of the stack's LLC and sets its bit of
RBANK, and no line is in that bank any more while another of its layer works (which bank of the layer takes a line is a free value,
log 2); a marked row of HBM with a spare is remapped; the marked lanes of a link leave it while it has more than one, and
stay with one. Each counts again from zero, and a structure that is not marked stays. -/
def Obligations.Retirements : Prop :=
  (∀ s st layer bank u ty, st < 8 → layer < 4 → bank < 32 → u = 32 * layer + bank →
    ty = (if isMarked s 5 st u = true then 5 else 6) →
    (isMarked s ty st u = false → exec (.llcBankRetire st layer bank) s = .next s) ∧
    (isMarked s ty st u = true → ∃ t, exec (.llcBankRetire st layer bank) s = .next t ∧
      bit (t.pfReg (0x71200 + 8 * (4 * st + layer))) bank = true ∧ isMarked t ty st u = false ∧
      (∀ e ∈ t.llc, e.1 = st → bankOf s st e.2.2 ≠ u) ∧ (∀ r ∈ t.replicas, r.stack = st → bankOf s st r.line ≠ u) ∧
      ((∃ i, i < 32 ∧ i ≠ bank ∧ bit (s.pfReg (0x71200 + 8 * (4 * st + layer))) i = false) → ∀ n, bankOf t st n ≠ u))) ∧
  (∀ s h row lost, let key := h % 2 + 2 * row
    (isMarked s 7 (h / 2) key = false → ∀ spare, exec (.hbmRowRemap h row lost spare) s = .next s) ∧
    (isMarked s 7 (h / 2) key = true →
      (∃ t, exec (.hbmRowRemap h row lost true) s = .next t ∧ (h, row) ∈ t.rowsRemapped ∧ isMarked t 7 (h / 2) key = false) ∧
      ∃ t, exec (.hbmRowRemap h row lost false) s = .next t ∧ t.rowsRemapped = s.rowsRemapped ∧ t.mem = s.mem ∧
        isMarked t 7 (h / 2) key = false)) ∧
  (∀ s i bad lane, i < 16 → lane < 8 → (s.pfReg (0x71400 + 8 * i)).toNat < 256 →
    ((∀ j, j < 8 → isMarked s 8 i j = false) → exec (.linkNarrow i bad) s = .next s) ∧
    (isMarked s 8 i lane = true → lanesLeft (s.pfReg (0x71400 + 8 * i)).toNat < 2 → ∃ t, exec (.linkNarrow i bad) s = .next t ∧
      t.pfReg (0x71400 + 8 * i) = s.pfReg (0x71400 + 8 * i) ∧ isMarked t 8 i lane = false) ∧
    (isMarked s 8 i lane = true → 2 ≤ lanesLeft (s.pfReg (0x71400 + 8 * i)).toNat → bad = 0 →
      (∃ j, j < 8 ∧ isMarked s 8 i j = false ∧ bit (s.pfReg (0x71400 + 8 * i)) j = false) →
      ∃ t, exec (.linkNarrow i bad) s = .next t ∧ bit (t.pfReg (0x71400 + 8 * i)) lane = true ∧
        isMarked t 8 i lane = false) ∧
    (isMarked s 8 i lane = true → 2 ≤ lanesLeft (s.pfReg (0x71400 + 8 * i)).toNat → bad = 0 →
      bit (s.pfReg (0x71400 + 8 * i)) lane = false → ∃ t, exec (.linkNarrow i bad) s = .next t ∧ isMarked t 8 i lane = false ∧
        1 ≤ lanesLeft (t.pfReg (0x71400 + 8 * i)).toNat ∧
        lanesLeft (t.pfReg (0x71400 + 8 * i)).toNat < lanesLeft (s.pfReg (0x71400 + 8 * i)).toNat))

/-- R337, R382, R385, R390, R391: power-on takes the package to its reset values and power-off takes power away, with host
memory kept; HBM and a link that their control registers ask for come up, a link at generation 2 or 3 and not while its
peer is frozen; the microcode shows DONE or BAD after its load; LIMIT is clamped to 1,200 to 2,800 W, and a stack keeps at
least half of its pulses; the host link comes up at generations 4 to 6 with 16, 8 or 4 lanes. -/
def Sys2Proof.Claims.PowerAndTraining : Prop :=
  (∀ s, (s.powered = true → exec .powerOn s = .next s) ∧
    (s.powered = false → ∃ t, exec .powerOn s = .next t ∧ t.powered = true ∧ t.cores = [] ∧ t.guests = [] ∧ t.pf = [] ∧
      t.mem = [] ∧ t.ttActive = none ∧ t.hostMem = s.hostMem) ∧
    ∃ t, exec .powerOff s = .next t ∧ t.powered = false ∧ t.cores = [] ∧ t.mem = [] ∧ t.hostMem = s.hostMem) ∧
  (∀ s h, (h < 16 → bit (s.pfReg 0xA8010) h = true → ∃ t, exec (.hbmTrain h) s = .next t ∧
      bit (t.pfReg 0xA8018) h = true ∧ ∀ j, j ≠ h → j < 64 → bit (t.pfReg 0xA8018) j = bit (s.pfReg 0xA8018) j) ∧
    (16 ≤ h ∨ bit (s.pfReg 0xA8010) h = false → exec (.hbmTrain h) s = .next s)) ∧
  (∀ s i gen, (i < 16 → gen = 2 ∨ gen = 3 → bit (s.pfReg 0xA8020) i = true → tabFind s.peerFrozen i = none →
      ∃ t, exec (.linkTrain i gen) s = .next t ∧ bit (t.pfReg 0xA8028) i = true ∧
        (bit (t.pfReg 0xA8028) (32 + i) = true ↔ gen = 3)) ∧
    (bit (s.pfReg 0xA8020) i = false ∨ (tabFind s.peerFrozen i).isSome = true → exec (.linkTrain i gen) s = .next s)) ∧
  (∀ s, (bit (s.pfReg 0xA8000) 0 = false → exec .microcodeLoadDone s = .next s) ∧
    (bit (s.pfReg 0xA8000) 0 = true → ∃ t, exec .microcodeLoadDone s = .next t ∧
      fld (t.pfReg 0xA8000) 0 3 = if (Config.imageCrc s.microcode).toNat = fld (s.pfReg 0xA8000) 32 32 then 2 else 4)) ∧
  (∀ s v, ∃ t, exec (.pwrctlWrite v) s = .next t ∧
    (t.pfReg 0x98000).toNat = Nat.min 2800 (Nat.max 1200 (fld v 0 12)) ∧ ∀ o, o ≠ 0x98000 → t.pfReg o = s.pfReg o) ∧
  (∀ s st f, st < 8 → ∃ t, exec (.thermalLimiting st f) s = .next t ∧
    fld (t.pfReg 0x98008) (8 * st) 8 = Nat.min 255 (Nat.max 128 f)) ∧
  (∀ s gen w, ((4 ≤ gen ∧ gen ≤ 6) ∧ (w = 4 ∨ w = 8 ∨ w = 16) → exec (.hostLinkTrain gen w) s = .next { s with hostLink := some (gen, w) }) ∧
    (gen < 4 ∨ 6 < gen → exec (.hostLinkTrain gen w) s = .next s))

/-- R179, R381, R384, R391, R392: a write of MCCTL, of a retirement register or of a schedule takes effect at once while no
table has been active; once one has, the first two are dropped with REASON 8 and a schedule waits for an edge. A write
of RCORE that names more than one unit changes nothing. A self-test that leaves an edge without room is refused; another
takes the bank's lines out of the LLC, and leaves HBM as it was where none of them is dirty and no saved context lies there. -/
def Obligations.BringUpWrites : Prop :=
  (∀ s v, (fld (s.pfReg ttstatOff) 48 16 = 0 → ∃ t, exec (.mcctlLoad v) s = .next t ∧
      t.pfReg 0xA8000 = v &&& 0xFFFFFFFF00000001 ∧ ∀ o, o ≠ 0xA8000 → t.pfReg o = s.pfReg o) ∧
    (fld (s.pfReg ttstatOff) 48 16 ≠ 0 → exec (.mcctlLoad v) s = .next (hostError .pf 0 0xA8000 8 s))) ∧
  (∀ s off v, (off % 8 = 0 → 0x71200 ≤ off → off < 0x71300 → fld (s.pfReg ttstatOff) 48 16 = 0 →
      ∃ t, exec (.retirementStateWrite off v) s = .next t ∧ (t.pfReg off).toNat = fld v 0 32 ∧
        ∀ o, o ≠ off → t.pfReg o = s.pfReg o) ∧
    (off % 8 = 0 → 0x71400 ≤ off → off < 0x71480 → fld (s.pfReg ttstatOff) 48 16 = 0 →
      ∃ t, exec (.retirementStateWrite off v) s = .next t ∧ (t.pfReg off).toNat = fld v 0 8 ∧
        ∀ o, o ≠ off → t.pfReg o = s.pfReg o) ∧
    (off % 8 = 0 → 0x71000 ≤ off → off < 0x71300 → fld (s.pfReg ttstatOff) 48 16 ≠ 0 →
      exec (.retirementStateWrite off v) s = .next (hostError .pf 0 off 8 s))) ∧
  (∀ s c v, c < 64 → fld (s.pfReg ttstatOff) 48 16 = 0 →
    (((List.range 7).filter (fun i => bit v (16 + i))).length ≤ 1 →
      ∃ t, exec (.retirementStateWrite (0x71000 + 8 * c) v) s = .next t ∧ (t.core c).units.lanesOut.toNat = fld v 0 16 ∧
        (t.core c).units.unitsOut.toNat = fld v 16 7 ∧ t = s.setCore c (t.core c)) ∧
    (1 < ((List.range 7).filter (fun i => bit v (16 + i))).length →
      exec (.retirementStateWrite (0x71000 + 8 * c) v) s = .next s)) ∧
  (∀ s c u v, c < 64 → u < 8 →
    (fld (s.pfReg ttstatOff) 48 16 = 0 → ∃ t, exec (.mschedWrite c u v) s = .next t ∧
      t.pfReg (0xA0000 + 0x40 * c + 8 * u) = v &&& 0x1FFFFF) ∧
    (fld (s.pfReg ttstatOff) 48 16 ≠ 0 → ∃ t, exec (.mschedWrite c u v) s = .next t ∧ t.pf = s.pf ∧
      tabFind t.pendPf (0xA0000 + 0x40 * c + 8 * u) = some (v &&& 0x1FFFFF))) ∧
  (∀ s st layer bank failing, st < 8 → layer < 4 → bank < 32 →
    (testFits st layer bank s = false → ∃ t, exec (.selfTest st layer bank failing) s = .next t ∧ t.llc = s.llc ∧
      t.errCounts = s.errCounts) ∧
    (testFits st layer bank s = true → ∃ t, exec (.selfTest st layer bank failing) s = .next t ∧
      (∀ e ∈ t.llc, e.1 = st → bankOf s st e.2.2 ≠ 32 * layer + bank) ∧
      ((∀ e ∈ s.llcDirty, e.1 = st → bankOf s st e.2.2 ≠ 32 * layer + bank) →
        (∀ g, ∀ d ∈ (s.guest g).drained, ∀ m ∈ d.members, m.slot.isSome = true ∨ m.stack ≠ st) → t.mem = s.mem)))

/-- A management request has been answered, in its version: with a value, or refused (R389). -/
def Sys2Proof.Claims.Managed (s t : State) (v : MctpVersion) (refused : Bool) (value : Word) : Prop :=
  t.managed = s.managed ++ [⟨v, refused, value⟩] ∧ t.replies = s.replies

/-- R389: a management request reads a temperature, a power, TTSTAT, EQTAIL, EQLOST or a retirement register, or writes LIMIT;
any other is refused. Each is answered in the version that it carries; that the answer to a write of LIMIT, and a refusal, carry 0 is
log 40 (DESIGN CHOICE). -/
def Sys2Proof.Claims.Management : Prop :=
  ∀ s v, (∀ d, ∃ t, exec (.mctpRequest ⟨v, .readTemperature d⟩) s = .next t ∧
      Claims.Managed s t v false (Config.dieTemperature d s.timeUs) ∧ t.pf = s.pf) ∧
    (∀ d, ∃ t, exec (.mctpRequest ⟨v, .readPower d⟩) s = .next t ∧
      Claims.Managed s t v false (Config.powerDrawn d s.timeUs) ∧ t.pf = s.pf) ∧
    (∃ t, exec (.mctpRequest ⟨v, .readTtstat⟩) s = .next t ∧ Claims.Managed s t v false (s.pfReg 0x20008) ∧ t.pf = s.pf) ∧
    (∃ t, exec (.mctpRequest ⟨v, .readEqtail⟩) s = .next t ∧ Claims.Managed s t v false (s.pfReg 0x70010) ∧ t.pf = s.pf) ∧
    (∃ t, exec (.mctpRequest ⟨v, .readEqlost⟩) s = .next t ∧ Claims.Managed s t v false (s.pfReg 0x70020) ∧ t.pf = s.pf) ∧
    (∀ c, c < 64 → ∃ t, exec (.mctpRequest ⟨v, .readRetirement (0x71000 + 8 * c)⟩) s = .next t ∧ t.pf = s.pf ∧
      Claims.Managed s t v false (word ((s.core c).units.unitsOut.toNat * 65536 + (s.core c).units.lanesOut.toNat))) ∧
    (∀ st l, st < 8 → l < 4 → ∃ t, exec (.mctpRequest ⟨v, .readRetirement (0x71200 + 8 * (4 * st + l))⟩) s = .next t ∧
      Claims.Managed s t v false (s.pfReg (0x71200 + 8 * (4 * st + l))) ∧ t.pf = s.pf) ∧
    (∀ off, isRetirementOff off = false → ∃ t, exec (.mctpRequest ⟨v, .readRetirement off⟩) s = .next t ∧
      Claims.Managed s t v true 0 ∧ t.pf = s.pf) ∧
    (∀ n, ∃ t, exec (.mctpRequest ⟨v, .writeLimit n⟩) s = .next t ∧ Claims.Managed s t v false 0 ∧
      (t.pfReg 0x98000).toNat = Nat.min 2800 (Nat.max 1200 (fld n 0 12))) ∧
    ∃ t, exec (.mctpRequest ⟨v, .writeOther⟩) s = .next t ∧ Claims.Managed s t v true 0 ∧ t.pf = s.pf

/-! ### Decoding, the step, checks and frames (R32 to R50, R352) -/

/-- R32 to R45: for every instruction that words encode, the decoder reads it back from its bytes whatever follows, with every
field as it was; and whatever bytes the decoder reads an instruction from are the bytes of that instruction. -/
def Obligations.EncodeDecode : Prop :=
  (∀ i rest, isEvent i = false → decode (encodeBytes i ++ rest) = .ok (i, rest)) ∧
  ∀ bs i rest, decode bs = .ok (i, rest) → encodeBytes i ++ rest = bs

/-- R42: how many values of X, counted from 0, an opcode has in the opcode map; an unassigned one has none. -/
def Sys2Proof.Claims.named (op : Nat) : Nat :=
  ((([(0x01, 5), (0x02, 4), (0x03, 5), (0x04, 4), (0x05, 4), (0x06, 5), (0x07, 2), (0x08, 3), (0x09, 8), (0x0A, 1), (0x0B, 8),
    (0x0C, 1), (0x0D, 1), (0x0E, 5), (0x10, 5), (0x11, 3), (0x12, 4)] ++
    [(0x30, 7), (0x31, 4), (0x32, 7), (0x33, 4), (0x34, 1), (0x35, 1), (0x36, 1), (0x37, 1), (0x38, 1), (0x39, 1), (0x3A, 1),
    (0x3B, 1), (0x3C, 2), (0x3D, 1), (0x3E, 1)] ++
    [(0x50, 7), (0x51, 1), (0x52, 1), (0x53, 1), (0x54, 3), (0x55, 3), (0x56, 2), (0x57, 1), (0x58, 1)] ++
    [(0x60, 1), (0x61, 1), (0x62, 1), (0x63, 2), (0x64, 2), (0x65, 6), (0x66, 3), (0x67, 7), (0x68, 7), (0x69, 6), (0x6A, 4),
    (0x6B, 3), (0x6C, 4), (0x6D, 8), (0x6E, 6)] ++
    [(0xA0, 1), (0xA1, 2), (0xA2, 2), (0xA3, 1), (0xA4, 1), (0xA5, 1), (0xA6, 1), (0xA7, 1), (0xA8, 1), (0xB0, 2), (0xB1, 2),
    (0xB2, 1), (0xC0, 4), (0xC1, 2)] : List (Nat × Nat)).find? (fun e => e.1 == op)).map (·.2)).getD 0

/-- R42: a word names an instruction exactly when its opcode is in the opcode map and its X is one of those listed there. -/
def Sys2Proof.Claims.NamedWords : Prop :=
  ∀ w w2, (decodeWords w w2).isSome = decide (wordX w < Claims.named (wordOp w))

/-- R34 to R39, R42: words that the spec writes out name the instructions that it writes beside them. -/
def Sys2Proof.Claims.WrittenWords : Prop :=
  decodeWords 0x0100020203000000 0 = some (.add ⟨⟨0, false⟩, 2, 2, 3, 0, false, false, false, 0⟩) ∧
  decodeWords 0x0C00010000000014 0 = some (.li ⟨⟨0, false⟩, 1, 0, false, 20⟩) ∧
  decodeWords 0x0D00090000000000 0x123456789ABCDEF0 = some (.liw ⟨⟨0, false⟩, 9, 0, false, 0, 0x123456789ABCDEF0⟩) ∧
  decodeWords 0x100400FFFFFFFFFE 0x0001000000000000 = some (.loop ⟨⟨0, false⟩, 0, 0xFFFFFFFFFE, 0, 1, 0⟩) ∧
  decodeWords 0x3003050300000810 0 = some (.ld .d ⟨⟨0, false⟩, 5, 3, 0, 8, false, false, 1, 0, 0⟩) ∧
  decodeWords 0x0B06D10400000000 0 = some (.cmpi .gt ⟨⟨0, false⟩, 0xD1, 4, false, 0⟩) ∧
  decodeWords 0x66024543444B1000 0 = some (.vfnma ⟨⟨0, false⟩, 0x45, 0x43, 0x44, 0x4B, false, false, false, 0x1000⟩)

/-- A stream may take an instruction boundary, and none of the causes before the fetch in R352 holds. -/
def Sys2Proof.Claims.ReadyToFetch (s : State) (c : Nat) (t : StreamId) : Prop :=
  (s.core c).canIssue t = true ∧ bit (s.streamAt c t).wctl 7 = false ∧ (s.streamAt c t).stepPending = false ∧
    (s.core c).owedFault t = none ∧ (s.streamAt c t).partnerTrap = none ∧ breakMatches (s.streamAt c t) = []

/-- The word at an address, as a stream fetches it: through an executable page that is not SEALED, from a VALID line in the
view of its own path (R49, R208, log 48), whose home and whose tables serve it (R325, R336). -/
def Sys2Proof.Claims.WordAt (s : State) (c : Nat) (t : StreamId) (pc : Nat) (w : Word) (x : Xlat) (l : Loc) : Prop :=
  pc < 2 ^ 48 ∧ lookupOpen s c pc = true ∧ lookup s c .fetch pc = .ok x ∧ pageSealed s (s.guestOf c) x = false ∧
    ∃ i, placeGpa s (s.guestOf c) 1 false (x.gpaAt pc) = .ok l ∧ reachable s (s.guestOf c) (x.gpaAt pc) l = true ∧
    i = readThrough s (s.guestOf c) x (x.gpaAt pc) (if pteClass x.leaf = 2 then
        appendImg s (s.guestOf c) (fun r => decide (⟨c, if t = .a then .a else .x⟩ ∈ r.viewers)) x l
      else viewImg s ⟨c, if t = .a then .a else .x⟩ l) ∧ tagClass i.tag = 0 ∧
    w.toNat = lineBytes i.bits (pc % 64) 8

/-- What the fetch of a word leaves: its translation cached, and, of an instruction that has not been fetched yet, the request for a
line behind an aperture (R386, R388). -/
def Sys2Proof.Claims.fetchedWord (s : State) (c : Nat) (t : StreamId) (pc : Nat) (x : Xlat) (l : Loc) : State :=
  if (s.streamAt c t).wait.isNone ∧ l.space = .peer then sendRequest (s.guestOf c) (x.gpaAt pc) l (fillTlb c x s)
  else fillTlb c x s

/-- R47, R48, R49, R352, R388: the step of a stream at an instruction boundary runs the instruction that the words at its pc decode
to, with the translations that the fetch has used cached and its requests sent; words that name no instruction trap ILLEGAL with
TVAL = the word. -/
def Obligations.StepRunsWord : Prop :=
  ∀ (s s0 s1 : State) (c : Nat) (t : StreamId) (rest : List Action) (pc : Nat) (w : Word) (x : Xlat) (l : Loc),
    s.agenda = .issue c t :: rest → s0 = { s with agenda := rest } → Claims.ReadyToFetch s c t → pc = (s.streamAt c t).pc.toNat →
    Claims.WordAt s0 c t pc w x l → s1 = Claims.fetchedWord s0 c t pc x l →
    (∀ i, decodeWords w 0 = some i → instrBytes i = 8 → step s = exec i { s1 with turn := (c, t) }) ∧
    (∀ i w2 x2 l2, Claims.WordAt s1 c t (pc + 8) w2 x2 l2 → decodeWords w w2 = some i → instrBytes i = 16 →
      step s = exec i { Claims.fetchedWord s1 c t (pc + 8) x2 l2 with turn := (c, t) }) ∧
    (decodeWords w 0 = none →
      step s = .next (takeTrap c t .illegal w (s.streamAt c t).pc .instr s1))

/-- R15, R47, R363: an instruction whose predicate is true traps STREAM_CLASS in a stream of the wrong class, then ILLEGAL when
a field holds what it may not, both with TVAL = its first word; an S-level instruction at U freezes its stream with a
violation record of kind 3 that names the word, and has no effect. -/
def Obligations.DecodeChecks : Prop :=
  ∀ i s, isEvent i = false → s.strm.predTrue (predOf i) = true →
    ((streamClass i).admits s.turn.2 = false →
      exec i s = .next (takeTrap s.turn.1 s.turn.2 .streamClass (firstWord i) s.strm.pc .instr s)) ∧
    ((streamClass i).admits s.turn.2 = true → fieldsOk s.turn.2 i = false →
      exec i s = .next (takeTrap s.turn.1 s.turn.2 .illegal (firstWord i) s.strm.pc .instr s)) ∧
    ((streamClass i).admits s.turn.2 = true → fieldsOk s.turn.2 i = true → isSLevel i = true → s.strm.level = .u →
      ∃ t, exec i s = .next t ∧ t.strm.frozen = some s.violSeq ∧ t.strm.pc = s.strm.pc ∧ t.strm.level = .u ∧
        t.viols = s.viols ++ [⟨s.violSeq, 3, if s.turn.2 = .a then 0 else 1, s.turn.1, 0, 0, s.strm.pc.toNat,
          (firstWord i).toNat, s.cur.guest, false⟩] ∧
        (∀ c, t.strm.reg c = s.strm.reg c) ∧ t.guests = s.guests ∧ t.writes = s.writes ∧ t.mem = s.mem)

/-- The frame of the scalar and predicate results (R17, R24, R25, R101): beside its destination, the queues it pops, the pc and
the state that retirement touches, an instruction that ends in `wrote` or `wrotePred` leaves every register, predicate,
queue, special register and byte of memory as it was; s0 and p0 stay 0 and true. -/
def Obligations.ScalarFrame : Prop :=
  ∀ (i : Instr) (s t : State) (l : List Src) (d : Code) (v : Word) (b : Bool),
    t = s.done i (s.wrote l d v) ∨ t = s.done i (s.wrotePred l d b) →
    t.strm.pc = s.strm.nextPc i ∧ t.strm.reg 0 = 0 ∧ t.strm.pred 0xD0 = true ∧
    (∀ c, c ≠ d → t.strm.reg c = s.strm.reg c) ∧ (∀ c, codeIsP c = true → c ≠ d → t.strm.pred c = s.strm.pred c) ∧
    (∀ c, codeIsQ c = true → c ≠ d → (∀ x ∈ l, x.code ≠ c) → t.cur.queue c = s.cur.queue c) ∧
    t.strm.level = s.strm.level ∧ t.strm.tcause = s.strm.tcause ∧ t.strm.tval = s.strm.tval ∧ t.strm.tpc = s.strm.tpc ∧
    t.strm.tstat = s.strm.tstat ∧ t.cur.vec = s.cur.vec ∧ t.cur.mat = s.cur.mat ∧ t.cur.copy = s.cur.copy ∧
    t.cur.stream (otherStream s.turn.2) = s.cur.stream (otherStream s.turn.2) ∧ t.cur.sp = s.cur.sp ∧
    t.cur.pmc = s.cur.pmc ∧ (∀ c, c ≠ s.turn.1 → t.core c = s.core c) ∧
    t = s.setCore s.turn.1 t.cur

/-- A byte of a line as the current core's A path reads it. -/
def Sys2Proof.Claims.byteAt (s : State) (l : Loc) (j : Nat) : Nat := lineBytes (viewImg s ⟨s.turn.1, .a⟩ l).bits j 1

/-- A VALID line, whose bytes beyond the span of an RC line are zero, as they read (R69). -/
def Sys2Proof.Claims.Spanned (i : LineImg) : Prop := tagClass i.tag = 0 ∧ rcSpan i.mark i.tag i.bits = i.bits

/-- The frame of the accesses of A, R39, R227 to R233: LDS leaves every byte and every register but D and its base; LD the
same but for the full/empty bit of D; STS and ST store to the address that form M computes, and every byte outside the
stored bytes reads as before; each leaves the predicates, the trap registers, the other stream, the vector and the matrix
state. -/
def Obligations.AccessFrames : Prop :=
  let frame (f : MForm) (d : Option Code) (s u : State) : Prop :=
    (∀ c, some c ≠ d → c ≠ f.a → u.strm.reg c = s.strm.reg c) ∧ (∀ c, u.strm.pred c = s.strm.pred c) ∧
      u.strm.level = s.strm.level ∧ u.strm.tcause = s.strm.tcause ∧ u.strm.tval = s.strm.tval ∧ u.strm.tpc = s.strm.tpc ∧
      u.strm.tstat = s.strm.tstat ∧ u.cur.x = s.cur.x ∧ u.cur.vec = s.cur.vec ∧ u.cur.mat = s.cur.mat ∧
      u.cur.copy = s.cur.copy ∧ u.mem = s.mem ∧ u.hostMem = s.hostMem ∧ u.cur.sp = s.cur.sp
  (∀ sz f s a, Runs (.lds sz f) s → s.turn.2 = .a → SourcesReady s [mSrcA f, mSrcB f] → DestReady s f.d →
    a = Claims.address f sz.bytes (s.src f.a) (s.src f.b) → a.toNat % sz.bytes = 0 → a.toNat + sz.bytes ≤ 0x400000 →
    Claims.NoAcquire s →
    Claims.Completes (.lds sz f) s (fun u => frame f (some f.d) s u ∧ u.cur.q = s.cur.q ∧
      ∀ l j, Claims.byteAt u l j = Claims.byteAt s l j)) ∧
  (∀ sz f s a x l, Runs (.ld sz f) s → s.turn.2 = .a → SourcesReady s [mSrcA f, mSrcB f] → DestReady s f.d →
    a = Claims.address f sz.bytes (s.src f.a) (s.src f.b) → a.toNat % sz.bytes = 0 → Claims.Reaches s .read a.toNat x l →
    s.cur.requests < 4096 → Claims.NoAcquire s → pteClass x.leaf < 2 → mAcq f = none → (∀ r ∈ s.writes, r.apage = none) →
    Claims.Completes (.ld sz f) s (fun u => frame f none s u ∧ u.cur.q = s.cur.q ∧
      ∀ l j, Claims.byteAt u l j = Claims.byteAt s l j)) ∧
  (∀ sz f s a, Runs (.sts sz f) s → s.turn.2 = .a → SourcesReady s [mSrcA f, mSrcB f] →
    a = Claims.address f sz.bytes (s.src f.a) 0 → a.toNat % sz.bytes = 0 → a.toNat + sz.bytes ≤ 0x400000 →
    a.toNat + sz.bytes ≤ s.cur.placeD.spBytes → Claims.NoAcquire s → partitionWrites s.writes = s.writes →
    unperformed s s.turn.1 = [] →
    tagClass (storeImg s s.turn.1 ⟨.sp s.turn.1, a.toNat / 64⟩).tag = 0 →
    Claims.Spanned (viewImg s ⟨s.turn.1, .a⟩ ⟨.sp s.turn.1, a.toNat / 64⟩) →
    Claims.Completes (.sts sz f) s (fun u => frame f none s u ∧
      ∀ l j, j < 64 → l ≠ ⟨.sp s.turn.1, a.toNat / 64⟩ ∨ j < a.toNat % 64 ∨ a.toNat % 64 + sz.bytes ≤ j →
        Claims.byteAt u l j = Claims.byteAt s l j)) ∧
  (∀ sz f s a x l ch, Runs (.st sz f) s → s.turn.2 = .a → SourcesReady s [mSrcA f, mSrcB f] → typedEntry s.cur f.b = none →
    a = Claims.address f sz.bytes (s.src f.a) 0 → a.toNat % sz.bytes = 0 → Claims.Reaches s .write a.toNat x l →
    pteClass x.leaf = 0 → mRel f = none → Claims.NoAcquire s → creditFor s l ≤ s.cur.credit → l ∈ s.cur.excl →
    unperformed s s.turn.1 = [] → partitionWrites s.writes = s.writes →
    tagClass (lineUnder (fillTlb s.turn.1 x s) s.turn.1 l).tag = 0 →
    mergeRaw false (lineUnder (fillTlb s.turn.1 x s) s.turn.1 l) (a.toNat % 64) sz.bytes (s.src f.b).toNat = .ok ch →
    Claims.Spanned (viewImg s ⟨s.turn.1, .a⟩ l) → (∀ r ∈ s.writes, r.apage = none) →
    Claims.Completes (.st sz f) s (fun u => frame f none s u ∧
      ∀ l' j, j < 64 → l' ≠ l ∨ j < a.toNat % 64 ∨ a.toNat % 64 + sz.bytes ≤ j →
        Claims.byteAt u l' j = Claims.byteAt s l' j))

/-! ### Reset and the form of memory (R30, R31, R115, R179, R203, R316, R321, R376, R390, R391) -/

/-- The form of the data that later claims rest on: every memory in its canonical form, with addresses strictly rising and no
byte that an unlisted address reads as, and the published writes before the pending ones. -/
def Sys2Proof.Claims.Formed (s : State) : Prop := MemoriesWf s ∧ partitionWrites s.writes = s.writes

/-- R30, R115, R179, R316, R321, R376, R390, R391: after power-on every core is idle and belongs to no guest, with VLCAP 1,024
and no unit out; no Timetable is active and GEN is 0; no guest is enabled, with 48 tiles and 0x40_0000 bytes as its limits;
PWRCTL holds 2,800 and the schedules hold each unit in its place, MSCHEDm with 7 for the unit m; and every memory is in its
canonical form. That memory lists nothing is the model's choice (log 3 and log 4). -/
def Obligations.ResetState : Prop :=
  Claims.Formed State.reset ∧ State.reset.powered = true ∧ State.reset.ttActive = none ∧
    fld (State.reset.pfReg ttstatOff) 48 16 = 0 ∧ (State.reset.pfReg 0x98000).toNat = 2800 ∧
    (∀ c, (State.reset.core c).mode = .idle ∧ (State.reset.core c).guest = none ∧ (State.reset.core c).place = none ∧
      (State.reset.core c).units.vlcap = 1024 ∧ (State.reset.core c).units.unitsOut = 0 ∧
      (State.reset.core c).units.lanes = 16) ∧
    (∀ g, (State.reset.guest g).en = false ∧ fld (State.reset.guest g).gres 0 23 = 0x400000 ∧
      fld (State.reset.guest g).gres 24 6 = 48) ∧
    (∀ c m i, c < 64 → m < 8 → i < 7 →
      fld (State.reset.pfReg (0xA0000 + 0x40 * c + 8 * m)) (3 * i) 3 = if i = m then 7 else i)

/-- Every step keeps the form of the memories and of the writes. -/
def Obligations.FormKept : Prop := ∀ s t, Claims.Formed s → step s = .next t → Claims.Formed t

/-! ### Statements of several parts -/

/-- R99, R103: the results of the two-operand integer instructions and of the divisions. -/
def Obligations.IntegerArithmetic : Prop := Claims.IntegerResults ∧ Claims.DivisionResults

/-- R38, R110: where the branches go, how one with a bad target traps, and that one whose predicate is false falls through. -/
def Obligations.Branches : Prop := Claims.BranchResults ∧ Claims.BranchTraps ∧ Claims.BranchFallsThrough

/-- R114, R115, R345, R394, R408: what each CSR reads as, what the CSR instructions do, what a CSR reads as once it has been
written, and when they trap or freeze. Which events a counter that is read or written comes after is log 16 (DEDUCED); that a CSR
which X alone holds traps ILLEGAL in A before the level is checked is log 43 (DEDUCED). -/
def Obligations.Csrs : Prop := Claims.CsrMap ∧ Claims.CsrResults ∧ Claims.CsrWrites ∧ Claims.CsrTraps

/-- R33, R47, R343, R345, R346: what retiring does, and that a word whose predicate is false only retires. -/
def Obligations.Retirement : Prop := Claims.RetireEffect ∧ Claims.PredicateFalse

/-- R364, R365: SYSCALL, BKPT and ERET. -/
def Obligations.CallsAndReturns : Prop := Claims.SystemCalls ∧ Claims.ReturnFromTrap

/-- R112, R366: NOP, RDV, WFE and END. -/
def Obligations.StreamControl : Prop := Claims.NopRdvWfe ∧ Claims.EndStops

/-- R232: LD, the arrival of its data, and LDS. That the value on its way is the line as it stood at issue, and that the arrival may
take the line as it stands then while nothing has fixed the load, is log 24 (DEDUCED); that a write of another path of the core to
the own scratchpad may be in A's view before a fence is log 29 (DEDUCED). -/
def Obligations.ScalarLoads : Prop := Claims.GlobalLoads ∧ Claims.LocalLoads

/-- R233: STS and ST. The merge of typed data, and of data narrower than an element, is log 46 (DESIGN CHOICE); the order of the path's
earlier writes is log 25 (DEDUCED). -/
def Obligations.ScalarStores : Prop := Claims.LocalStores ∧ Claims.GlobalStores

/-- R218, R231, R238, R253: a path reads its own write; homes answer, and late writes and grants perform. -/
def Obligations.WritesInOrder : Prop := Claims.ReadOwnWrite ∧ Claims.HomeEvents

/-- R229, R235, R236: LDQ, LDSQ, LDQI and the lines of their slots. That a line is read as it enters its queue, or earlier where a
later access of the path fixes it, and LDSQ's line as A's view shows it then, is log 24 (DEDUCED), with what stands in that view
log 29 (DEDUCED); that a stream takes the lowest free slot is log 59 (DESIGN CHOICE). -/
def Obligations.LineStreams : Prop := Claims.StridedStreams ∧ Claims.IndexedStreams ∧ Claims.StreamLines

/-- R238 to R240: STQ, STSQ, PRF and QRESET. -/
def Obligations.QueueTransfers : Prop := Claims.QueueLines ∧ Claims.PrefetchAndReset

/-- R245, R246: APD, APD.rel and SEAL. -/
def Obligations.AppendAndSeal : Prop := Claims.Appends ∧ Claims.Seals

/-- R241 to R244: CPY, CPYM and the groups of the copy engine. -/
def Obligations.Copies : Prop := Claims.CopyIssue ∧ Claims.CopyGroups ∧ Claims.ChainedCopy

/-- R190, R193: the issue of the matrix commands. -/
def Obligations.MatrixIssue : Prop := Claims.ProductIssue ∧ Claims.SingleStepIssue

/-- R196, R199: MWAIT, MSTAT and MACC, and the row of a tile that MACC moves. -/
def Obligations.MatrixResults : Prop := Claims.MatrixStatus ∧ Claims.TileRows ∧ Claims.RowSegments

/-- R167 to R184, R190 to R195, R372: the steps of the matrix engine, the sums that they add, their flags, and the end of a share. -/
def Obligations.MatrixSteps : Prop :=
  Claims.KSteps ∧ Claims.StepOperands ∧ Claims.IntegerAndPlainSums ∧ Claims.TwillSums ∧ Claims.GuardFormats ∧ Claims.StepFlags ∧
    Claims.ShareEnds ∧ Claims.SingleSteps

/-- R197, R243, R311, R355: engine faults and queue cycles trap a stream that did nothing wrong itself. -/
def Obligations.UnattendedTraps : Prop := Claims.EngineFaults ∧ Claims.QueueCycles

/-- R285 to R290: phase boundaries and named barriers. -/
def Obligations.GangBoundaries : Prop := Claims.PhaseBoundaries ∧ Claims.Barriers

/-- R119, R143 to R147: SETVL and the vector moves. -/
def Obligations.VectorSetupAndMoves : Prop := Claims.SetVectorLength ∧ Claims.VectorMoves

/-- R83, R162 to R164: TGET, TSET, LATW and LATR. -/
def Obligations.TagsAndLattice : Prop := Claims.LineTags ∧ Claims.Lattice

/-- R223, R224, R335, R337: fault and violation records, and the answers to them. -/
def Obligations.Answers : Prop := Claims.FaultAnswers ∧ Claims.ViolationAnswers

/-- R113, R302 to R309: gangs end, start and wait. -/
def Obligations.Gangs : Prop := Claims.WorkEnds ∧ Claims.GangPlacement ∧ Claims.AgedHeads

/-- R306, R319 to R328: draining, saving, clearing and the slot edge. -/
def Obligations.Edges : Prop := Claims.DrainedCores ∧ Claims.SlotEdges

/-- R225, R263, R383, R384: the host's accesses to a guest's memory and to HBM. -/
def Obligations.HostMemory : Prop := Claims.DataAperture ∧ Claims.TagApertureAndHdm

/-- R263, R336, R370, R385 to R387: requests and flits on the links. -/
def Obligations.Links : Prop := Claims.PeerRequests ∧ Claims.Flits

/-- R382, R385, R389 to R391: power, training and management requests. -/
def Obligations.PowerAndManagement : Prop := Claims.PowerAndTraining ∧ Claims.Management

/-- R4, R334, R336, R339, R344, R345, R347, R384: overflow entries, the Wayfarer window and register writes. -/
def Obligations.HostRegisters : Prop := Claims.OverflowAndWindow ∧ Claims.RegisterWrites

/-- R42: which words name an instruction, and what words written in the spec decode to. -/
def Obligations.Words : Prop := Claims.NamedWords ∧ Claims.WrittenWords
end

