-- ==== Sys2Proof/Laws/Ops.lean ====
section
/-! SUPPORT. Laws/Ops.lean: what the gate of an instruction, the reading of scalar sources and the writing of a scalar
result answer. -/

namespace Sys2Proof.Machine

/-! ### How a body is run -/

theorem exec_bind {α β : Type} (m : Exec α) (f : α → Exec β) (s : State) :
    (m >>= f) s = (match m s with | .ok a s' => f a s' | .error e s' => .error e s') := by
  show EStateM.bind m f s = _
  unfold EStateM.bind
  cases m s <;> rfl

theorem exec_bind_ok {α β : Type} {m : Exec α} {f : α → Exec β} {s s' : State} {a : α} (h : m s = .ok a s') :
    (m >>= f) s = f a s' := by rw [exec_bind, h]

theorem exec_bind_error {α β : Type} {m : Exec α} {f : α → Exec β} {s s' : State} {e : Stop} (h : m s = .error e s') :
    (m >>= f) s = .error e s' := by rw [exec_bind, h]

theorem exec_pure {α : Type} (a : α) (s : State) : (pure a : Exec α) s = .ok a s := rfl

theorem exec_get (s : State) : (get : Exec State) s = .ok s s := rfl

theorem exec_set (x s : State) : (set x : Exec PUnit) s = .ok () x := rfl

theorem exec_modify (g : State → State) (s : State) : (modify g : Exec PUnit) s = .ok () (g s) := rfl

theorem exec_throw {α : Type} (e : Stop) (s : State) : (throw e : Exec α) s = .error e s := rfl

theorem need_true (c : Cause) (v : Word) (s : State) : need true c v s = .ok () s := rfl

theorem need_false (c : Cause) (v : Word) (s : State) : need false c v s = .error (.trap c v) s := rfl

theorem need_ok {b : Bool} (h : b = true) (c : Cause) (v : Word) (s : State) : need b c v s = .ok () s := by
  subst h; rfl

theorem waitFor_true (w : Wait) (s : State) : waitFor true w s = .ok () s := rfl

theorem waitFor_false (w : Wait) (s : State) : waitFor false w s = .error (.wait w) s := rfl

theorem waitFor_ok {b : Bool} (h : b = true) (w : Wait) (s : State) : waitFor b w s = .ok () s := by
  subst h; rfl

theorem ofExcept_ok {α : Type} (a : α) (s : State) : Exec.ofExcept (.ok a) s = .ok a s := rfl

/-! ### The gate -/

/-- An instruction that runs, and whose own checks and effects answer a pc and a state, retires there. -/
theorem issueTo_runs {i : Instr} {body : Exec Word} {s s' : State} {pc : Word} (h : Runs i s)
    (hb : body s = .ok pc s') : issueTo i body s = .next (s.retired pc s') := by
  obtain ⟨h1, h2, h3, h4⟩ := h
  have h5 : (isSLevel i && decide (s.strm.level = .u)) = false := by
    cases h : isSLevel i <;> simp [h4, h]
  simp [issueTo, h1, h2, h3, h5, hb, State.retired]

/-- As `issueTo_runs`, for an instruction that goes on to the next one. -/
theorem issue_runs {i : Instr} {body : Exec Unit} {s s' : State} (h : Runs i s)
    (hb : body s = .ok () s') : issue i body s = .next (s.done i s') := by
  unfold issue State.done
  exact issueTo_runs h (by simp [bind, EStateM.bind, hb, pure, EStateM.pure])

/-- The first stop of an instruction that runs. -/
theorem issueTo_stops {i : Instr} {body : Exec Word} {s s' : State} {stop : Stop} (h : Runs i s)
    (hb : body s = .error stop s') : issueTo i body s = applyStop (firstWord i) stop s' := by
  obtain ⟨h1, h2, h3, h4⟩ := h
  have h5 : (isSLevel i && decide (s.strm.level = .u)) = false := by
    cases h : isSLevel i <;> simp [h4, h]
  simp [issueTo, h1, h2, h3, h5, hb]

/-- As `issueTo_stops`, for an instruction that goes on to the next one. -/
theorem issue_stops {i : Instr} {body : Exec Unit} {s s' : State} {stop : Stop} (h : Runs i s)
    (hb : body s = .error stop s') : issue i body s = applyStop (firstWord i) stop s' := by
  unfold issue
  exact issueTo_stops h (by simp [bind, EStateM.bind, hb])

/-- A false predicate: the instruction retires with no other effect (R47 step 2). -/
theorem issueTo_skips {i : Instr} {body : Exec Word} {s : State} (h : s.strm.predTrue (predOf i) = false) :
    issueTo i body s = .next (s.done i s) := by
  simp [issueTo, h, State.done, State.retired]

theorem issue_skips {i : Instr} {body : Exec Unit} {s : State} (h : s.strm.predTrue (predOf i) = false) :
    issue i body s = .next (s.done i s) := issueTo_skips h

/-- Row 1 of R100 passes when no source is empty. -/
theorem sourcesE_ok {k : Core} {t : StreamId} {l : List Src} (h : ∀ x ∈ l, k.srcEmpty t x.code = false) :
    sourcesE k t l = .ok () := by
  induction l with
  | nil => rfl
  | cons x r ih => simp [sourcesE, h x (by simp), ih (fun y hy => h y (by simp [hy]))]

/-- Row 2 of R100 passes when no source is empty. -/
theorem sourcesWait_ok {k : Core} {t : StreamId} {l : List Src} (h : ∀ x ∈ l, k.srcEmpty t x.code = false) :
    sourcesWait k t l = .ok () := by
  induction l with
  | nil => rfl
  | cons x r ih => simp [sourcesWait, h x (by simp), ih (fun y hy => h y (by simp [hy]))]

/-- A tag watch does nothing when no match is made. -/
theorem watchTag_quiet {s : State} (h : Quiet s) (w : Bool) (t : Tag) (c : Code) (g : Nat) :
    watchTag w t c g s = .ok () s := by
  simp only [Quiet] at h
  simp [watchTag, h, bind, EStateM.bind, get, getThe, MonadStateOf.get, EStateM.get, pure, EStateM.pure]

/-- The address watches do nothing when no match is made. -/
theorem watchDirs_quiet {s : State} (h : Quiet s) (sp : Nat) (l : List Bool) (a n : Nat) :
    watchDirs sp l a n s = .ok () s := by
  simp only [Quiet] at h
  simp [watchDirs, h, bind, EStateM.bind, get, getThe, MonadStateOf.get, EStateM.get, pure, EStateM.pure]

theorem watchAddr_quiet {s : State} (h : Quiet s) (sp : Nat) (w : Bool) (a n : Nat) :
    watchAddr sp w a n s = .ok () s := watchDirs_quiet h sp [w] a n

/-- Row 3 of R100 passes for a source that is ready. -/
theorem sourceClass_ok {s : State} {x : Src} (hq : Quiet s) (h : SourceReady s x.code) :
    sourceClass x s = .ok () s := by
  obtain ⟨he, ht⟩ := h
  simp only [sourceClass, bind, EStateM.bind, get, getThe, MonadStateOf.get, EStateM.get]
  by_cases hc : codeIsQ x.code = true
  · simp only [hc, if_true]
    cases hl : s.cur.queue x.code with
    | nil => simp [pure, EStateM.pure]
    | cons e r =>
      have := ht hc e (by simp [hl])
      exact (exec_bind_ok (watchTag_quiet hq ..)).trans (by rw [this]; rfl)
  · simp [hc, pure, EStateM.pure]

theorem forM_sourceClass {s : State} {l : List Src} (hq : Quiet s) (h : ∀ x ∈ l, SourceReady s x.code) :
    l.forM sourceClass s = .ok () s := by
  induction l with
  | nil => rfl
  | cons x r ih =>
    rw [List.forM_eq_forM, List.forM_cons, exec_bind_ok (sourceClass_ok hq (h x (by simp)))]
    exact ih (fun y hy => h y (by simp [hy]))

/-- Ready sources are read, and nothing changes (R100). -/
theorem readSources_ok {s : State} {l : List Src} (h : SourcesReady s l) :
    readSources l s = .ok (l.map (fun x => s.src x.code)) s := by
  obtain ⟨hq, hl⟩ := h
  have h1 := sourcesE_ok (k := s.cur) (t := s.turn.2) (fun x hx => (hl x hx).1)
  have h2 := sourcesWait_ok (k := s.cur) (t := s.turn.2) (fun x hx => (hl x hx).1)
  have h3 := forM_sourceClass hq hl
  rw [List.forM_eq_forM] at h3
  unfold readSources
  rw [exec_bind_ok (exec_get s), h1, h2, exec_bind_ok (ofExcept_ok ..), exec_bind_ok (ofExcept_ok ..), List.forM_eq_forM,
    exec_bind_ok h3]
  rfl

/-- A destination that is ready makes no wait (R100). -/
theorem destWait_ok {s : State} {d : Code} (h : DestReady s d) : destWait d s = .ok () s := by
  unfold DestReady at h
  simp only [destWait, bind, EStateM.bind, get, getThe, MonadStateOf.get, EStateM.get, destReady]
  split at h
  · rename_i hq
    obtain ⟨h1, h2⟩ := h
    have h3 : s.cur.queueFull d = false := by
      unfold Core.queueFull Config.queueEntries
      exact decide_eq_false (by omega)
    simp [hq, h1, h3, Exec.ofExcept, pure, EStateM.pure]
  · rename_i hq
    simp only [State.strm, State.streamAt] at h
    simp [hq, State.cur, h, Exec.ofExcept, pure, EStateM.pure]

/-- A scalar instruction whose sources and destination are ready writes its result and retires (R100). -/
theorem scalarOp_runs {i : Instr} {l : List Src} {d : Code} {f : List Word → Word} {s : State} (h : Runs i s)
    (hs : SourcesReady s l) (hd : DestReady s d) :
    scalarOp i l d f s = .next (s.done i (s.wrote l d (f (l.map (fun x => s.src x.code))))) := by
  refine issue_runs h ?_
  simp [bind, EStateM.bind, readSources_ok hs, destWait_ok hd, finishScalar, modify, modifyGet, MonadStateOf.modifyGet,
    EStateM.modifyGet, State.wrote]

/-- A predicate instruction whose sources are ready writes its result and retires (R108). -/
theorem predOp_runs {i : Instr} {l : List Src} {d : Code} {f : List Word → Bool} {s : State} (h : Runs i s)
    (hs : SourcesReady s l) :
    predOp i l d f s = .next (s.done i (s.wrotePred l d (f (l.map (fun x => s.src x.code))))) := by
  refine issue_runs h ?_
  simp [bind, EStateM.bind, readSources_ok hs, modify, modifyGet, MonadStateOf.modifyGet,
    EStateM.modifyGet, State.wrotePred]

end Sys2Proof.Machine
end

