-- ==== Sys2Proof/Laws/Tab.lean ====
section
/-! SUPPORT. Laws/Tab.lean: reading a keyed list after a write, and the canonical form of memory. -/

namespace Sys2Proof.Machine

/-! ### Keyed lists -/

@[simp] theorem tabGet_tabPut {α : Type} (d : α) (t : Tab α) (k : Nat) (v : α) : tabGet d (tabPut t k v) k = v := by
  induction t with
  | nil => simp [tabPut, tabGet]
  | cons e r ih =>
    obtain ⟨j, w⟩ := e
    simp only [tabPut]
    split
    · simp [tabGet]
    · split
      · simp [tabGet]
      · rename_i h; simp [tabGet, h, ih]

theorem tabGet_tabPut_other {α : Type} (d : α) (t : Tab α) {k n : Nat} (v : α) (h : n ≠ k) :
    tabGet d (tabPut t k v) n = tabGet d t n := by
  induction t with
  | nil => simp [tabPut, tabGet, Ne.symm h]
  | cons e r ih =>
    obtain ⟨j, w⟩ := e
    simp only [tabPut]
    split
    · simp [tabGet, Ne.symm h]
    · split
      · rename_i h'; subst h'; simp [tabGet, Ne.symm h]
      · simp [tabGet, ih]

@[simp] theorem tabPut_tabPut {α : Type} (t : Tab α) (k : Nat) (v w : α) : tabPut (tabPut t k v) k w = tabPut t k w := by
  induction t with
  | nil => simp [tabPut]
  | cons e r ih =>
    obtain ⟨j, x⟩ := e
    simp only [tabPut]
    split
    · simp [tabPut]
    · split
      · simp [tabPut]
      · rename_i h1 h2; simp [tabPut, h1, h2, ih]

@[simp] theorem tabFind_tabPut {α : Type} (t : Tab α) (k : Nat) (v : α) : tabFind (tabPut t k v) k = some v := by
  induction t with
  | nil => simp [tabPut, tabFind]
  | cons e r ih =>
    obtain ⟨j, w⟩ := e
    simp only [tabPut]
    split
    · simp [tabFind]
    · split
      · simp [tabFind]
      · rename_i h; simp [tabFind, h, ih]

theorem tabFind_tabPut_other {α : Type} (t : Tab α) {k n : Nat} (v : α) (h : n ≠ k) :
    tabFind (tabPut t k v) n = tabFind t n := by
  induction t with
  | nil => simp [tabPut, tabFind, Ne.symm h]
  | cons e r ih =>
    obtain ⟨j, w⟩ := e
    simp only [tabPut]
    split
    · simp [tabFind, Ne.symm h]
    · split
      · rename_i h'; subst h'; simp [tabFind, Ne.symm h]
      · simp [tabFind, ih]

/-! ### Memory: a byte after a write -/

theorem memByte_memDrop (m : List Host.Cell) (a n : Nat) : memByte (memDrop m a) n = if n = a then 0 else memByte m n := by
  induction m with
  | nil => simp [memDrop, memByte, tabGet]
  | cons e r ih =>
    obtain ⟨j, w⟩ := e
    simp only [memByte] at ih
    simp only [memDrop]
    split
    · rename_i h; subst h
      by_cases hn : n = j
      · subst hn; simpa [memByte] using ih
      · simpa [memByte, tabGet, hn, Ne.symm hn] using ih
    · rename_i h
      by_cases hn : n = j
      · subst hn; simp [memByte, tabGet, h]
      · simpa [memByte, tabGet, Ne.symm hn] using ih

theorem memByte_memInsert (m : List Host.Cell) (a n : Nat) (b : Byte) :
    memByte (memInsert m a b) n = if n = a then b else memByte m n := by
  induction m with
  | nil => by_cases h : n = a <;> simp [memInsert, memByte, tabGet, h, Ne.symm]
  | cons e r ih =>
    obtain ⟨j, w⟩ := e
    simp only [memByte] at ih
    simp only [memInsert]
    split
    · by_cases hn : n = a
      · subst hn; simp [memByte, tabGet]
      · simp [memByte, tabGet, hn, Ne.symm hn]
    · split
      · rename_i h; subst h
        by_cases hn : n = j
        · subst hn; simp [memByte, tabGet]
        · simp [memByte, tabGet, hn, Ne.symm hn]
      · rename_i h
        by_cases hn : n = j
        · subst hn; simp [memByte, tabGet, h]
        · simpa [memByte, tabGet, Ne.symm hn] using ih

/-- A byte after the write of a byte. -/
theorem memByte_memWriteByte (m : List Host.Cell) (a n : Nat) (b : Byte) :
    memByte (memWriteByte m a b) n = if n = a then b else memByte m n := by
  unfold memWriteByte
  split
  · rename_i h; subst h; exact memByte_memDrop m a n
  · exact memByte_memInsert m a n b

/-- A byte outside a write of `n` bytes reads as before. -/
theorem memByte_memWrite_outside (n : Nat) : ∀ (m : List Host.Cell) (a v x : Nat), x < a ∨ a + n ≤ x →
    memByte (memWrite m a n v) x = memByte m x := by
  induction n with
  | zero => intro m a v x _; rfl
  | succ n ih =>
    intro m a v x h
    rw [memWrite, ih _ _ _ _ (by omega), memByte_memWriteByte, if_neg (by omega)]

/-- A byte inside a write of `n` bytes reads as written. -/
theorem memByte_memWrite_inside (n : Nat) : ∀ (m : List Host.Cell) (a v i : Nat), i < n →
    memByte (memWrite m a n v) (a + i) = BitVec.ofNat 8 (v / 256 ^ i) := by
  induction n with
  | zero => intro m a v i h; omega
  | succ n ih =>
    intro m a v i h
    rw [memWrite]
    cases i with
    | zero => rw [memByte_memWrite_outside _ _ _ _ _ (by omega), memByte_memWriteByte]; simp
    | succ i =>
      have := ih (memWriteByte m a (BitVec.ofNat 8 v)) (a + 1) (v / 256) i (by omega)
      rw [show a + (i + 1) = a + 1 + i by omega, this, Nat.div_div_eq_div_mul, Nat.pow_succ, Nat.mul_comm 256]

/-! ### Memory keeps its canonical form -/

theorem memWfFrom_mono {m : List Host.Cell} {a b : Nat} (h : memWfFrom b m = true) (hab : a ≤ b) :
    memWfFrom a m = true := by
  cases m with
  | nil => rfl
  | cons e r =>
    obtain ⟨j, w⟩ := e
    simp only [memWfFrom, Bool.and_eq_true, decide_eq_true_eq] at h ⊢
    exact ⟨⟨by omega, h.1.2⟩, h.2⟩

theorem memWfFrom_memInsert : ∀ (m : List Host.Cell) (lo a : Nat) (b : Byte), memWfFrom lo m = true → lo ≤ a → b ≠ 0 →
    memWfFrom lo (memInsert m a b) = true := by
  intro m
  induction m with
  | nil => intro lo a b _ h1 h2; simp [memInsert, memWfFrom, h1]; simpa using h2
  | cons e r ih =>
    intro lo a b h h1 h2
    obtain ⟨j, w⟩ := e
    simp only [memWfFrom, Bool.and_eq_true, decide_eq_true_eq] at h
    simp only [memInsert]
    split
    · rename_i h3
      simp only [memWfFrom, Bool.and_eq_true, decide_eq_true_eq]
      exact ⟨⟨h1, by simpa using h2⟩, ⟨by omega, h.1.2⟩, h.2⟩
    · split
      · rename_i h3; subst h3
        simp only [memWfFrom, Bool.and_eq_true, decide_eq_true_eq]
        exact ⟨⟨h1, by simpa using h2⟩, h.2⟩
      · rename_i h3 h4
        simp only [memWfFrom, Bool.and_eq_true, decide_eq_true_eq]
        exact ⟨⟨h.1.1, h.1.2⟩, ih _ _ _ h.2 (by omega) h2⟩

theorem memWfFrom_memDrop : ∀ (m : List Host.Cell) (lo a : Nat), memWfFrom lo m = true → memWfFrom lo (memDrop m a) = true := by
  intro m
  induction m with
  | nil => intro lo a _; rfl
  | cons e r ih =>
    intro lo a h
    obtain ⟨j, w⟩ := e
    simp only [memWfFrom, Bool.and_eq_true, decide_eq_true_eq] at h
    simp only [memDrop]
    split
    · exact ih _ _ (memWfFrom_mono h.2 (by omega))
    · simp only [memWfFrom, Bool.and_eq_true, decide_eq_true_eq]
      exact ⟨⟨h.1.1, h.1.2⟩, ih _ _ h.2⟩

/-- The write of a byte keeps the canonical form. -/
theorem Memory.wf_memWriteByte {m : List Host.Cell} (h : Memory.wf m = true) (a : Nat) (b : Byte) :
    Memory.wf (memWriteByte m a b) = true := by
  unfold memWriteByte
  split
  · exact memWfFrom_memDrop _ _ _ h
  · exact memWfFrom_memInsert _ _ _ _ h (by omega) ‹_›

/-- A write keeps the canonical form. -/
theorem Memory.wf_memWrite (n : Nat) : ∀ {m : List Host.Cell} (_ : Memory.wf m = true) (a v : Nat),
    Memory.wf (memWrite m a n v) = true := by
  induction n with
  | zero => intro m h a v; exact h
  | succ n ih => intro m h a v; exact ih (Memory.wf_memWriteByte h a _) _ _

theorem Memory.wf_nil : Memory.wf [] = true := rfl

/-- Keeping some of the cells keeps the canonical form. -/
theorem memWfFrom_filter (p : Host.Cell → Bool) : ∀ (m : List Host.Cell) (lo : Nat), memWfFrom lo m = true →
    memWfFrom lo (m.filter p) = true := by
  intro m
  induction m with
  | nil => intro lo _; rfl
  | cons e r ih =>
    intro lo h
    obtain ⟨j, w⟩ := e
    simp only [memWfFrom, Bool.and_eq_true, decide_eq_true_eq] at h
    simp only [List.filter_cons]
    split
    · simp only [memWfFrom, Bool.and_eq_true, decide_eq_true_eq]
      exact ⟨⟨h.1.1, h.1.2⟩, ih _ h.2⟩
    · exact memWfFrom_mono (ih _ h.2) (by omega)

end Sys2Proof.Machine
end

