-- ==== Sys2Proof/Laws/State.lean ====
section
/-! SUPPORT. Laws/State.lean: what the accessors of State leave alone, one lemma per field per update, and what they
change. -/

namespace Sys2Proof.Machine

/-! ### Fields of State under the accessors -/

@[simp] theorem State.setCore_agenda (s : State) (c : Nat) (k : Core) : (s.setCore c k).agenda = s.agenda := rfl
@[simp] theorem State.setCore_sched (s : State) (c : Nat) (k : Core) : (s.setCore c k).sched = s.sched := rfl
@[simp] theorem State.setCore_turn (s : State) (c : Nat) (k : Core) : (s.setCore c k).turn = s.turn := rfl
@[simp] theorem State.setCore_cut (s : State) (c : Nat) (k : Core) : (s.setCore c k).cut = s.cut := rfl
@[simp] theorem State.setCore_guests (s : State) (c : Nat) (k : Core) : (s.setCore c k).guests = s.guests := rfl
@[simp] theorem State.setCore_pf (s : State) (c : Nat) (k : Core) : (s.setCore c k).pf = s.pf := rfl
@[simp] theorem State.setCore_ttShadow (s : State) (c : Nat) (k : Core) : (s.setCore c k).ttShadow = s.ttShadow := rfl
@[simp] theorem State.setCore_ttActive (s : State) (c : Nat) (k : Core) : (s.setCore c k).ttActive = s.ttActive := rfl
@[simp] theorem State.setCore_ttNext (s : State) (c : Nat) (k : Core) : (s.setCore c k).ttNext = s.ttNext := rfl
@[simp] theorem State.setCore_ttCommit (s : State) (c : Nat) (k : Core) : (s.setCore c k).ttCommit = s.ttCommit := rfl
@[simp] theorem State.setCore_microcode (s : State) (c : Nat) (k : Core) : (s.setCore c k).microcode = s.microcode := rfl
@[simp] theorem State.setCore_mem (s : State) (c : Nat) (k : Core) : (s.setCore c k).mem = s.mem := rfl
@[simp] theorem State.setCore_tags (s : State) (c : Nat) (k : Core) : (s.setCore c k).tags = s.tags := rfl
@[simp] theorem State.setCore_spans (s : State) (c : Nat) (k : Core) : (s.setCore c k).spans = s.spans := rfl
@[simp] theorem State.setCore_granules (s : State) (c : Nat) (k : Core) : (s.setCore c k).granules = s.granules := rfl
@[simp] theorem State.setCore_hostMem (s : State) (c : Nat) (k : Core) : (s.setCore c k).hostMem = s.hostMem := rfl
@[simp] theorem State.setCore_peerMem (s : State) (c : Nat) (k : Core) : (s.setCore c k).peerMem = s.peerMem := rfl
@[simp] theorem State.setCore_peerTags (s : State) (c : Nat) (k : Core) : (s.setCore c k).peerTags = s.peerTags := rfl
@[simp] theorem State.setCore_writes (s : State) (c : Nat) (k : Core) : (s.setCore c k).writes = s.writes := rfl
@[simp] theorem State.setCore_nextWrite (s : State) (c : Nat) (k : Core) : (s.setCore c k).nextWrite = s.nextWrite := rfl
@[simp] theorem State.setCore_replicas (s : State) (c : Nat) (k : Core) : (s.setCore c k).replicas = s.replicas := rfl
@[simp] theorem State.setCore_llc (s : State) (c : Nat) (k : Core) : (s.setCore c k).llc = s.llc := rfl
@[simp] theorem State.setCore_llcDirty (s : State) (c : Nat) (k : Core) : (s.setCore c k).llcDirty = s.llcDirty := rfl
@[simp] theorem State.setCore_timeUs (s : State) (c : Nat) (k : Core) : (s.setCore c k).timeUs = s.timeUs := rfl
@[simp] theorem State.setCore_viols (s : State) (c : Nat) (k : Core) : (s.setCore c k).viols = s.viols := rfl
@[simp] theorem State.setCore_violSeq (s : State) (c : Nat) (k : Core) : (s.setCore c k).violSeq = s.violSeq := rfl
@[simp] theorem State.setCore_errSeq (s : State) (c : Nat) (k : Core) : (s.setCore c k).errSeq = s.errSeq := rfl
@[simp] theorem State.setCore_errCounts (s : State) (c : Nat) (k : Core) : (s.setCore c k).errCounts = s.errCounts := rfl
@[simp] theorem State.setCore_rowsRemapped (s : State) (c : Nat) (k : Core) : (s.setCore c k).rowsRemapped = s.rowsRemapped := rfl
@[simp] theorem State.setCore_peerFrozen (s : State) (c : Nat) (k : Core) : (s.setCore c k).peerFrozen = s.peerFrozen := rfl
@[simp] theorem State.setCore_peerOut (s : State) (c : Nat) (k : Core) : (s.setCore c k).peerOut = s.peerOut := rfl
@[simp] theorem State.setCore_linkRetry (s : State) (c : Nat) (k : Core) : (s.setCore c k).linkRetry = s.linkRetry := rfl
@[simp] theorem State.setCore_pendPf (s : State) (c : Nat) (k : Core) : (s.setCore c k).pendPf = s.pendPf := rfl
@[simp] theorem State.setCore_hostLink (s : State) (c : Nat) (k : Core) : (s.setCore c k).hostLink = s.hostLink := rfl
@[simp] theorem State.setCore_powered (s : State) (c : Nat) (k : Core) : (s.setCore c k).powered = s.powered := rfl
@[simp] theorem State.setCore_hostHeld (s : State) (c : Nat) (k : Core) : (s.setCore c k).hostHeld = s.hostHeld := rfl
@[simp] theorem State.setCore_sent (s : State) (c : Nat) (k : Core) : (s.setCore c k).sent = s.sent := rfl
@[simp] theorem State.setCore_replies (s : State) (c : Nat) (k : Core) : (s.setCore c k).replies = s.replies := rfl
@[simp] theorem State.setCore_managed (s : State) (c : Nat) (k : Core) : (s.setCore c k).managed = s.managed := rfl

@[simp] theorem State.modCore_agenda (s : State) (c : Nat) (f : Core → Core) : (s.modCore c f).agenda = s.agenda := rfl
@[simp] theorem State.modCore_sched (s : State) (c : Nat) (f : Core → Core) : (s.modCore c f).sched = s.sched := rfl
@[simp] theorem State.modCore_turn (s : State) (c : Nat) (f : Core → Core) : (s.modCore c f).turn = s.turn := rfl
@[simp] theorem State.modCore_cut (s : State) (c : Nat) (f : Core → Core) : (s.modCore c f).cut = s.cut := rfl
@[simp] theorem State.modCore_guests (s : State) (c : Nat) (f : Core → Core) : (s.modCore c f).guests = s.guests := rfl
@[simp] theorem State.modCore_pf (s : State) (c : Nat) (f : Core → Core) : (s.modCore c f).pf = s.pf := rfl
@[simp] theorem State.modCore_ttShadow (s : State) (c : Nat) (f : Core → Core) : (s.modCore c f).ttShadow = s.ttShadow := rfl
@[simp] theorem State.modCore_ttActive (s : State) (c : Nat) (f : Core → Core) : (s.modCore c f).ttActive = s.ttActive := rfl
@[simp] theorem State.modCore_ttNext (s : State) (c : Nat) (f : Core → Core) : (s.modCore c f).ttNext = s.ttNext := rfl
@[simp] theorem State.modCore_ttCommit (s : State) (c : Nat) (f : Core → Core) : (s.modCore c f).ttCommit = s.ttCommit := rfl
@[simp] theorem State.modCore_microcode (s : State) (c : Nat) (f : Core → Core) : (s.modCore c f).microcode = s.microcode := rfl
@[simp] theorem State.modCore_mem (s : State) (c : Nat) (f : Core → Core) : (s.modCore c f).mem = s.mem := rfl
@[simp] theorem State.modCore_tags (s : State) (c : Nat) (f : Core → Core) : (s.modCore c f).tags = s.tags := rfl
@[simp] theorem State.modCore_spans (s : State) (c : Nat) (f : Core → Core) : (s.modCore c f).spans = s.spans := rfl
@[simp] theorem State.modCore_granules (s : State) (c : Nat) (f : Core → Core) : (s.modCore c f).granules = s.granules := rfl
@[simp] theorem State.modCore_hostMem (s : State) (c : Nat) (f : Core → Core) : (s.modCore c f).hostMem = s.hostMem := rfl
@[simp] theorem State.modCore_peerMem (s : State) (c : Nat) (f : Core → Core) : (s.modCore c f).peerMem = s.peerMem := rfl
@[simp] theorem State.modCore_peerTags (s : State) (c : Nat) (f : Core → Core) : (s.modCore c f).peerTags = s.peerTags := rfl
@[simp] theorem State.modCore_writes (s : State) (c : Nat) (f : Core → Core) : (s.modCore c f).writes = s.writes := rfl
@[simp] theorem State.modCore_nextWrite (s : State) (c : Nat) (f : Core → Core) : (s.modCore c f).nextWrite = s.nextWrite := rfl
@[simp] theorem State.modCore_replicas (s : State) (c : Nat) (f : Core → Core) : (s.modCore c f).replicas = s.replicas := rfl
@[simp] theorem State.modCore_llc (s : State) (c : Nat) (f : Core → Core) : (s.modCore c f).llc = s.llc := rfl
@[simp] theorem State.modCore_llcDirty (s : State) (c : Nat) (f : Core → Core) : (s.modCore c f).llcDirty = s.llcDirty := rfl
@[simp] theorem State.modCore_timeUs (s : State) (c : Nat) (f : Core → Core) : (s.modCore c f).timeUs = s.timeUs := rfl
@[simp] theorem State.modCore_viols (s : State) (c : Nat) (f : Core → Core) : (s.modCore c f).viols = s.viols := rfl
@[simp] theorem State.modCore_violSeq (s : State) (c : Nat) (f : Core → Core) : (s.modCore c f).violSeq = s.violSeq := rfl
@[simp] theorem State.modCore_errSeq (s : State) (c : Nat) (f : Core → Core) : (s.modCore c f).errSeq = s.errSeq := rfl
@[simp] theorem State.modCore_errCounts (s : State) (c : Nat) (f : Core → Core) : (s.modCore c f).errCounts = s.errCounts := rfl
@[simp] theorem State.modCore_rowsRemapped (s : State) (c : Nat) (f : Core → Core) : (s.modCore c f).rowsRemapped = s.rowsRemapped := rfl
@[simp] theorem State.modCore_peerFrozen (s : State) (c : Nat) (f : Core → Core) : (s.modCore c f).peerFrozen = s.peerFrozen := rfl
@[simp] theorem State.modCore_peerOut (s : State) (c : Nat) (f : Core → Core) : (s.modCore c f).peerOut = s.peerOut := rfl
@[simp] theorem State.modCore_linkRetry (s : State) (c : Nat) (f : Core → Core) : (s.modCore c f).linkRetry = s.linkRetry := rfl
@[simp] theorem State.modCore_pendPf (s : State) (c : Nat) (f : Core → Core) : (s.modCore c f).pendPf = s.pendPf := rfl
@[simp] theorem State.modCore_hostLink (s : State) (c : Nat) (f : Core → Core) : (s.modCore c f).hostLink = s.hostLink := rfl
@[simp] theorem State.modCore_powered (s : State) (c : Nat) (f : Core → Core) : (s.modCore c f).powered = s.powered := rfl
@[simp] theorem State.modCore_hostHeld (s : State) (c : Nat) (f : Core → Core) : (s.modCore c f).hostHeld = s.hostHeld := rfl
@[simp] theorem State.modCore_sent (s : State) (c : Nat) (f : Core → Core) : (s.modCore c f).sent = s.sent := rfl
@[simp] theorem State.modCore_replies (s : State) (c : Nat) (f : Core → Core) : (s.modCore c f).replies = s.replies := rfl
@[simp] theorem State.modCore_managed (s : State) (c : Nat) (f : Core → Core) : (s.modCore c f).managed = s.managed := rfl

@[simp] theorem State.modStream_agenda (s : State) (c : Nat) (t : StreamId) (f : Stream → Stream) : (s.modStream c t f).agenda = s.agenda := rfl
@[simp] theorem State.modStream_sched (s : State) (c : Nat) (t : StreamId) (f : Stream → Stream) : (s.modStream c t f).sched = s.sched := rfl
@[simp] theorem State.modStream_turn (s : State) (c : Nat) (t : StreamId) (f : Stream → Stream) : (s.modStream c t f).turn = s.turn := rfl
@[simp] theorem State.modStream_cut (s : State) (c : Nat) (t : StreamId) (f : Stream → Stream) : (s.modStream c t f).cut = s.cut := rfl
@[simp] theorem State.modStream_guests (s : State) (c : Nat) (t : StreamId) (f : Stream → Stream) : (s.modStream c t f).guests = s.guests := rfl
@[simp] theorem State.modStream_pf (s : State) (c : Nat) (t : StreamId) (f : Stream → Stream) : (s.modStream c t f).pf = s.pf := rfl
@[simp] theorem State.modStream_ttShadow (s : State) (c : Nat) (t : StreamId) (f : Stream → Stream) : (s.modStream c t f).ttShadow = s.ttShadow := rfl
@[simp] theorem State.modStream_ttActive (s : State) (c : Nat) (t : StreamId) (f : Stream → Stream) : (s.modStream c t f).ttActive = s.ttActive := rfl
@[simp] theorem State.modStream_ttNext (s : State) (c : Nat) (t : StreamId) (f : Stream → Stream) : (s.modStream c t f).ttNext = s.ttNext := rfl
@[simp] theorem State.modStream_ttCommit (s : State) (c : Nat) (t : StreamId) (f : Stream → Stream) : (s.modStream c t f).ttCommit = s.ttCommit := rfl
@[simp] theorem State.modStream_microcode (s : State) (c : Nat) (t : StreamId) (f : Stream → Stream) : (s.modStream c t f).microcode = s.microcode := rfl
@[simp] theorem State.modStream_mem (s : State) (c : Nat) (t : StreamId) (f : Stream → Stream) : (s.modStream c t f).mem = s.mem := rfl
@[simp] theorem State.modStream_tags (s : State) (c : Nat) (t : StreamId) (f : Stream → Stream) : (s.modStream c t f).tags = s.tags := rfl
@[simp] theorem State.modStream_spans (s : State) (c : Nat) (t : StreamId) (f : Stream → Stream) : (s.modStream c t f).spans = s.spans := rfl
@[simp] theorem State.modStream_granules (s : State) (c : Nat) (t : StreamId) (f : Stream → Stream) : (s.modStream c t f).granules = s.granules := rfl
@[simp] theorem State.modStream_hostMem (s : State) (c : Nat) (t : StreamId) (f : Stream → Stream) : (s.modStream c t f).hostMem = s.hostMem := rfl
@[simp] theorem State.modStream_peerMem (s : State) (c : Nat) (t : StreamId) (f : Stream → Stream) : (s.modStream c t f).peerMem = s.peerMem := rfl
@[simp] theorem State.modStream_peerTags (s : State) (c : Nat) (t : StreamId) (f : Stream → Stream) : (s.modStream c t f).peerTags = s.peerTags := rfl
@[simp] theorem State.modStream_writes (s : State) (c : Nat) (t : StreamId) (f : Stream → Stream) : (s.modStream c t f).writes = s.writes := rfl
@[simp] theorem State.modStream_nextWrite (s : State) (c : Nat) (t : StreamId) (f : Stream → Stream) : (s.modStream c t f).nextWrite = s.nextWrite := rfl
@[simp] theorem State.modStream_replicas (s : State) (c : Nat) (t : StreamId) (f : Stream → Stream) : (s.modStream c t f).replicas = s.replicas := rfl
@[simp] theorem State.modStream_llc (s : State) (c : Nat) (t : StreamId) (f : Stream → Stream) : (s.modStream c t f).llc = s.llc := rfl
@[simp] theorem State.modStream_llcDirty (s : State) (c : Nat) (t : StreamId) (f : Stream → Stream) : (s.modStream c t f).llcDirty = s.llcDirty := rfl
@[simp] theorem State.modStream_timeUs (s : State) (c : Nat) (t : StreamId) (f : Stream → Stream) : (s.modStream c t f).timeUs = s.timeUs := rfl
@[simp] theorem State.modStream_viols (s : State) (c : Nat) (t : StreamId) (f : Stream → Stream) : (s.modStream c t f).viols = s.viols := rfl
@[simp] theorem State.modStream_violSeq (s : State) (c : Nat) (t : StreamId) (f : Stream → Stream) : (s.modStream c t f).violSeq = s.violSeq := rfl
@[simp] theorem State.modStream_errSeq (s : State) (c : Nat) (t : StreamId) (f : Stream → Stream) : (s.modStream c t f).errSeq = s.errSeq := rfl
@[simp] theorem State.modStream_errCounts (s : State) (c : Nat) (t : StreamId) (f : Stream → Stream) : (s.modStream c t f).errCounts = s.errCounts := rfl
@[simp] theorem State.modStream_rowsRemapped (s : State) (c : Nat) (t : StreamId) (f : Stream → Stream) : (s.modStream c t f).rowsRemapped = s.rowsRemapped := rfl
@[simp] theorem State.modStream_peerFrozen (s : State) (c : Nat) (t : StreamId) (f : Stream → Stream) : (s.modStream c t f).peerFrozen = s.peerFrozen := rfl
@[simp] theorem State.modStream_peerOut (s : State) (c : Nat) (t : StreamId) (f : Stream → Stream) : (s.modStream c t f).peerOut = s.peerOut := rfl
@[simp] theorem State.modStream_linkRetry (s : State) (c : Nat) (t : StreamId) (f : Stream → Stream) : (s.modStream c t f).linkRetry = s.linkRetry := rfl
@[simp] theorem State.modStream_pendPf (s : State) (c : Nat) (t : StreamId) (f : Stream → Stream) : (s.modStream c t f).pendPf = s.pendPf := rfl
@[simp] theorem State.modStream_hostLink (s : State) (c : Nat) (t : StreamId) (f : Stream → Stream) : (s.modStream c t f).hostLink = s.hostLink := rfl
@[simp] theorem State.modStream_powered (s : State) (c : Nat) (t : StreamId) (f : Stream → Stream) : (s.modStream c t f).powered = s.powered := rfl
@[simp] theorem State.modStream_hostHeld (s : State) (c : Nat) (t : StreamId) (f : Stream → Stream) : (s.modStream c t f).hostHeld = s.hostHeld := rfl
@[simp] theorem State.modStream_sent (s : State) (c : Nat) (t : StreamId) (f : Stream → Stream) : (s.modStream c t f).sent = s.sent := rfl
@[simp] theorem State.modStream_replies (s : State) (c : Nat) (t : StreamId) (f : Stream → Stream) : (s.modStream c t f).replies = s.replies := rfl
@[simp] theorem State.modStream_managed (s : State) (c : Nat) (t : StreamId) (f : Stream → Stream) : (s.modStream c t f).managed = s.managed := rfl

@[simp] theorem State.modCur_agenda (s : State) (f : Core → Core) : (s.modCur f).agenda = s.agenda := rfl
@[simp] theorem State.modCur_sched (s : State) (f : Core → Core) : (s.modCur f).sched = s.sched := rfl
@[simp] theorem State.modCur_turn (s : State) (f : Core → Core) : (s.modCur f).turn = s.turn := rfl
@[simp] theorem State.modCur_cut (s : State) (f : Core → Core) : (s.modCur f).cut = s.cut := rfl
@[simp] theorem State.modCur_guests (s : State) (f : Core → Core) : (s.modCur f).guests = s.guests := rfl
@[simp] theorem State.modCur_pf (s : State) (f : Core → Core) : (s.modCur f).pf = s.pf := rfl
@[simp] theorem State.modCur_ttShadow (s : State) (f : Core → Core) : (s.modCur f).ttShadow = s.ttShadow := rfl
@[simp] theorem State.modCur_ttActive (s : State) (f : Core → Core) : (s.modCur f).ttActive = s.ttActive := rfl
@[simp] theorem State.modCur_ttNext (s : State) (f : Core → Core) : (s.modCur f).ttNext = s.ttNext := rfl
@[simp] theorem State.modCur_ttCommit (s : State) (f : Core → Core) : (s.modCur f).ttCommit = s.ttCommit := rfl
@[simp] theorem State.modCur_microcode (s : State) (f : Core → Core) : (s.modCur f).microcode = s.microcode := rfl
@[simp] theorem State.modCur_mem (s : State) (f : Core → Core) : (s.modCur f).mem = s.mem := rfl
@[simp] theorem State.modCur_tags (s : State) (f : Core → Core) : (s.modCur f).tags = s.tags := rfl
@[simp] theorem State.modCur_spans (s : State) (f : Core → Core) : (s.modCur f).spans = s.spans := rfl
@[simp] theorem State.modCur_granules (s : State) (f : Core → Core) : (s.modCur f).granules = s.granules := rfl
@[simp] theorem State.modCur_hostMem (s : State) (f : Core → Core) : (s.modCur f).hostMem = s.hostMem := rfl
@[simp] theorem State.modCur_peerMem (s : State) (f : Core → Core) : (s.modCur f).peerMem = s.peerMem := rfl
@[simp] theorem State.modCur_peerTags (s : State) (f : Core → Core) : (s.modCur f).peerTags = s.peerTags := rfl
@[simp] theorem State.modCur_writes (s : State) (f : Core → Core) : (s.modCur f).writes = s.writes := rfl
@[simp] theorem State.modCur_nextWrite (s : State) (f : Core → Core) : (s.modCur f).nextWrite = s.nextWrite := rfl
@[simp] theorem State.modCur_replicas (s : State) (f : Core → Core) : (s.modCur f).replicas = s.replicas := rfl
@[simp] theorem State.modCur_llc (s : State) (f : Core → Core) : (s.modCur f).llc = s.llc := rfl
@[simp] theorem State.modCur_llcDirty (s : State) (f : Core → Core) : (s.modCur f).llcDirty = s.llcDirty := rfl
@[simp] theorem State.modCur_timeUs (s : State) (f : Core → Core) : (s.modCur f).timeUs = s.timeUs := rfl
@[simp] theorem State.modCur_viols (s : State) (f : Core → Core) : (s.modCur f).viols = s.viols := rfl
@[simp] theorem State.modCur_violSeq (s : State) (f : Core → Core) : (s.modCur f).violSeq = s.violSeq := rfl
@[simp] theorem State.modCur_errSeq (s : State) (f : Core → Core) : (s.modCur f).errSeq = s.errSeq := rfl
@[simp] theorem State.modCur_errCounts (s : State) (f : Core → Core) : (s.modCur f).errCounts = s.errCounts := rfl
@[simp] theorem State.modCur_rowsRemapped (s : State) (f : Core → Core) : (s.modCur f).rowsRemapped = s.rowsRemapped := rfl
@[simp] theorem State.modCur_peerFrozen (s : State) (f : Core → Core) : (s.modCur f).peerFrozen = s.peerFrozen := rfl
@[simp] theorem State.modCur_peerOut (s : State) (f : Core → Core) : (s.modCur f).peerOut = s.peerOut := rfl
@[simp] theorem State.modCur_linkRetry (s : State) (f : Core → Core) : (s.modCur f).linkRetry = s.linkRetry := rfl
@[simp] theorem State.modCur_pendPf (s : State) (f : Core → Core) : (s.modCur f).pendPf = s.pendPf := rfl
@[simp] theorem State.modCur_hostLink (s : State) (f : Core → Core) : (s.modCur f).hostLink = s.hostLink := rfl
@[simp] theorem State.modCur_powered (s : State) (f : Core → Core) : (s.modCur f).powered = s.powered := rfl
@[simp] theorem State.modCur_hostHeld (s : State) (f : Core → Core) : (s.modCur f).hostHeld = s.hostHeld := rfl
@[simp] theorem State.modCur_sent (s : State) (f : Core → Core) : (s.modCur f).sent = s.sent := rfl
@[simp] theorem State.modCur_replies (s : State) (f : Core → Core) : (s.modCur f).replies = s.replies := rfl
@[simp] theorem State.modCur_managed (s : State) (f : Core → Core) : (s.modCur f).managed = s.managed := rfl

@[simp] theorem State.modStrm_agenda (s : State) (f : Stream → Stream) : (s.modStrm f).agenda = s.agenda := rfl
@[simp] theorem State.modStrm_sched (s : State) (f : Stream → Stream) : (s.modStrm f).sched = s.sched := rfl
@[simp] theorem State.modStrm_turn (s : State) (f : Stream → Stream) : (s.modStrm f).turn = s.turn := rfl
@[simp] theorem State.modStrm_cut (s : State) (f : Stream → Stream) : (s.modStrm f).cut = s.cut := rfl
@[simp] theorem State.modStrm_guests (s : State) (f : Stream → Stream) : (s.modStrm f).guests = s.guests := rfl
@[simp] theorem State.modStrm_pf (s : State) (f : Stream → Stream) : (s.modStrm f).pf = s.pf := rfl
@[simp] theorem State.modStrm_ttShadow (s : State) (f : Stream → Stream) : (s.modStrm f).ttShadow = s.ttShadow := rfl
@[simp] theorem State.modStrm_ttActive (s : State) (f : Stream → Stream) : (s.modStrm f).ttActive = s.ttActive := rfl
@[simp] theorem State.modStrm_ttNext (s : State) (f : Stream → Stream) : (s.modStrm f).ttNext = s.ttNext := rfl
@[simp] theorem State.modStrm_ttCommit (s : State) (f : Stream → Stream) : (s.modStrm f).ttCommit = s.ttCommit := rfl
@[simp] theorem State.modStrm_microcode (s : State) (f : Stream → Stream) : (s.modStrm f).microcode = s.microcode := rfl
@[simp] theorem State.modStrm_mem (s : State) (f : Stream → Stream) : (s.modStrm f).mem = s.mem := rfl
@[simp] theorem State.modStrm_tags (s : State) (f : Stream → Stream) : (s.modStrm f).tags = s.tags := rfl
@[simp] theorem State.modStrm_spans (s : State) (f : Stream → Stream) : (s.modStrm f).spans = s.spans := rfl
@[simp] theorem State.modStrm_granules (s : State) (f : Stream → Stream) : (s.modStrm f).granules = s.granules := rfl
@[simp] theorem State.modStrm_hostMem (s : State) (f : Stream → Stream) : (s.modStrm f).hostMem = s.hostMem := rfl
@[simp] theorem State.modStrm_peerMem (s : State) (f : Stream → Stream) : (s.modStrm f).peerMem = s.peerMem := rfl
@[simp] theorem State.modStrm_peerTags (s : State) (f : Stream → Stream) : (s.modStrm f).peerTags = s.peerTags := rfl
@[simp] theorem State.modStrm_writes (s : State) (f : Stream → Stream) : (s.modStrm f).writes = s.writes := rfl
@[simp] theorem State.modStrm_nextWrite (s : State) (f : Stream → Stream) : (s.modStrm f).nextWrite = s.nextWrite := rfl
@[simp] theorem State.modStrm_replicas (s : State) (f : Stream → Stream) : (s.modStrm f).replicas = s.replicas := rfl
@[simp] theorem State.modStrm_llc (s : State) (f : Stream → Stream) : (s.modStrm f).llc = s.llc := rfl
@[simp] theorem State.modStrm_llcDirty (s : State) (f : Stream → Stream) : (s.modStrm f).llcDirty = s.llcDirty := rfl
@[simp] theorem State.modStrm_timeUs (s : State) (f : Stream → Stream) : (s.modStrm f).timeUs = s.timeUs := rfl
@[simp] theorem State.modStrm_viols (s : State) (f : Stream → Stream) : (s.modStrm f).viols = s.viols := rfl
@[simp] theorem State.modStrm_violSeq (s : State) (f : Stream → Stream) : (s.modStrm f).violSeq = s.violSeq := rfl
@[simp] theorem State.modStrm_errSeq (s : State) (f : Stream → Stream) : (s.modStrm f).errSeq = s.errSeq := rfl
@[simp] theorem State.modStrm_errCounts (s : State) (f : Stream → Stream) : (s.modStrm f).errCounts = s.errCounts := rfl
@[simp] theorem State.modStrm_rowsRemapped (s : State) (f : Stream → Stream) : (s.modStrm f).rowsRemapped = s.rowsRemapped := rfl
@[simp] theorem State.modStrm_peerFrozen (s : State) (f : Stream → Stream) : (s.modStrm f).peerFrozen = s.peerFrozen := rfl
@[simp] theorem State.modStrm_peerOut (s : State) (f : Stream → Stream) : (s.modStrm f).peerOut = s.peerOut := rfl
@[simp] theorem State.modStrm_linkRetry (s : State) (f : Stream → Stream) : (s.modStrm f).linkRetry = s.linkRetry := rfl
@[simp] theorem State.modStrm_pendPf (s : State) (f : Stream → Stream) : (s.modStrm f).pendPf = s.pendPf := rfl
@[simp] theorem State.modStrm_hostLink (s : State) (f : Stream → Stream) : (s.modStrm f).hostLink = s.hostLink := rfl
@[simp] theorem State.modStrm_powered (s : State) (f : Stream → Stream) : (s.modStrm f).powered = s.powered := rfl
@[simp] theorem State.modStrm_hostHeld (s : State) (f : Stream → Stream) : (s.modStrm f).hostHeld = s.hostHeld := rfl
@[simp] theorem State.modStrm_sent (s : State) (f : Stream → Stream) : (s.modStrm f).sent = s.sent := rfl
@[simp] theorem State.modStrm_replies (s : State) (f : Stream → Stream) : (s.modStrm f).replies = s.replies := rfl
@[simp] theorem State.modStrm_managed (s : State) (f : Stream → Stream) : (s.modStrm f).managed = s.managed := rfl

@[simp] theorem State.setGuest_agenda (s : State) (g : Nat) (x : Guest) : (s.setGuest g x).agenda = s.agenda := rfl
@[simp] theorem State.setGuest_sched (s : State) (g : Nat) (x : Guest) : (s.setGuest g x).sched = s.sched := rfl
@[simp] theorem State.setGuest_turn (s : State) (g : Nat) (x : Guest) : (s.setGuest g x).turn = s.turn := rfl
@[simp] theorem State.setGuest_cut (s : State) (g : Nat) (x : Guest) : (s.setGuest g x).cut = s.cut := rfl
@[simp] theorem State.setGuest_cores (s : State) (g : Nat) (x : Guest) : (s.setGuest g x).cores = s.cores := rfl
@[simp] theorem State.setGuest_pf (s : State) (g : Nat) (x : Guest) : (s.setGuest g x).pf = s.pf := rfl
@[simp] theorem State.setGuest_ttShadow (s : State) (g : Nat) (x : Guest) : (s.setGuest g x).ttShadow = s.ttShadow := rfl
@[simp] theorem State.setGuest_ttActive (s : State) (g : Nat) (x : Guest) : (s.setGuest g x).ttActive = s.ttActive := rfl
@[simp] theorem State.setGuest_ttNext (s : State) (g : Nat) (x : Guest) : (s.setGuest g x).ttNext = s.ttNext := rfl
@[simp] theorem State.setGuest_ttCommit (s : State) (g : Nat) (x : Guest) : (s.setGuest g x).ttCommit = s.ttCommit := rfl
@[simp] theorem State.setGuest_microcode (s : State) (g : Nat) (x : Guest) : (s.setGuest g x).microcode = s.microcode := rfl
@[simp] theorem State.setGuest_mem (s : State) (g : Nat) (x : Guest) : (s.setGuest g x).mem = s.mem := rfl
@[simp] theorem State.setGuest_tags (s : State) (g : Nat) (x : Guest) : (s.setGuest g x).tags = s.tags := rfl
@[simp] theorem State.setGuest_spans (s : State) (g : Nat) (x : Guest) : (s.setGuest g x).spans = s.spans := rfl
@[simp] theorem State.setGuest_granules (s : State) (g : Nat) (x : Guest) : (s.setGuest g x).granules = s.granules := rfl
@[simp] theorem State.setGuest_hostMem (s : State) (g : Nat) (x : Guest) : (s.setGuest g x).hostMem = s.hostMem := rfl
@[simp] theorem State.setGuest_peerMem (s : State) (g : Nat) (x : Guest) : (s.setGuest g x).peerMem = s.peerMem := rfl
@[simp] theorem State.setGuest_peerTags (s : State) (g : Nat) (x : Guest) : (s.setGuest g x).peerTags = s.peerTags := rfl
@[simp] theorem State.setGuest_writes (s : State) (g : Nat) (x : Guest) : (s.setGuest g x).writes = s.writes := rfl
@[simp] theorem State.setGuest_nextWrite (s : State) (g : Nat) (x : Guest) : (s.setGuest g x).nextWrite = s.nextWrite := rfl
@[simp] theorem State.setGuest_replicas (s : State) (g : Nat) (x : Guest) : (s.setGuest g x).replicas = s.replicas := rfl
@[simp] theorem State.setGuest_llc (s : State) (g : Nat) (x : Guest) : (s.setGuest g x).llc = s.llc := rfl
@[simp] theorem State.setGuest_llcDirty (s : State) (g : Nat) (x : Guest) : (s.setGuest g x).llcDirty = s.llcDirty := rfl
@[simp] theorem State.setGuest_timeUs (s : State) (g : Nat) (x : Guest) : (s.setGuest g x).timeUs = s.timeUs := rfl
@[simp] theorem State.setGuest_viols (s : State) (g : Nat) (x : Guest) : (s.setGuest g x).viols = s.viols := rfl
@[simp] theorem State.setGuest_violSeq (s : State) (g : Nat) (x : Guest) : (s.setGuest g x).violSeq = s.violSeq := rfl
@[simp] theorem State.setGuest_errSeq (s : State) (g : Nat) (x : Guest) : (s.setGuest g x).errSeq = s.errSeq := rfl
@[simp] theorem State.setGuest_errCounts (s : State) (g : Nat) (x : Guest) : (s.setGuest g x).errCounts = s.errCounts := rfl
@[simp] theorem State.setGuest_rowsRemapped (s : State) (g : Nat) (x : Guest) : (s.setGuest g x).rowsRemapped = s.rowsRemapped := rfl
@[simp] theorem State.setGuest_peerFrozen (s : State) (g : Nat) (x : Guest) : (s.setGuest g x).peerFrozen = s.peerFrozen := rfl
@[simp] theorem State.setGuest_peerOut (s : State) (g : Nat) (x : Guest) : (s.setGuest g x).peerOut = s.peerOut := rfl
@[simp] theorem State.setGuest_linkRetry (s : State) (g : Nat) (x : Guest) : (s.setGuest g x).linkRetry = s.linkRetry := rfl
@[simp] theorem State.setGuest_pendPf (s : State) (g : Nat) (x : Guest) : (s.setGuest g x).pendPf = s.pendPf := rfl
@[simp] theorem State.setGuest_hostLink (s : State) (g : Nat) (x : Guest) : (s.setGuest g x).hostLink = s.hostLink := rfl
@[simp] theorem State.setGuest_powered (s : State) (g : Nat) (x : Guest) : (s.setGuest g x).powered = s.powered := rfl
@[simp] theorem State.setGuest_hostHeld (s : State) (g : Nat) (x : Guest) : (s.setGuest g x).hostHeld = s.hostHeld := rfl
@[simp] theorem State.setGuest_sent (s : State) (g : Nat) (x : Guest) : (s.setGuest g x).sent = s.sent := rfl
@[simp] theorem State.setGuest_replies (s : State) (g : Nat) (x : Guest) : (s.setGuest g x).replies = s.replies := rfl
@[simp] theorem State.setGuest_managed (s : State) (g : Nat) (x : Guest) : (s.setGuest g x).managed = s.managed := rfl

@[simp] theorem State.modGuest_agenda (s : State) (g : Nat) (f : Guest → Guest) : (s.modGuest g f).agenda = s.agenda := rfl
@[simp] theorem State.modGuest_sched (s : State) (g : Nat) (f : Guest → Guest) : (s.modGuest g f).sched = s.sched := rfl
@[simp] theorem State.modGuest_turn (s : State) (g : Nat) (f : Guest → Guest) : (s.modGuest g f).turn = s.turn := rfl
@[simp] theorem State.modGuest_cut (s : State) (g : Nat) (f : Guest → Guest) : (s.modGuest g f).cut = s.cut := rfl
@[simp] theorem State.modGuest_cores (s : State) (g : Nat) (f : Guest → Guest) : (s.modGuest g f).cores = s.cores := rfl
@[simp] theorem State.modGuest_pf (s : State) (g : Nat) (f : Guest → Guest) : (s.modGuest g f).pf = s.pf := rfl
@[simp] theorem State.modGuest_ttShadow (s : State) (g : Nat) (f : Guest → Guest) : (s.modGuest g f).ttShadow = s.ttShadow := rfl
@[simp] theorem State.modGuest_ttActive (s : State) (g : Nat) (f : Guest → Guest) : (s.modGuest g f).ttActive = s.ttActive := rfl
@[simp] theorem State.modGuest_ttNext (s : State) (g : Nat) (f : Guest → Guest) : (s.modGuest g f).ttNext = s.ttNext := rfl
@[simp] theorem State.modGuest_ttCommit (s : State) (g : Nat) (f : Guest → Guest) : (s.modGuest g f).ttCommit = s.ttCommit := rfl
@[simp] theorem State.modGuest_microcode (s : State) (g : Nat) (f : Guest → Guest) : (s.modGuest g f).microcode = s.microcode := rfl
@[simp] theorem State.modGuest_mem (s : State) (g : Nat) (f : Guest → Guest) : (s.modGuest g f).mem = s.mem := rfl
@[simp] theorem State.modGuest_tags (s : State) (g : Nat) (f : Guest → Guest) : (s.modGuest g f).tags = s.tags := rfl
@[simp] theorem State.modGuest_spans (s : State) (g : Nat) (f : Guest → Guest) : (s.modGuest g f).spans = s.spans := rfl
@[simp] theorem State.modGuest_granules (s : State) (g : Nat) (f : Guest → Guest) : (s.modGuest g f).granules = s.granules := rfl
@[simp] theorem State.modGuest_hostMem (s : State) (g : Nat) (f : Guest → Guest) : (s.modGuest g f).hostMem = s.hostMem := rfl
@[simp] theorem State.modGuest_peerMem (s : State) (g : Nat) (f : Guest → Guest) : (s.modGuest g f).peerMem = s.peerMem := rfl
@[simp] theorem State.modGuest_peerTags (s : State) (g : Nat) (f : Guest → Guest) : (s.modGuest g f).peerTags = s.peerTags := rfl
@[simp] theorem State.modGuest_writes (s : State) (g : Nat) (f : Guest → Guest) : (s.modGuest g f).writes = s.writes := rfl
@[simp] theorem State.modGuest_nextWrite (s : State) (g : Nat) (f : Guest → Guest) : (s.modGuest g f).nextWrite = s.nextWrite := rfl
@[simp] theorem State.modGuest_replicas (s : State) (g : Nat) (f : Guest → Guest) : (s.modGuest g f).replicas = s.replicas := rfl
@[simp] theorem State.modGuest_llc (s : State) (g : Nat) (f : Guest → Guest) : (s.modGuest g f).llc = s.llc := rfl
@[simp] theorem State.modGuest_llcDirty (s : State) (g : Nat) (f : Guest → Guest) : (s.modGuest g f).llcDirty = s.llcDirty := rfl
@[simp] theorem State.modGuest_timeUs (s : State) (g : Nat) (f : Guest → Guest) : (s.modGuest g f).timeUs = s.timeUs := rfl
@[simp] theorem State.modGuest_viols (s : State) (g : Nat) (f : Guest → Guest) : (s.modGuest g f).viols = s.viols := rfl
@[simp] theorem State.modGuest_violSeq (s : State) (g : Nat) (f : Guest → Guest) : (s.modGuest g f).violSeq = s.violSeq := rfl
@[simp] theorem State.modGuest_errSeq (s : State) (g : Nat) (f : Guest → Guest) : (s.modGuest g f).errSeq = s.errSeq := rfl
@[simp] theorem State.modGuest_errCounts (s : State) (g : Nat) (f : Guest → Guest) : (s.modGuest g f).errCounts = s.errCounts := rfl
@[simp] theorem State.modGuest_rowsRemapped (s : State) (g : Nat) (f : Guest → Guest) : (s.modGuest g f).rowsRemapped = s.rowsRemapped := rfl
@[simp] theorem State.modGuest_peerFrozen (s : State) (g : Nat) (f : Guest → Guest) : (s.modGuest g f).peerFrozen = s.peerFrozen := rfl
@[simp] theorem State.modGuest_peerOut (s : State) (g : Nat) (f : Guest → Guest) : (s.modGuest g f).peerOut = s.peerOut := rfl
@[simp] theorem State.modGuest_linkRetry (s : State) (g : Nat) (f : Guest → Guest) : (s.modGuest g f).linkRetry = s.linkRetry := rfl
@[simp] theorem State.modGuest_pendPf (s : State) (g : Nat) (f : Guest → Guest) : (s.modGuest g f).pendPf = s.pendPf := rfl
@[simp] theorem State.modGuest_hostLink (s : State) (g : Nat) (f : Guest → Guest) : (s.modGuest g f).hostLink = s.hostLink := rfl
@[simp] theorem State.modGuest_powered (s : State) (g : Nat) (f : Guest → Guest) : (s.modGuest g f).powered = s.powered := rfl
@[simp] theorem State.modGuest_hostHeld (s : State) (g : Nat) (f : Guest → Guest) : (s.modGuest g f).hostHeld = s.hostHeld := rfl
@[simp] theorem State.modGuest_sent (s : State) (g : Nat) (f : Guest → Guest) : (s.modGuest g f).sent = s.sent := rfl
@[simp] theorem State.modGuest_replies (s : State) (g : Nat) (f : Guest → Guest) : (s.modGuest g f).replies = s.replies := rfl
@[simp] theorem State.modGuest_managed (s : State) (g : Nat) (f : Guest → Guest) : (s.modGuest g f).managed = s.managed := rfl

/-! ### Fields of a core under the setting of a stream, of a queue and the noting of an event -/

@[simp] theorem Core.setStream_mode (k : Core) (t : StreamId) (st : Stream) : (k.setStream t st).mode = k.mode := by
  cases t <;> rfl
@[simp] theorem Core.setStream_guest (k : Core) (t : StreamId) (st : Stream) : (k.setStream t st).guest = k.guest := by
  cases t <;> rfl
@[simp] theorem Core.setStream_place (k : Core) (t : StreamId) (st : Stream) : (k.setStream t st).place = k.place := by
  cases t <;> rfl
@[simp] theorem Core.setStream_vec (k : Core) (t : StreamId) (st : Stream) : (k.setStream t st).vec = k.vec := by
  cases t <;> rfl
@[simp] theorem Core.setStream_q (k : Core) (t : StreamId) (st : Stream) : (k.setStream t st).q = k.q := by
  cases t <;> rfl
@[simp] theorem Core.setStream_copy (k : Core) (t : StreamId) (st : Stream) : (k.setStream t st).copy = k.copy := by
  cases t <;> rfl
@[simp] theorem Core.setStream_mat (k : Core) (t : StreamId) (st : Stream) : (k.setStream t st).mat = k.mat := by
  cases t <;> rfl
@[simp] theorem Core.setStream_units (k : Core) (t : StreamId) (st : Stream) : (k.setStream t st).units = k.units := by
  cases t <;> rfl
@[simp] theorem Core.setStream_sp (k : Core) (t : StreamId) (st : Stream) : (k.setStream t st).sp = k.sp := by
  cases t <;> rfl
@[simp] theorem Core.setStream_spTags (k : Core) (t : StreamId) (st : Stream) : (k.setStream t st).spTags = k.spTags := by
  cases t <;> rfl
@[simp] theorem Core.setStream_spMarks (k : Core) (t : StreamId) (st : Stream) : (k.setStream t st).spMarks = k.spMarks := by
  cases t <;> rfl
@[simp] theorem Core.setStream_dirty (k : Core) (t : StreamId) (st : Stream) : (k.setStream t st).dirty = k.dirty := by
  cases t <;> rfl
@[simp] theorem Core.setStream_book (k : Core) (t : StreamId) (st : Stream) : (k.setStream t st).book = k.book := by
  cases t <;> rfl
@[simp] theorem Core.setStream_pmc (k : Core) (t : StreamId) (st : Stream) : (k.setStream t st).pmc = k.pmc := by
  cases t <;> rfl
@[simp] theorem Core.setStream_tally (k : Core) (t : StreamId) (st : Stream) : (k.setStream t st).tally = k.tally := by
  cases t <;> rfl
@[simp] theorem Core.setStream_pmcX (k : Core) (t : StreamId) (st : Stream) : (k.setStream t st).pmcX = k.pmcX := by
  cases t <;> rfl
@[simp] theorem Core.setStream_slots (k : Core) (t : StreamId) (st : Stream) : (k.setStream t st).slots = k.slots := by
  cases t <;> rfl
@[simp] theorem Core.setStream_producers (k : Core) (t : StreamId) (st : Stream) : (k.setStream t st).producers = k.producers := by
  cases t <;> rfl
@[simp] theorem Core.setStream_scatters (k : Core) (t : StreamId) (st : Stream) : (k.setStream t st).scatters = k.scatters := by
  cases t <;> rfl
@[simp] theorem Core.setStream_tlb (k : Core) (t : StreamId) (st : Stream) : (k.setStream t st).tlb = k.tlb := by
  cases t <;> rfl
@[simp] theorem Core.setStream_near (k : Core) (t : StreamId) (st : Stream) : (k.setStream t st).near = k.near := by
  cases t <;> rfl
@[simp] theorem Core.setStream_excl (k : Core) (t : StreamId) (st : Stream) : (k.setStream t st).excl = k.excl := by
  cases t <;> rfl
@[simp] theorem Core.setStream_ask (k : Core) (t : StreamId) (st : Stream) : (k.setStream t st).ask = k.ask := by
  cases t <;> rfl
@[simp] theorem Core.setStream_credit (k : Core) (t : StreamId) (st : Stream) : (k.setStream t st).credit = k.credit := by
  cases t <;> rfl
@[simp] theorem Core.setStream_bars (k : Core) (t : StreamId) (st : Stream) : (k.setStream t st).bars = k.bars := by
  cases t <;> rfl
@[simp] theorem Core.setStream_arrival (k : Core) (t : StreamId) (st : Stream) : (k.setStream t st).arrival = k.arrival := by
  cases t <;> rfl
@[simp] theorem Core.setStream_qidle (k : Core) (t : StreamId) (st : Stream) : (k.setStream t st).qidle = k.qidle := by
  cases t <;> rfl
@[simp] theorem Core.setStream_active (k : Core) (t : StreamId) (st : Stream) : (k.setStream t st).active = k.active := by
  cases t <;> rfl
@[simp] theorem Core.setStream_donated (k : Core) (t : StreamId) (st : Stream) : (k.setStream t st).donated = k.donated := by
  cases t <;> rfl

@[simp] theorem Core.setQueue_mode (k : Core) (c : Code) (l : List QEntry) : (k.setQueue c l).mode = k.mode := rfl
@[simp] theorem Core.setQueue_guest (k : Core) (c : Code) (l : List QEntry) : (k.setQueue c l).guest = k.guest := rfl
@[simp] theorem Core.setQueue_place (k : Core) (c : Code) (l : List QEntry) : (k.setQueue c l).place = k.place := rfl
@[simp] theorem Core.setQueue_a (k : Core) (c : Code) (l : List QEntry) : (k.setQueue c l).a = k.a := rfl
@[simp] theorem Core.setQueue_x (k : Core) (c : Code) (l : List QEntry) : (k.setQueue c l).x = k.x := rfl
@[simp] theorem Core.setQueue_vec (k : Core) (c : Code) (l : List QEntry) : (k.setQueue c l).vec = k.vec := rfl
@[simp] theorem Core.setQueue_copy (k : Core) (c : Code) (l : List QEntry) : (k.setQueue c l).copy = k.copy := rfl
@[simp] theorem Core.setQueue_mat (k : Core) (c : Code) (l : List QEntry) : (k.setQueue c l).mat = k.mat := rfl
@[simp] theorem Core.setQueue_units (k : Core) (c : Code) (l : List QEntry) : (k.setQueue c l).units = k.units := rfl
@[simp] theorem Core.setQueue_sp (k : Core) (c : Code) (l : List QEntry) : (k.setQueue c l).sp = k.sp := rfl
@[simp] theorem Core.setQueue_spTags (k : Core) (c : Code) (l : List QEntry) : (k.setQueue c l).spTags = k.spTags := rfl
@[simp] theorem Core.setQueue_spMarks (k : Core) (c : Code) (l : List QEntry) : (k.setQueue c l).spMarks = k.spMarks := rfl
@[simp] theorem Core.setQueue_dirty (k : Core) (c : Code) (l : List QEntry) : (k.setQueue c l).dirty = k.dirty := rfl
@[simp] theorem Core.setQueue_book (k : Core) (c : Code) (l : List QEntry) : (k.setQueue c l).book = k.book := rfl
@[simp] theorem Core.setQueue_pmc (k : Core) (c : Code) (l : List QEntry) : (k.setQueue c l).pmc = k.pmc := rfl
@[simp] theorem Core.setQueue_tally (k : Core) (c : Code) (l : List QEntry) : (k.setQueue c l).tally = k.tally := rfl
@[simp] theorem Core.setQueue_pmcX (k : Core) (c : Code) (l : List QEntry) : (k.setQueue c l).pmcX = k.pmcX := rfl
@[simp] theorem Core.setQueue_slots (k : Core) (c : Code) (l : List QEntry) : (k.setQueue c l).slots = k.slots := rfl
@[simp] theorem Core.setQueue_producers (k : Core) (c : Code) (l : List QEntry) : (k.setQueue c l).producers = k.producers := rfl
@[simp] theorem Core.setQueue_scatters (k : Core) (c : Code) (l : List QEntry) : (k.setQueue c l).scatters = k.scatters := rfl
@[simp] theorem Core.setQueue_tlb (k : Core) (c : Code) (l : List QEntry) : (k.setQueue c l).tlb = k.tlb := rfl
@[simp] theorem Core.setQueue_near (k : Core) (c : Code) (l : List QEntry) : (k.setQueue c l).near = k.near := rfl
@[simp] theorem Core.setQueue_excl (k : Core) (c : Code) (l : List QEntry) : (k.setQueue c l).excl = k.excl := rfl
@[simp] theorem Core.setQueue_ask (k : Core) (c : Code) (l : List QEntry) : (k.setQueue c l).ask = k.ask := rfl
@[simp] theorem Core.setQueue_credit (k : Core) (c : Code) (l : List QEntry) : (k.setQueue c l).credit = k.credit := rfl
@[simp] theorem Core.setQueue_bars (k : Core) (c : Code) (l : List QEntry) : (k.setQueue c l).bars = k.bars := rfl
@[simp] theorem Core.setQueue_arrival (k : Core) (c : Code) (l : List QEntry) : (k.setQueue c l).arrival = k.arrival := rfl
@[simp] theorem Core.setQueue_qidle (k : Core) (c : Code) (l : List QEntry) : (k.setQueue c l).qidle = k.qidle := rfl
@[simp] theorem Core.setQueue_active (k : Core) (c : Code) (l : List QEntry) : (k.setQueue c l).active = k.active := rfl
@[simp] theorem Core.setQueue_donated (k : Core) (c : Code) (l : List QEntry) : (k.setQueue c l).donated = k.donated := rfl

@[simp] theorem Core.note_mode (k : Core) (e : Nat) (t : Option StreamId) (l : Level) (n : Nat) : (k.note e t l n).mode = k.mode := by
  unfold Core.note; split <;> rfl
@[simp] theorem Core.note_guest (k : Core) (e : Nat) (t : Option StreamId) (l : Level) (n : Nat) : (k.note e t l n).guest = k.guest := by
  unfold Core.note; split <;> rfl
@[simp] theorem Core.note_place (k : Core) (e : Nat) (t : Option StreamId) (l : Level) (n : Nat) : (k.note e t l n).place = k.place := by
  unfold Core.note; split <;> rfl
@[simp] theorem Core.note_a (k : Core) (e : Nat) (t : Option StreamId) (l : Level) (n : Nat) : (k.note e t l n).a = k.a := by
  unfold Core.note; split <;> rfl
@[simp] theorem Core.note_x (k : Core) (e : Nat) (t : Option StreamId) (l : Level) (n : Nat) : (k.note e t l n).x = k.x := by
  unfold Core.note; split <;> rfl
@[simp] theorem Core.note_vec (k : Core) (e : Nat) (t : Option StreamId) (l : Level) (n : Nat) : (k.note e t l n).vec = k.vec := by
  unfold Core.note; split <;> rfl
@[simp] theorem Core.note_q (k : Core) (e : Nat) (t : Option StreamId) (l : Level) (n : Nat) : (k.note e t l n).q = k.q := by
  unfold Core.note; split <;> rfl
@[simp] theorem Core.note_copy (k : Core) (e : Nat) (t : Option StreamId) (l : Level) (n : Nat) : (k.note e t l n).copy = k.copy := by
  unfold Core.note; split <;> rfl
@[simp] theorem Core.note_mat (k : Core) (e : Nat) (t : Option StreamId) (l : Level) (n : Nat) : (k.note e t l n).mat = k.mat := by
  unfold Core.note; split <;> rfl
@[simp] theorem Core.note_units (k : Core) (e : Nat) (t : Option StreamId) (l : Level) (n : Nat) : (k.note e t l n).units = k.units := by
  unfold Core.note; split <;> rfl
@[simp] theorem Core.note_sp (k : Core) (e : Nat) (t : Option StreamId) (l : Level) (n : Nat) : (k.note e t l n).sp = k.sp := by
  unfold Core.note; split <;> rfl
@[simp] theorem Core.note_spTags (k : Core) (e : Nat) (t : Option StreamId) (l : Level) (n : Nat) : (k.note e t l n).spTags = k.spTags := by
  unfold Core.note; split <;> rfl
@[simp] theorem Core.note_spMarks (k : Core) (e : Nat) (t : Option StreamId) (l : Level) (n : Nat) : (k.note e t l n).spMarks = k.spMarks := by
  unfold Core.note; split <;> rfl
@[simp] theorem Core.note_dirty (k : Core) (e : Nat) (t : Option StreamId) (l : Level) (n : Nat) : (k.note e t l n).dirty = k.dirty := by
  unfold Core.note; split <;> rfl
@[simp] theorem Core.note_book (k : Core) (e : Nat) (t : Option StreamId) (l : Level) (n : Nat) : (k.note e t l n).book = k.book := by
  unfold Core.note; split <;> rfl
@[simp] theorem Core.note_pmc (k : Core) (e : Nat) (t : Option StreamId) (l : Level) (n : Nat) : (k.note e t l n).pmc = k.pmc := by
  unfold Core.note; split <;> rfl
@[simp] theorem Core.note_pmcX (k : Core) (e : Nat) (t : Option StreamId) (l : Level) (n : Nat) : (k.note e t l n).pmcX = k.pmcX := by
  unfold Core.note; split <;> rfl
@[simp] theorem Core.note_slots (k : Core) (e : Nat) (t : Option StreamId) (l : Level) (n : Nat) : (k.note e t l n).slots = k.slots := by
  unfold Core.note; split <;> rfl
@[simp] theorem Core.note_producers (k : Core) (e : Nat) (t : Option StreamId) (l : Level) (n : Nat) : (k.note e t l n).producers = k.producers := by
  unfold Core.note; split <;> rfl
@[simp] theorem Core.note_scatters (k : Core) (e : Nat) (t : Option StreamId) (l : Level) (n : Nat) : (k.note e t l n).scatters = k.scatters := by
  unfold Core.note; split <;> rfl
@[simp] theorem Core.note_tlb (k : Core) (e : Nat) (t : Option StreamId) (l : Level) (n : Nat) : (k.note e t l n).tlb = k.tlb := by
  unfold Core.note; split <;> rfl
@[simp] theorem Core.note_near (k : Core) (e : Nat) (t : Option StreamId) (l : Level) (n : Nat) : (k.note e t l n).near = k.near := by
  unfold Core.note; split <;> rfl
@[simp] theorem Core.note_excl (k : Core) (e : Nat) (t : Option StreamId) (l : Level) (n : Nat) : (k.note e t l n).excl = k.excl := by
  unfold Core.note; split <;> rfl
@[simp] theorem Core.note_ask (k : Core) (e : Nat) (t : Option StreamId) (l : Level) (n : Nat) : (k.note e t l n).ask = k.ask := by
  unfold Core.note; split <;> rfl
@[simp] theorem Core.note_credit (k : Core) (e : Nat) (t : Option StreamId) (l : Level) (n : Nat) : (k.note e t l n).credit = k.credit := by
  unfold Core.note; split <;> rfl
@[simp] theorem Core.note_bars (k : Core) (e : Nat) (t : Option StreamId) (l : Level) (n : Nat) : (k.note e t l n).bars = k.bars := by
  unfold Core.note; split <;> rfl
@[simp] theorem Core.note_arrival (k : Core) (e : Nat) (t : Option StreamId) (l : Level) (n : Nat) : (k.note e t l n).arrival = k.arrival := by
  unfold Core.note; split <;> rfl
@[simp] theorem Core.note_qidle (k : Core) (e : Nat) (t : Option StreamId) (l : Level) (n : Nat) : (k.note e t l n).qidle = k.qidle := by
  unfold Core.note; split <;> rfl
@[simp] theorem Core.note_active (k : Core) (e : Nat) (t : Option StreamId) (l : Level) (n : Nat) : (k.note e t l n).active = k.active := by
  unfold Core.note; split <;> rfl
@[simp] theorem Core.note_donated (k : Core) (e : Nat) (t : Option StreamId) (l : Level) (n : Nat) : (k.note e t l n).donated = k.donated := by
  unfold Core.note; split <;> rfl

/-! ### Fields of a stream under the writes of its registers -/

@[simp] theorem Stream.setReg_sEmpty (st : Stream) (c : Code) (v : Word) : (st.setReg c v).sEmpty = st.sEmpty := by
  unfold Stream.setReg; split <;> rfl
@[simp] theorem Stream.setReg_p (st : Stream) (c : Code) (v : Word) : (st.setReg c v).p = st.p := by
  unfold Stream.setReg; split <;> rfl
@[simp] theorem Stream.setReg_pc (st : Stream) (c : Code) (v : Word) : (st.setReg c v).pc = st.pc := by
  unfold Stream.setReg; split <;> rfl
@[simp] theorem Stream.setReg_level (st : Stream) (c : Code) (v : Word) : (st.setReg c v).level = st.level := by
  unfold Stream.setReg; split <;> rfl
@[simp] theorem Stream.setReg_ended (st : Stream) (c : Code) (v : Word) : (st.setReg c v).ended = st.ended := by
  unfold Stream.setReg; split <;> rfl
@[simp] theorem Stream.setReg_tcause (st : Stream) (c : Code) (v : Word) : (st.setReg c v).tcause = st.tcause := by
  unfold Stream.setReg; split <;> rfl
@[simp] theorem Stream.setReg_tval (st : Stream) (c : Code) (v : Word) : (st.setReg c v).tval = st.tval := by
  unfold Stream.setReg; split <;> rfl
@[simp] theorem Stream.setReg_tpc (st : Stream) (c : Code) (v : Word) : (st.setReg c v).tpc = st.tpc := by
  unfold Stream.setReg; split <;> rfl
@[simp] theorem Stream.setReg_tstat (st : Stream) (c : Code) (v : Word) : (st.setReg c v).tstat = st.tstat := by
  unfold Stream.setReg; split <;> rfl
@[simp] theorem Stream.setReg_wayf (st : Stream) (c : Code) (v : Word) : (st.setReg c v).wayf = st.wayf := by
  unfold Stream.setReg; split <;> rfl
@[simp] theorem Stream.setReg_evf (st : Stream) (c : Code) (v : Word) : (st.setReg c v).evf = st.evf := by
  unfold Stream.setReg; split <;> rfl
@[simp] theorem Stream.setReg_wfeCycles (st : Stream) (c : Code) (v : Word) : (st.setReg c v).wfeCycles = st.wfeCycles := by
  unfold Stream.setReg; split <;> rfl
@[simp] theorem Stream.setReg_rdvCount (st : Stream) (c : Code) (v : Word) : (st.setReg c v).rdvCount = st.rdvCount := by
  unfold Stream.setReg; split <;> rfl
@[simp] theorem Stream.setReg_rdvHere (st : Stream) (c : Code) (v : Word) : (st.setReg c v).rdvHere = st.rdvHere := by
  unfold Stream.setReg; split <;> rfl
@[simp] theorem Stream.setReg_phCount (st : Stream) (c : Code) (v : Word) : (st.setReg c v).phCount = st.phCount := by
  unfold Stream.setReg; split <;> rfl
@[simp] theorem Stream.setReg_phIssued (st : Stream) (c : Code) (v : Word) : (st.setReg c v).phIssued = st.phIssued := by
  unfold Stream.setReg; split <;> rfl
@[simp] theorem Stream.setReg_phLast (st : Stream) (c : Code) (v : Word) : (st.setReg c v).phLast = st.phLast := by
  unfold Stream.setReg; split <;> rfl
@[simp] theorem Stream.setReg_phDone (st : Stream) (c : Code) (v : Word) : (st.setReg c v).phDone = st.phDone := by
  unfold Stream.setReg; split <;> rfl
@[simp] theorem Stream.setReg_frozen (st : Stream) (c : Code) (v : Word) : (st.setReg c v).frozen = st.frozen := by
  unfold Stream.setReg; split <;> rfl
@[simp] theorem Stream.setReg_pfault (st : Stream) (c : Code) (v : Word) : (st.setReg c v).pfault = st.pfault := by
  unfold Stream.setReg; split <;> rfl
@[simp] theorem Stream.setReg_wait (st : Stream) (c : Code) (v : Word) : (st.setReg c v).wait = st.wait := by
  unfold Stream.setReg; split <;> rfl
@[simp] theorem Stream.setReg_barArrived (st : Stream) (c : Code) (v : Word) : (st.setReg c v).barArrived = st.barArrived := by
  unfold Stream.setReg; split <;> rfl
@[simp] theorem Stream.setReg_partnerTrap (st : Stream) (c : Code) (v : Word) : (st.setReg c v).partnerTrap = st.partnerTrap := by
  unfold Stream.setReg; split <;> rfl
@[simp] theorem Stream.setReg_stepPending (st : Stream) (c : Code) (v : Word) : (st.setReg c v).stepPending = st.stepPending := by
  unfold Stream.setReg; split <;> rfl
@[simp] theorem Stream.setReg_sentry (st : Stream) (c : Code) (v : Word) : (st.setReg c v).sentry = st.sentry := by
  unfold Stream.setReg; split <;> rfl
@[simp] theorem Stream.setReg_creditRefused (st : Stream) (c : Code) (v : Word) : (st.setReg c v).creditRefused = st.creditRefused := by
  unfold Stream.setReg; split <;> rfl
@[simp] theorem Stream.setReg_haltByReq (st : Stream) (c : Code) (v : Word) : (st.setReg c v).haltByReq = st.haltByReq := by
  unfold Stream.setReg; split <;> rfl
@[simp] theorem Stream.setReg_csrOwn (st : Stream) (c : Code) (v : Word) : (st.setReg c v).csrOwn = st.csrOwn := by
  unfold Stream.setReg; split <;> rfl
@[simp] theorem Stream.setReg_freeing (st : Stream) (c : Code) (v : Word) : (st.setReg c v).freeing = st.freeing := by
  unfold Stream.setReg; split <;> rfl
@[simp] theorem Stream.setPred_s (st : Stream) (c : Code) (v : Bool) : (st.setPred c v).s = st.s := by
  unfold Stream.setPred; split <;> rfl
@[simp] theorem Stream.setPred_sEmpty (st : Stream) (c : Code) (v : Bool) : (st.setPred c v).sEmpty = st.sEmpty := by
  unfold Stream.setPred; split <;> rfl
@[simp] theorem Stream.setPred_pc (st : Stream) (c : Code) (v : Bool) : (st.setPred c v).pc = st.pc := by
  unfold Stream.setPred; split <;> rfl
@[simp] theorem Stream.setPred_level (st : Stream) (c : Code) (v : Bool) : (st.setPred c v).level = st.level := by
  unfold Stream.setPred; split <;> rfl
@[simp] theorem Stream.setPred_ended (st : Stream) (c : Code) (v : Bool) : (st.setPred c v).ended = st.ended := by
  unfold Stream.setPred; split <;> rfl
@[simp] theorem Stream.setPred_tcause (st : Stream) (c : Code) (v : Bool) : (st.setPred c v).tcause = st.tcause := by
  unfold Stream.setPred; split <;> rfl
@[simp] theorem Stream.setPred_tval (st : Stream) (c : Code) (v : Bool) : (st.setPred c v).tval = st.tval := by
  unfold Stream.setPred; split <;> rfl
@[simp] theorem Stream.setPred_tpc (st : Stream) (c : Code) (v : Bool) : (st.setPred c v).tpc = st.tpc := by
  unfold Stream.setPred; split <;> rfl
@[simp] theorem Stream.setPred_tstat (st : Stream) (c : Code) (v : Bool) : (st.setPred c v).tstat = st.tstat := by
  unfold Stream.setPred; split <;> rfl
@[simp] theorem Stream.setPred_wayf (st : Stream) (c : Code) (v : Bool) : (st.setPred c v).wayf = st.wayf := by
  unfold Stream.setPred; split <;> rfl
@[simp] theorem Stream.setPred_evf (st : Stream) (c : Code) (v : Bool) : (st.setPred c v).evf = st.evf := by
  unfold Stream.setPred; split <;> rfl
@[simp] theorem Stream.setPred_wfeCycles (st : Stream) (c : Code) (v : Bool) : (st.setPred c v).wfeCycles = st.wfeCycles := by
  unfold Stream.setPred; split <;> rfl
@[simp] theorem Stream.setPred_rdvCount (st : Stream) (c : Code) (v : Bool) : (st.setPred c v).rdvCount = st.rdvCount := by
  unfold Stream.setPred; split <;> rfl
@[simp] theorem Stream.setPred_rdvHere (st : Stream) (c : Code) (v : Bool) : (st.setPred c v).rdvHere = st.rdvHere := by
  unfold Stream.setPred; split <;> rfl
@[simp] theorem Stream.setPred_phCount (st : Stream) (c : Code) (v : Bool) : (st.setPred c v).phCount = st.phCount := by
  unfold Stream.setPred; split <;> rfl
@[simp] theorem Stream.setPred_phIssued (st : Stream) (c : Code) (v : Bool) : (st.setPred c v).phIssued = st.phIssued := by
  unfold Stream.setPred; split <;> rfl
@[simp] theorem Stream.setPred_phLast (st : Stream) (c : Code) (v : Bool) : (st.setPred c v).phLast = st.phLast := by
  unfold Stream.setPred; split <;> rfl
@[simp] theorem Stream.setPred_phDone (st : Stream) (c : Code) (v : Bool) : (st.setPred c v).phDone = st.phDone := by
  unfold Stream.setPred; split <;> rfl
@[simp] theorem Stream.setPred_frozen (st : Stream) (c : Code) (v : Bool) : (st.setPred c v).frozen = st.frozen := by
  unfold Stream.setPred; split <;> rfl
@[simp] theorem Stream.setPred_pfault (st : Stream) (c : Code) (v : Bool) : (st.setPred c v).pfault = st.pfault := by
  unfold Stream.setPred; split <;> rfl
@[simp] theorem Stream.setPred_wait (st : Stream) (c : Code) (v : Bool) : (st.setPred c v).wait = st.wait := by
  unfold Stream.setPred; split <;> rfl
@[simp] theorem Stream.setPred_barArrived (st : Stream) (c : Code) (v : Bool) : (st.setPred c v).barArrived = st.barArrived := by
  unfold Stream.setPred; split <;> rfl
@[simp] theorem Stream.setPred_partnerTrap (st : Stream) (c : Code) (v : Bool) : (st.setPred c v).partnerTrap = st.partnerTrap := by
  unfold Stream.setPred; split <;> rfl
@[simp] theorem Stream.setPred_stepPending (st : Stream) (c : Code) (v : Bool) : (st.setPred c v).stepPending = st.stepPending := by
  unfold Stream.setPred; split <;> rfl
@[simp] theorem Stream.setPred_sentry (st : Stream) (c : Code) (v : Bool) : (st.setPred c v).sentry = st.sentry := by
  unfold Stream.setPred; split <;> rfl
@[simp] theorem Stream.setPred_creditRefused (st : Stream) (c : Code) (v : Bool) : (st.setPred c v).creditRefused = st.creditRefused := by
  unfold Stream.setPred; split <;> rfl
@[simp] theorem Stream.setPred_haltByReq (st : Stream) (c : Code) (v : Bool) : (st.setPred c v).haltByReq = st.haltByReq := by
  unfold Stream.setPred; split <;> rfl
@[simp] theorem Stream.setPred_csrOwn (st : Stream) (c : Code) (v : Bool) : (st.setPred c v).csrOwn = st.csrOwn := by
  unfold Stream.setPred; split <;> rfl
@[simp] theorem Stream.setPred_freeing (st : Stream) (c : Code) (v : Bool) : (st.setPred c v).freeing = st.freeing := by
  unfold Stream.setPred; split <;> rfl
@[simp] theorem Stream.clearSkip_s (st : Stream) (l : Level) : (st.clearSkip l).s = st.s := by
  unfold Stream.clearSkip; split <;> rfl
@[simp] theorem Stream.clearSkip_sEmpty (st : Stream) (l : Level) : (st.clearSkip l).sEmpty = st.sEmpty := by
  unfold Stream.clearSkip; split <;> rfl
@[simp] theorem Stream.clearSkip_p (st : Stream) (l : Level) : (st.clearSkip l).p = st.p := by
  unfold Stream.clearSkip; split <;> rfl
@[simp] theorem Stream.clearSkip_pc (st : Stream) (l : Level) : (st.clearSkip l).pc = st.pc := by
  unfold Stream.clearSkip; split <;> rfl
@[simp] theorem Stream.clearSkip_level (st : Stream) (l : Level) : (st.clearSkip l).level = st.level := by
  unfold Stream.clearSkip; split <;> rfl
@[simp] theorem Stream.clearSkip_ended (st : Stream) (l : Level) : (st.clearSkip l).ended = st.ended := by
  unfold Stream.clearSkip; split <;> rfl
@[simp] theorem Stream.clearSkip_tcause (st : Stream) (l : Level) : (st.clearSkip l).tcause = st.tcause := by
  unfold Stream.clearSkip; split <;> rfl
@[simp] theorem Stream.clearSkip_tval (st : Stream) (l : Level) : (st.clearSkip l).tval = st.tval := by
  unfold Stream.clearSkip; split <;> rfl
@[simp] theorem Stream.clearSkip_tpc (st : Stream) (l : Level) : (st.clearSkip l).tpc = st.tpc := by
  unfold Stream.clearSkip; split <;> rfl
@[simp] theorem Stream.clearSkip_tstat (st : Stream) (l : Level) : (st.clearSkip l).tstat = st.tstat := by
  unfold Stream.clearSkip; split <;> rfl
@[simp] theorem Stream.clearSkip_evf (st : Stream) (l : Level) : (st.clearSkip l).evf = st.evf := by
  unfold Stream.clearSkip; split <;> rfl
@[simp] theorem Stream.clearSkip_wfeCycles (st : Stream) (l : Level) : (st.clearSkip l).wfeCycles = st.wfeCycles := by
  unfold Stream.clearSkip; split <;> rfl
@[simp] theorem Stream.clearSkip_rdvCount (st : Stream) (l : Level) : (st.clearSkip l).rdvCount = st.rdvCount := by
  unfold Stream.clearSkip; split <;> rfl
@[simp] theorem Stream.clearSkip_rdvHere (st : Stream) (l : Level) : (st.clearSkip l).rdvHere = st.rdvHere := by
  unfold Stream.clearSkip; split <;> rfl
@[simp] theorem Stream.clearSkip_phCount (st : Stream) (l : Level) : (st.clearSkip l).phCount = st.phCount := by
  unfold Stream.clearSkip; split <;> rfl
@[simp] theorem Stream.clearSkip_phIssued (st : Stream) (l : Level) : (st.clearSkip l).phIssued = st.phIssued := by
  unfold Stream.clearSkip; split <;> rfl
@[simp] theorem Stream.clearSkip_phLast (st : Stream) (l : Level) : (st.clearSkip l).phLast = st.phLast := by
  unfold Stream.clearSkip; split <;> rfl
@[simp] theorem Stream.clearSkip_phDone (st : Stream) (l : Level) : (st.clearSkip l).phDone = st.phDone := by
  unfold Stream.clearSkip; split <;> rfl
@[simp] theorem Stream.clearSkip_frozen (st : Stream) (l : Level) : (st.clearSkip l).frozen = st.frozen := by
  unfold Stream.clearSkip; split <;> rfl
@[simp] theorem Stream.clearSkip_pfault (st : Stream) (l : Level) : (st.clearSkip l).pfault = st.pfault := by
  unfold Stream.clearSkip; split <;> rfl
@[simp] theorem Stream.clearSkip_wait (st : Stream) (l : Level) : (st.clearSkip l).wait = st.wait := by
  unfold Stream.clearSkip; split <;> rfl
@[simp] theorem Stream.clearSkip_barArrived (st : Stream) (l : Level) : (st.clearSkip l).barArrived = st.barArrived := by
  unfold Stream.clearSkip; split <;> rfl
@[simp] theorem Stream.clearSkip_partnerTrap (st : Stream) (l : Level) : (st.clearSkip l).partnerTrap = st.partnerTrap := by
  unfold Stream.clearSkip; split <;> rfl
@[simp] theorem Stream.clearSkip_stepPending (st : Stream) (l : Level) : (st.clearSkip l).stepPending = st.stepPending := by
  unfold Stream.clearSkip; split <;> rfl
@[simp] theorem Stream.clearSkip_sentry (st : Stream) (l : Level) : (st.clearSkip l).sentry = st.sentry := by
  unfold Stream.clearSkip; split <;> rfl
@[simp] theorem Stream.clearSkip_creditRefused (st : Stream) (l : Level) : (st.clearSkip l).creditRefused = st.creditRefused := by
  unfold Stream.clearSkip; split <;> rfl
@[simp] theorem Stream.clearSkip_haltByReq (st : Stream) (l : Level) : (st.clearSkip l).haltByReq = st.haltByReq := by
  unfold Stream.clearSkip; split <;> rfl
@[simp] theorem Stream.clearSkip_csrOwn (st : Stream) (l : Level) : (st.clearSkip l).csrOwn = st.csrOwn := by
  unfold Stream.clearSkip; split <;> rfl
@[simp] theorem Stream.clearSkip_freeing (st : Stream) (l : Level) : (st.clearSkip l).freeing = st.freeing := by
  unfold Stream.clearSkip; split <;> rfl

/-! ### What the accessors change -/

@[simp] theorem State.core_setCore (s : State) (c : Nat) (k : Core) : (s.setCore c k).core c = k := tabGet_tabPut ..

theorem State.core_setCore_other (s : State) {c d : Nat} (k : Core) (h : d ≠ c) : (s.setCore c k).core d = s.core d :=
  tabGet_tabPut_other _ _ _ h

@[simp] theorem State.setCore_setCore (s : State) (c : Nat) (k l : Core) : (s.setCore c k).setCore c l = s.setCore c l := by
  simp [State.setCore]

@[simp] theorem State.core_modCore (s : State) (c : Nat) (f : Core → Core) : (s.modCore c f).core c = f (s.core c) :=
  State.core_setCore ..

theorem State.core_modCore_other (s : State) {c d : Nat} (f : Core → Core) (h : d ≠ c) :
    (s.modCore c f).core d = s.core d := State.core_setCore_other _ _ h

theorem State.modCore_modCore (s : State) (c : Nat) (f g : Core → Core) :
    (s.modCore c f).modCore c g = s.modCore c (fun k => g (f k)) := by
  simp [State.modCore]

@[simp] theorem State.core_setGuest (s : State) (g c : Nat) (x : Guest) : (s.setGuest g x).core c = s.core c := rfl

@[simp] theorem State.core_modGuest (s : State) (g c : Nat) (f : Guest → Guest) : (s.modGuest g f).core c = s.core c := rfl

@[simp] theorem State.guest_setGuest (s : State) (g : Nat) (x : Guest) : (s.setGuest g x).guest g = x := tabGet_tabPut ..

theorem State.guest_setGuest_other (s : State) {g h : Nat} (x : Guest) (hne : h ≠ g) :
    (s.setGuest g x).guest h = s.guest h := tabGet_tabPut_other _ _ _ hne

@[simp] theorem State.guest_modGuest (s : State) (g : Nat) (f : Guest → Guest) : (s.modGuest g f).guest g = f (s.guest g) :=
  State.guest_setGuest ..

@[simp] theorem State.guest_setCore (s : State) (c g : Nat) (k : Core) : (s.setCore c k).guest g = s.guest g := rfl

@[simp] theorem State.guest_modCore (s : State) (c g : Nat) (f : Core → Core) : (s.modCore c f).guest g = s.guest g := rfl

@[simp] theorem Core.stream_setStream (k : Core) (t : StreamId) (st : Stream) : (k.setStream t st).stream t = st := by
  cases t <;> rfl

@[simp] theorem Core.stream_setStream_other (k : Core) (t : StreamId) (st : Stream) :
    (k.setStream t st).stream (otherStream t) = k.stream (otherStream t) := by
  cases t <;> rfl

@[simp] theorem Core.setStream_setStream (k : Core) (t : StreamId) (st st' : Stream) :
    (k.setStream t st).setStream t st' = k.setStream t st' := by
  cases t <;> rfl

@[simp] theorem Core.stream_note (k : Core) (e : Nat) (t : Option StreamId) (l : Level) (n : Nat) (u : StreamId) :
    (k.note e t l n).stream u = k.stream u := by
  cases u <;> simp [Core.stream]

@[simp] theorem Core.stream_setQueue (k : Core) (c : Code) (l : List QEntry) (u : StreamId) :
    (k.setQueue c l).stream u = k.stream u := by
  cases u <;> rfl

@[simp] theorem State.cur_modCur (s : State) (f : Core → Core) : (s.modCur f).cur = f s.cur := by
  simp [State.cur, State.modCur]

@[simp] theorem State.strm_modCur (s : State) (f : Core → Core) : (s.modCur f).strm = (f s.cur).stream s.turn.2 := by
  simp [State.cur, State.modCur, State.strm, State.streamAt]

theorem State.modCur_modCur (s : State) (f g : Core → Core) : (s.modCur f).modCur g = s.modCur (fun k => g (f k)) := by
  simp only [State.modCur, State.modCore_turn, State.modCore_modCore]

@[simp] theorem State.strm_modStrm (s : State) (f : Stream → Stream) : (s.modStrm f).strm = f s.strm := by
  simp [State.modStrm, State.modStream, State.strm, State.streamAt]

@[simp] theorem State.cur_modStrm (s : State) (f : Stream → Stream) :
    (s.modStrm f).cur = s.cur.setStream s.turn.2 (f s.strm) := by
  simp [State.modStrm, State.modStream, State.strm, State.cur]

theorem State.modStrm_modStrm (s : State) (f g : Stream → Stream) : (s.modStrm f).modStrm g = s.modStrm (fun st => g (f st)) := by
  simp [State.modStrm, State.modStream, State.streamAt]

theorem State.strm_eq (s : State) : s.strm = s.cur.stream s.turn.2 := rfl

/-! ### Registers and predicates -/

theorem Stream.reg_setReg (st : Stream) {c : Code} (v : Word) (h : c ≠ 0) : (st.setReg c v).reg c = v := by
  rw [Stream.reg, if_neg h, Stream.setReg, if_neg h]
  exact tabGet_tabPut ..

theorem Stream.reg_setReg_other (st : Stream) {c d : Code} (v : Word) (h : d ≠ c) : (st.setReg c v).reg d = st.reg d := by
  unfold Stream.reg Stream.setReg
  split
  · rfl
  · split
    · rfl
    · exact tabGet_tabPut_other _ _ _ (fun e => h (BitVec.eq_of_toNat_eq e))

@[simp] theorem Stream.reg_zero (st : Stream) : st.reg 0 = 0 := rfl

@[simp] theorem Stream.setReg_zero (st : Stream) (v : Word) : st.setReg 0 v = st := rfl

end Sys2Proof.Machine
end

