-- ==== Sys2Proof/Laws/Access.lean ====
section
/-! SUPPORT. Laws/Access.lean: the checks and waits of the memory instructions, when they pass, and what the reading of a line
answers. -/

namespace Sys2Proof.Machine

theorem gvaBound_ok {a : Word} (h : a.toNat < 2 ^ 48) (s : State) : gvaBound a s = .ok () s :=
  need_ok (decide_eq_true h) ..

theorem alignedTo_ok {n : Nat} {a : Word} (h : a.toNat % n = 0) (s : State) : alignedTo n a s = .ok () s :=
  need_ok (by simp [h]) ..

theorem localBound_ok {a : Word} {n : Nat} (h : a.toNat + n ≤ 0x400000) (s : State) : localBound a n s = .ok () s :=
  need_ok (decide_eq_true h) ..

theorem localResident_ok {a n : Nat} {s : State} (h : a + n ≤ s.cur.placeD.spBytes) : localResident a n s = .ok () s := by
  unfold localResident
  rw [exec_bind_ok (exec_get s)]
  exact need_ok (decide_eq_true h) ..

/-! ### Outside the drain windows (R325) -/

theorem homeOpen_of {s : State} (h : s.Serving) (l : Loc) : homeOpen s l = true := by
  simp [homeOpen, h (homeStack l.line)]

theorem lookupOpen_of {s : State} (h : s.Serving) (c gva : Nat) : lookupOpen s c gva = true := by
  have hl : ∀ x, leafOpen s (s.guestOf c) x = true := fun x => by simp [leafOpen, homeOpen_of h]
  unfold lookupOpen
  split
  · exact hl _
  · unfold walkOpen
    simp only [homeOpen_of h, Bool.and_eq_true, List.all_eq_true, implies_true, true_and]
    split
    · rfl
    · exact hl _

/-- Outside the drain windows the slots' lines can be read (R325). -/
theorem slotsOpen_of {s : State} (h : s.Serving) (c : Nat) (sel : Loc → Bool) (l : Tab StreamSlot) : slotsOpen s c sel l = true := by
  unfold slotsOpen
  simp only [List.all_eq_true]
  intro e _ i _
  split
  · exact homeOpen_of h _
  · rfl

theorem ownOpen_of {s : State} (h : s.Serving) (c : Nat) (sel : WriteRec → Bool) : ownOpen s c sel = true := by
  simp [ownOpen, homeOpen_of h]

/-- A translation that the core finds is answered, and held in its cache (R208). -/
theorem translate_ok {s : State} {acc : Acc} {gva : Nat} {x : Xlat} (hs : s.Serving) (hb : gva < 2 ^ 48)
    (h : lookup s s.turn.1 acc gva = .ok x) : translate acc gva s = .ok x (fillTlb s.turn.1 x s) := by
  unfold translate
  rw [if_neg (by omega)]
  dsimp only
  rw [exec_bind_ok (exec_get s), exec_bind_ok (waitFor_ok (lookupOpen_of hs _ _) _ _), h]
  rfl

/-- A place that the comparator passes and that can be reached now is answered, and nothing changes (R209, R386). -/
theorem placeOf_ok {s : State} {acc : Acc} {x : Xlat} {gva : Nat} {l : Loc}
    (h : placeGpa s (s.guestOf s.turn.1) 1 (decide (acc = .write)) (x.gpaAt gva) = .ok l)
    (hr : reachable s (s.guestOf s.turn.1) (x.gpaAt gva) l = true) : placeOf acc x gva s = .ok l s := by
  unfold placeOf
  rw [exec_bind_ok (exec_get s)]
  simp [h, exec_bind, hr, waitFor, exec_pure]

/-- An access of the A path does not wait when no stream acquires (R256). -/
theorem waitReads_ok {s : State} (hs : s.Serving) (h : ∀ e ∈ s.cur.slots, e.2.acq = none) (sel : Loc → Bool) :
    waitReads sel s = .ok () s := by
  unfold waitReads
  rw [exec_bind_ok (exec_get s), exec_bind_ok (waitFor_ok (s := s) (b := s.cur.slots.all (fun e => e.2.acq.isNone)) ?_ _),
    waitFor_ok (slotsOpen_of hs ..)]
  simp only [List.all_eq_true]
  intro e he
  simp [h e he]

/-- A store whose credit the core holds goes on (R218). -/
theorem takeCredit_ok {s : State} {n : Nat} (h : n ≤ s.cur.credit) (gva : Nat) : takeCredit n gva s = .ok () s := by
  unfold takeCredit
  rw [exec_bind_ok (exec_get s), if_pos h]
  rfl

/-- Outside the drain windows the homes of earlier writes are not waited for (R325). -/
theorem waitHomes_ok {s : State} (hs : s.Serving) : waitHomes s = .ok () s := by
  unfold waitHomes
  rw [exec_bind_ok (exec_get s)]
  exact waitFor_ok (ownOpen_of hs _ _) _ _

/-- A line held exclusively is not waited for (R233). -/
theorem waitOwn_ok {s : State} {gpa : Nat} {l : Loc} (hs : s.Serving) (h : l ∈ s.cur.excl) : waitOwn gpa l s = .ok () s := by
  unfold waitOwn
  rw [exec_bind_ok (waitHomes_ok hs), exec_bind_ok (exec_get s), if_pos h]
  rfl

/-- A page whose class is NORMAL or RC takes stores (R211). -/
theorem classAllowsStore_ok {x : Xlat} (h : pteClass x.leaf < 2) (gva : Nat) (s : State) :
    classAllowsStore x gva s = .ok () s := by
  unfold classAllowsStore
  rw [exec_bind_ok (need_ok ?_ ..)]
  · exact need_ok (by simp; omega) ..
  · simp; omega

/-- The reading of a line always answers. -/
theorem readLineA_ok (x : Xlat) (gva : Nat) (l : Loc) (s : State) :
    readLineA x gva l s = .ok (readLine s.turn.1 .a x gva l s).1 (readLine s.turn.1 .a x gva l s).2 := rfl

/-- The update of a base register (R39). -/
theorem mUpdate_ok (f : MForm) (unit : Nat) (base : Word) (s : State) :
    mUpdate f unit base s = .ok () (if f.pi = 0 then s else s.modStrm (fun st => st.setReg f.a (base + mDisp f unit))) := by
  unfold mUpdate
  split <;> rfl

/-! ### What the caching of a translation leaves alone -/

@[simp] theorem fillTlb_turn (c : Nat) (x : Xlat) (s : State) : (fillTlb c x s).turn = s.turn := rfl
@[simp] theorem fillTlb_writes (c : Nat) (x : Xlat) (s : State) : (fillTlb c x s).writes = s.writes := rfl
@[simp] theorem fillTlb_mem (c : Nat) (x : Xlat) (s : State) : (fillTlb c x s).mem = s.mem := rfl
@[simp] theorem fillTlb_pf (c : Nat) (x : Xlat) (s : State) : (fillTlb c x s).pf = s.pf := rfl
@[simp] theorem fillTlb_guests (c : Nat) (x : Xlat) (s : State) : (fillTlb c x s).guests = s.guests := rfl
@[simp] theorem fillTlb_guest (c g : Nat) (x : Xlat) (s : State) : (fillTlb c x s).guest g = s.guest g := rfl

/-- The core after the caching of a translation: its cache alone may differ. -/
theorem fillTlb_core (c : Nat) (x : Xlat) (s : State) :
    (fillTlb c x s).core c = { s.core c with tlb := ((fillTlb c x s).core c).tlb } := by
  simp only [fillTlb, State.core_modCore]
  split <;> rfl

theorem fillTlb_cur (x : Xlat) (s : State) :
    (fillTlb s.turn.1 x s).cur = { s.cur with tlb := (fillTlb s.turn.1 x s).cur.tlb } := fillTlb_core s.turn.1 x s

theorem fillTlb_strm (x : Xlat) (s : State) : (fillTlb s.turn.1 x s).strm = s.strm := by
  rw [State.strm_eq, fillTlb_cur, fillTlb_turn, State.strm_eq]
  cases s.turn.2 <;> rfl

theorem fillTlb_guestOf (c : Nat) (x : Xlat) (s : State) : (fillTlb c x s).guestOf c = s.guestOf c := by
  simp only [State.guestOf]
  rw [fillTlb_core]

end Sys2Proof.Machine
end

