-- ==== Sys2Proof/Laws/Forms.lean ====
section
/-! SUPPORT. Laws/Forms.lean: what the fields of a written word read back as, for each of the five forms. -/

namespace Sys2Proof

/-- A bit read through a one-bit field. -/
theorem getLsbD_of_extract {n : Nat} {w : BitVec n} {i : Nat} {b : Bool}
    (h : w.extractLsb' i 1 = BitVec.ofBool b) : w.getLsbD i = b := by
  have := congrArg (fun v : BitVec 1 => v.getLsbD 0) h
  simpa [BitVec.getLsbD_extractLsb'] using this

/-- A field of a form R word is the field of the parts it is joined from. -/
theorem RForm.extract_toWord (op x : Nat) (f : RForm) (i n : Nat) (b : BitVec n)
    (h : BitVec.extractLsb' i n (header op x f.pr ++ f.d ++ f.a ++ f.b ++ f.c ++
      BitVec.ofBool f.ea ++ BitVec.ofBool f.eb ++ BitVec.ofBool f.ec ++ f.m) = b) :
    BitVec.extractLsb' i n (f.toWord op x) = b := h

/-- OP reads back (R33). -/
theorem RForm.wordOp_toWord (op x : Nat) (f : RForm) (h : op < 256) : wordOp (f.toWord op x) = op := by
  have e := f.extract_toWord op x 56 8 (BitVec.ofNat 8 op) (by
    unfold header
    simp (disch := decide) only [BitVec.extractLsb'_append_eq_of_le, BitVec.extractLsb'_eq_self, Nat.reduceSub])
  unfold wordOp
  rw [e, BitVec.toNat_ofNat]
  exact Nat.mod_eq_of_lt h

/-- X reads back (R33). -/
theorem RForm.wordX_toWord (op x : Nat) (f : RForm) (h : x < 8) : wordX (f.toWord op x) = x := by
  have e := f.extract_toWord op x 48 3 (BitVec.ofNat 3 x) (by
    unfold header
    simp (disch := decide) only [BitVec.extractLsb'_append_eq_of_le,
      BitVec.extractLsb'_append_eq_of_add_le, BitVec.extractLsb'_eq_self, Nat.reduceSub])
  unfold wordX
  rw [e, BitVec.toNat_ofNat]
  exact Nat.mod_eq_of_lt h

/-- The fields of a form R instruction read back from its word. -/
theorem RForm.ofWord_toWord (op x : Nat) (f : RForm) : RForm.ofWord (f.toWord op x) = f := by
  obtain ⟨⟨p, n⟩, d, a, b, c, ea, eb, ec, m⟩ := f
  unfold RForm.ofWord Pred.ofWord
  congr 1
  · congr 1
    · apply RForm.extract_toWord
      unfold header
      simp (disch := decide) only [BitVec.extractLsb'_append_eq_of_le,
      BitVec.extractLsb'_append_eq_of_add_le, BitVec.extractLsb'_eq_self, Nat.reduceSub]
    · apply getLsbD_of_extract
      apply RForm.extract_toWord
      unfold header
      simp (disch := decide) only [BitVec.extractLsb'_append_eq_of_le,
      BitVec.extractLsb'_append_eq_of_add_le, BitVec.extractLsb'_eq_self, Nat.reduceSub]
  all_goals try apply getLsbD_of_extract
  all_goals
    apply RForm.extract_toWord
    unfold header
    simp (disch := decide) only [BitVec.extractLsb'_append_eq_of_le,
      BitVec.extractLsb'_append_eq_of_add_le, BitVec.extractLsb'_eq_self, Nat.reduceSub]

/-- A field of a form I word is the field of the parts it is joined from. -/
theorem IForm.extract_toWord (op x : Nat) (f : IForm) (i n : Nat) (b : BitVec n)
    (h : BitVec.extractLsb' i n (header op x f.pr ++ f.d ++ f.a ++ BitVec.ofBool f.ea ++ f.imm) = b) :
    BitVec.extractLsb' i n (f.toWord op x) = b := h

/-- OP reads back (R33). -/
theorem IForm.wordOp_toWord (op x : Nat) (f : IForm) (h : op < 256) : wordOp (f.toWord op x) = op := by
  have e := f.extract_toWord op x 56 8 (BitVec.ofNat 8 op) (by
    unfold header
    simp (disch := decide) only [BitVec.extractLsb'_append_eq_of_le, BitVec.extractLsb'_eq_self, Nat.reduceSub])
  unfold wordOp
  rw [e, BitVec.toNat_ofNat]
  exact Nat.mod_eq_of_lt h

/-- X reads back (R33). -/
theorem IForm.wordX_toWord (op x : Nat) (f : IForm) (h : x < 8) : wordX (f.toWord op x) = x := by
  have e := f.extract_toWord op x 48 3 (BitVec.ofNat 3 x) (by
    unfold header
    simp (disch := decide) only [BitVec.extractLsb'_append_eq_of_le,
      BitVec.extractLsb'_append_eq_of_add_le, BitVec.extractLsb'_eq_self, Nat.reduceSub])
  unfold wordX
  rw [e, BitVec.toNat_ofNat]
  exact Nat.mod_eq_of_lt h

/-- The fields of a form I instruction read back from its word. -/
theorem IForm.ofWord_toWord (op x : Nat) (f : IForm) : IForm.ofWord (f.toWord op x) = f := by
  obtain ⟨⟨p, n⟩, d, a, ea, imm⟩ := f
  unfold IForm.ofWord Pred.ofWord
  congr 1
  · congr 1
    · apply IForm.extract_toWord
      unfold header
      simp (disch := decide) only [BitVec.extractLsb'_append_eq_of_le,
      BitVec.extractLsb'_append_eq_of_add_le, BitVec.extractLsb'_eq_self, Nat.reduceSub]
    · apply getLsbD_of_extract
      apply IForm.extract_toWord
      unfold header
      simp (disch := decide) only [BitVec.extractLsb'_append_eq_of_le,
      BitVec.extractLsb'_append_eq_of_add_le, BitVec.extractLsb'_eq_self, Nat.reduceSub]
  all_goals try apply getLsbD_of_extract
  all_goals
    apply IForm.extract_toWord
    unfold header
    simp (disch := decide) only [BitVec.extractLsb'_append_eq_of_le,
      BitVec.extractLsb'_append_eq_of_add_le, BitVec.extractLsb'_eq_self, Nat.reduceSub]

/-- A field of a form L word is the field of the parts it is joined from. -/
theorem LForm.extract_toWord (op x : Nat) (f : LForm) (i n : Nat) (b : BitVec n)
    (h : BitVec.extractLsb' i n (header op x f.pr ++ f.d ++ f.a ++ BitVec.ofBool f.ea ++ f.imm) = b) :
    BitVec.extractLsb' i n (f.toWord op x) = b := h

/-- OP reads back (R33). -/
theorem LForm.wordOp_toWord (op x : Nat) (f : LForm) (h : op < 256) : wordOp (f.toWord op x) = op := by
  have e := f.extract_toWord op x 56 8 (BitVec.ofNat 8 op) (by
    unfold header
    simp (disch := decide) only [BitVec.extractLsb'_append_eq_of_le, BitVec.extractLsb'_eq_self, Nat.reduceSub])
  unfold wordOp
  rw [e, BitVec.toNat_ofNat]
  exact Nat.mod_eq_of_lt h

/-- X reads back (R33). -/
theorem LForm.wordX_toWord (op x : Nat) (f : LForm) (h : x < 8) : wordX (f.toWord op x) = x := by
  have e := f.extract_toWord op x 48 3 (BitVec.ofNat 3 x) (by
    unfold header
    simp (disch := decide) only [BitVec.extractLsb'_append_eq_of_le,
      BitVec.extractLsb'_append_eq_of_add_le, BitVec.extractLsb'_eq_self, Nat.reduceSub])
  unfold wordX
  rw [e, BitVec.toNat_ofNat]
  exact Nat.mod_eq_of_lt h

/-- The fields of a form L instruction read back from its words. -/
theorem LForm.ofWords_toWord (op x : Nat) (f : LForm) : LForm.ofWords (f.toWord op x) f.imm64 = f := by
  obtain ⟨⟨p, n⟩, d, a, ea, imm, imm64⟩ := f
  unfold LForm.ofWords Pred.ofWord
  congr 1
  · congr 1
    · apply LForm.extract_toWord
      unfold header
      simp (disch := decide) only [BitVec.extractLsb'_append_eq_of_le,
      BitVec.extractLsb'_append_eq_of_add_le, BitVec.extractLsb'_eq_self, Nat.reduceSub]
    · apply getLsbD_of_extract
      apply LForm.extract_toWord
      unfold header
      simp (disch := decide) only [BitVec.extractLsb'_append_eq_of_le,
      BitVec.extractLsb'_append_eq_of_add_le, BitVec.extractLsb'_eq_self, Nat.reduceSub]
  all_goals try apply getLsbD_of_extract
  all_goals
    apply LForm.extract_toWord
    unfold header
    simp (disch := decide) only [BitVec.extractLsb'_append_eq_of_le,
      BitVec.extractLsb'_append_eq_of_add_le, BitVec.extractLsb'_eq_self, Nat.reduceSub]

/-- A field of a form J word is the field of the parts it is joined from. -/
theorem JForm.extract_toWord (op x : Nat) (f : JForm) (i n : Nat) (b : BitVec n)
    (h : BitVec.extractLsb' i n (header op x f.pr ++ f.d ++ f.offset) = b) :
    BitVec.extractLsb' i n (f.toWord op x) = b := h

/-- OP reads back (R33). -/
theorem JForm.wordOp_toWord (op x : Nat) (f : JForm) (h : op < 256) : wordOp (f.toWord op x) = op := by
  have e := f.extract_toWord op x 56 8 (BitVec.ofNat 8 op) (by
    unfold header
    simp (disch := decide) only [BitVec.extractLsb'_append_eq_of_le, BitVec.extractLsb'_eq_self, Nat.reduceSub])
  unfold wordOp
  rw [e, BitVec.toNat_ofNat]
  exact Nat.mod_eq_of_lt h

/-- X reads back (R33). -/
theorem JForm.wordX_toWord (op x : Nat) (f : JForm) (h : x < 8) : wordX (f.toWord op x) = x := by
  have e := f.extract_toWord op x 48 3 (BitVec.ofNat 3 x) (by
    unfold header
    simp (disch := decide) only [BitVec.extractLsb'_append_eq_of_le,
      BitVec.extractLsb'_append_eq_of_add_le, BitVec.extractLsb'_eq_self, Nat.reduceSub])
  unfold wordX
  rw [e, BitVec.toNat_ofNat]
  exact Nat.mod_eq_of_lt h

/-- A field of a form J second word is the field of the parts it is joined from. -/
theorem JForm.extract_toWord2 (f : JForm) (i n : Nat) (b : BitVec n)
    (h : BitVec.extractLsb' i n (f.t ++ f.cnt ++ f.rsv) = b) : BitVec.extractLsb' i n f.toWord2 = b := h

/-- The fields of a form J instruction read back from its words. -/
theorem JForm.ofWords_toWord (op x : Nat) (f : JForm) : JForm.ofWords (f.toWord op x) f.toWord2 = f := by
  obtain ⟨⟨p, n⟩, d, offset, t, cnt, rsv⟩ := f
  unfold JForm.ofWords Pred.ofWord
  congr 1
  · congr 1
    · apply JForm.extract_toWord
      unfold header
      simp (disch := decide) only [BitVec.extractLsb'_append_eq_of_le,
      BitVec.extractLsb'_append_eq_of_add_le, BitVec.extractLsb'_eq_self, Nat.reduceSub]
    · apply getLsbD_of_extract
      apply JForm.extract_toWord
      unfold header
      simp (disch := decide) only [BitVec.extractLsb'_append_eq_of_le,
      BitVec.extractLsb'_append_eq_of_add_le, BitVec.extractLsb'_eq_self, Nat.reduceSub]
  · apply JForm.extract_toWord
    simp (disch := decide) only [BitVec.extractLsb'_append_eq_of_le,
      BitVec.extractLsb'_append_eq_of_add_le, BitVec.extractLsb'_eq_self, Nat.reduceSub]
  · apply JForm.extract_toWord
    simp (disch := decide) only [BitVec.extractLsb'_append_eq_of_add_le, BitVec.extractLsb'_eq_self]
  all_goals
    apply JForm.extract_toWord2
    simp (disch := decide) only [BitVec.extractLsb'_append_eq_of_le,
      BitVec.extractLsb'_append_eq_of_add_le, BitVec.extractLsb'_eq_self, Nat.reduceSub]

/-- A field of a form M word is the field of the parts it is joined from. -/
theorem MForm.extract_toWord (op x : Nat) (f : MForm) (i n : Nat) (b : BitVec n)
    (h : BitVec.extractLsb' i n (header op x f.pr ++ f.d ++ f.a ++ f.b ++ f.disp ++
      BitVec.ofBool f.ea ++ BitVec.ofBool f.eb ++ f.pi ++ f.sc ++ f.or) = b) :
    BitVec.extractLsb' i n (f.toWord op x) = b := h

/-- OP reads back (R33). -/
theorem MForm.wordOp_toWord (op x : Nat) (f : MForm) (h : op < 256) : wordOp (f.toWord op x) = op := by
  have e := f.extract_toWord op x 56 8 (BitVec.ofNat 8 op) (by
    unfold header
    simp (disch := decide) only [BitVec.extractLsb'_append_eq_of_le, BitVec.extractLsb'_eq_self, Nat.reduceSub])
  unfold wordOp
  rw [e, BitVec.toNat_ofNat]
  exact Nat.mod_eq_of_lt h

/-- X reads back (R33). -/
theorem MForm.wordX_toWord (op x : Nat) (f : MForm) (h : x < 8) : wordX (f.toWord op x) = x := by
  have e := f.extract_toWord op x 48 3 (BitVec.ofNat 3 x) (by
    unfold header
    simp (disch := decide) only [BitVec.extractLsb'_append_eq_of_le,
      BitVec.extractLsb'_append_eq_of_add_le, BitVec.extractLsb'_eq_self, Nat.reduceSub])
  unfold wordX
  rw [e, BitVec.toNat_ofNat]
  exact Nat.mod_eq_of_lt h

/-- The fields of a form M instruction read back from its word. -/
theorem MForm.ofWord_toWord (op x : Nat) (f : MForm) : MForm.ofWord (f.toWord op x) = f := by
  obtain ⟨⟨p, n⟩, d, a, b, disp, ea, eb, pi, sc, or⟩ := f
  unfold MForm.ofWord Pred.ofWord
  congr 1
  · congr 1
    · apply MForm.extract_toWord
      unfold header
      simp (disch := decide) only [BitVec.extractLsb'_append_eq_of_le,
      BitVec.extractLsb'_append_eq_of_add_le, BitVec.extractLsb'_eq_self, Nat.reduceSub]
    · apply getLsbD_of_extract
      apply MForm.extract_toWord
      unfold header
      simp (disch := decide) only [BitVec.extractLsb'_append_eq_of_le,
      BitVec.extractLsb'_append_eq_of_add_le, BitVec.extractLsb'_eq_self, Nat.reduceSub]
  all_goals try apply getLsbD_of_extract
  all_goals
    apply MForm.extract_toWord
    unfold header
    simp (disch := decide) only [BitVec.extractLsb'_append_eq_of_le,
      BitVec.extractLsb'_append_eq_of_add_le, BitVec.extractLsb'_eq_self, Nat.reduceSub]

end Sys2Proof
end

