-- ==== Sys2Proof/Laws/Keep.lean ====
section
/-! SUPPORT. Laws/Keep.lean: which operations keep the form of the memories and of the writes (`Claims.Formed`): the changes of
State, the checks and effects of an instruction, the gate, and the writes of Views.lean. -/

namespace Sys2Proof.Machine

/-- A change of the state keeps its form. -/
def KeepsForm (f : State → State) : Prop := ∀ s, Claims.Formed s → Claims.Formed (f s)

/-- Checks and effects keep the form, whether they go on or stop. -/
def ExecKeepsForm {α : Type} (m : Exec α) : Prop :=
  ∀ s, Claims.Formed s → (∀ a t, m s = .ok a t → Claims.Formed t) ∧ ∀ e t, m s = .error e t → Claims.Formed t

/-- The form rests on three memories and the writes alone. -/
theorem formed_of_same {s t : State} (hm : t.mem = s.mem) (hh : t.hostMem = s.hostMem) (hp : t.peerMem = s.peerMem)
    (hw : t.writes = s.writes) (h : Claims.Formed s) : Claims.Formed t := by
  unfold Claims.Formed MemoriesWf at *
  rw [hm, hh, hp, hw]; exact h

/-! ### Changes of the state -/

theorem KeepsForm.id : KeepsForm (fun s => s) := fun _ h => h
theorem KeepsForm.comp {f g : State → State} (hf : KeepsForm f) (hg : KeepsForm g) : KeepsForm (fun s => f (g s)) :=
  fun s h => hf _ (hg s h)
theorem KeepsForm.ite {p : State → Prop} [∀ s, Decidable (p s)] {f g : State → State} (hf : KeepsForm f) (hg : KeepsForm g) :
    KeepsForm (fun s => if p s then f s else g s) := fun s h => by
  show Claims.Formed (if p s then f s else g s)
  split
  · exact hf s h
  · exact hg s h
theorem KeepsForm.foldl {α : Type} {f : State → α → State} (hf : ∀ a, KeepsForm (fun s => f s a)) :
    ∀ l : List α, KeepsForm (fun s => l.foldl f s)
  | [], _, h => h
  | a :: l, s, h => KeepsForm.foldl hf l (f s a) (hf a s h)
theorem KeepsForm.setCore (c : Nat) (k : State → Core) : KeepsForm (fun s => s.setCore c (k s)) :=
  fun _ h => formed_of_same rfl rfl rfl rfl h
theorem KeepsForm.modCore (c : Nat) (f : Core → Core) : KeepsForm (fun s => s.modCore c f) :=
  fun _ h => formed_of_same rfl rfl rfl rfl h
theorem KeepsForm.modStream (c : Nat) (t : StreamId) (f : Stream → Stream) : KeepsForm (fun s => s.modStream c t f) :=
  fun _ h => formed_of_same rfl rfl rfl rfl h
theorem KeepsForm.modCur (f : Core → Core) : KeepsForm (fun s => s.modCur f) := fun _ h => formed_of_same rfl rfl rfl rfl h
theorem KeepsForm.modStrm (f : Stream → Stream) : KeepsForm (fun s => s.modStrm f) := fun _ h => formed_of_same rfl rfl rfl rfl h
theorem KeepsForm.setGuest (g : Nat) (x : State → Guest) : KeepsForm (fun s => s.setGuest g (x s)) :=
  fun _ h => formed_of_same rfl rfl rfl rfl h
theorem KeepsForm.modGuest (g : Nat) (f : Guest → Guest) : KeepsForm (fun s => s.modGuest g f) :=
  fun _ h => formed_of_same rfl rfl rfl rfl h
theorem KeepsForm.setPf (off : Nat) (v : State → Word) : KeepsForm (fun s => s.setPf off (v s)) :=
  fun _ h => formed_of_same rfl rfl rfl rfl h
theorem KeepsForm.takeTrap (c : Nat) (t : StreamId) (cause : Cause) (tval tpc : Word) (src : TrapSrc) :
    KeepsForm (takeTrap c t cause tval tpc src) := fun _ h => formed_of_same rfl rfl rfl rfl h
theorem KeepsForm.pageFault (c : Nat) (t : StreamId) (fetch wr : Bool) (reason gva : Nat) :
    KeepsForm (pageFault c t fetch wr reason gva) := fun _ h => formed_of_same rfl rfl rfl rfl h
theorem KeepsForm.freezeStream (c : Nat) (t : StreamId) (kind gpa gva detail : Nat) :
    KeepsForm (freezeStream c t kind gpa gva detail) := fun _ h => formed_of_same rfl rfl rfl rfl h
theorem KeepsForm.retire (st : Stream) (pc : Word) : KeepsForm (State.retire st pc) := fun _ h => formed_of_same rfl rfl rfl rfl h

/-! ### Checks and effects -/

theorem ExecKeepsForm.pure {α : Type} (a : α) : ExecKeepsForm (pure a : Exec α) := by
  intro s h
  refine ⟨fun b t e => ?_, fun b t e => ?_⟩ <;> cases e
  exact h
theorem ExecKeepsForm.throw {α : Type} (x : Stop) : ExecKeepsForm (throw x : Exec α) := by
  intro s h
  refine ⟨fun b t e => ?_, fun b t e => ?_⟩ <;> cases e
  exact h
theorem ExecKeepsForm.get : ExecKeepsForm (get : Exec State) := by
  intro s h
  refine ⟨fun b t e => ?_, fun b t e => ?_⟩ <;> cases e
  exact h
theorem ExecKeepsForm.modify {f : State → State} (hf : KeepsForm f) : ExecKeepsForm (modify f : Exec PUnit) := by
  intro s h
  refine ⟨fun b t e => ?_, fun b t e => ?_⟩ <;> cases e
  exact hf s h
theorem ExecKeepsForm.bind {α β : Type} {m : Exec α} {f : α → Exec β} (hm : ExecKeepsForm m) (hf : ∀ a, ExecKeepsForm (f a)) :
    ExecKeepsForm (m >>= f) := by
  intro s h
  rw [exec_bind]
  cases e : m s with
  | ok a s' => exact hf a s' ((hm s h).1 a s' e)
  | error x s' =>
    refine ⟨fun b t e' => ?_, fun b t e' => ?_⟩
    · cases e'
    · cases e'
      exact (hm s h).2 x s' e
/-- An effect that may look at the state which it is given. -/
theorem ExecKeepsForm.bind_get {β : Type} {f : State → Exec β} (hf : ∀ s, ExecKeepsForm (f s)) :
    ExecKeepsForm (MonadState.get >>= f) := ExecKeepsForm.bind ExecKeepsForm.get hf
theorem ExecKeepsForm.ite {α : Type} {p : Prop} [Decidable p] {m n : Exec α} (hm : ExecKeepsForm m) (hn : ExecKeepsForm n) :
    ExecKeepsForm (if p then m else n) := by
  split
  · exact hm
  · exact hn
theorem ExecKeepsForm.need (b : Bool) (c : Cause) (v : Word) : ExecKeepsForm (need b c v) := by
  unfold Machine.need
  exact .ite (.pure _) (.throw _)
theorem ExecKeepsForm.waitFor (b : Bool) (w : Wait) : ExecKeepsForm (waitFor b w) := by
  unfold Machine.waitFor
  exact .ite (.pure _) (.throw _)
theorem ExecKeepsForm.ofExcept {α : Type} (r : Except Stop α) : ExecKeepsForm (Exec.ofExcept r) := by
  unfold Exec.ofExcept
  cases r
  · exact .throw _
  · exact .pure _
theorem ExecKeepsForm.forM {α : Type} {f : α → Exec PUnit} (hf : ∀ a, ExecKeepsForm (f a)) :
    ∀ l : List α, ExecKeepsForm (l.forM f)
  | [] => by
    show ExecKeepsForm (Pure.pure _)
    exact .pure _
  | a :: l => by
    show ExecKeepsForm (f a >>= fun _ => l.forM f)
    exact .bind (hf a) (fun _ => ExecKeepsForm.forM hf l)
theorem ExecKeepsForm.mapM {α β : Type} {f : α → Exec β} (hf : ∀ a, ExecKeepsForm (f a)) :
    ∀ l : List α, ExecKeepsForm (l.mapM f)
  | [] => by
    simp only [List.mapM_nil]
    exact .pure _
  | a :: l => by
    simp only [List.mapM_cons]
    exact .bind (hf a) (fun _ => .bind (ExecKeepsForm.mapM hf l) (fun _ => .pure _))

/-! ### The gate -/

theorem applyStop_formed {w : Word} {e : Stop} {s t : State} (h : Claims.Formed s) (ht : applyStop w e s = .next t) :
    Claims.Formed t := by
  cases e <;> cases ht <;> exact formed_of_same rfl rfl rfl rfl h

/-- An instruction whose checks and effects keep the form leads from a formed state to a formed one. -/
theorem issueTo_formed {i : Instr} {body : Exec Word} (hb : ExecKeepsForm body) {s t : State} (h : Claims.Formed s)
    (ht : issueTo i body s = .next t) : Claims.Formed t := by
  unfold issueTo at ht
  simp only at ht
  split at ht
  · cases ht
    exact KeepsForm.retire _ _ s h
  · split at ht
    · exact applyStop_formed h ht
    · split at ht
      · exact applyStop_formed h ht
      · split at ht
        · exact applyStop_formed h ht
        · split at ht
          · rename_i pc s' e
            cases ht
            exact KeepsForm.retire _ _ s' ((hb s h).1 _ _ e)
          · rename_i x s' e
            exact applyStop_formed ((hb s h).2 _ _ e) ht

theorem issue_formed {i : Instr} {body : Exec Unit} (hb : ExecKeepsForm body) {s t : State} (h : Claims.Formed s)
    (ht : issue i body s = .next t) : Claims.Formed t :=
  issueTo_formed (.bind hb (fun _ => .pure _)) h ht

theorem happen_formed {ev : Exec Unit} (he : ExecKeepsForm ev) {s t : State} (h : Claims.Formed s)
    (ht : happen ev s = .next t) : Claims.Formed t := by
  unfold happen at ht
  split at ht
  · rename_i a s' e
    cases ht
    exact (he s h).1 _ _ e
  · cases ht
  · cases ht
    exact h

/-! ### Writes in line order -/

/-- A partition is in order. -/
theorem partitionWrites_ordered (l : List WriteRec) :
    (partitionWrites l).Pairwise (fun a b => b.pub.isSome = true → a.pub.isSome = true) := by
  refine List.pairwise_append.2 ⟨?_, ?_, ?_⟩
  · exact List.pairwise_iff_forall_sublist.2 (fun hs _ => (List.mem_filter.1 (hs.subset (List.mem_cons_self ..))).2)
  · refine List.pairwise_iff_forall_sublist.2 (fun {a b} hs hb => ?_)
    have hn := (List.mem_filter.1 (hs.subset (List.mem_cons_of_mem _ (List.mem_cons_self ..)))).2
    cases hbp : b.pub <;> simp_all
  · intro a ha b _ _
    exact (List.mem_filter.1 ha).2

/-- Writes are in order where no published one stands after a pending one. -/
theorem partitionWrites_iff (q : List WriteRec) :
    partitionWrites q = q ↔ q.Pairwise (fun a b => b.pub.isSome = true → a.pub.isSome = true) := by
  constructor
  · intro hq
    rw [← hq]
    exact partitionWrites_ordered q
  · intro hq
    induction q with
    | nil => rfl
    | cons a q ih =>
      obtain ⟨h1, h2⟩ := List.pairwise_cons.1 hq
      have hi := ih h2
      cases ha : a.pub with
      | some x => simpa [partitionWrites, ha] using hi
      | none =>
        have hn : ∀ b ∈ q, b.pub = none := by
          intro b hb
          have := h1 b hb
          cases hs : b.pub <;> simp_all
        have e1 : q.filter (fun r => r.pub.isSome) = [] := by
          rw [List.filter_eq_nil_iff]; intro b hb; simp [hn b hb]
        have e2 : q.filter (fun r => r.pub.isNone) = q := by
          rw [List.filter_eq_self]; intro b hb; simp [hn b hb]
        simp [partitionWrites, ha, e1, e2]

/-- The order is kept by a second partition. -/
theorem partitionWrites_idem (l : List WriteRec) : partitionWrites (partitionWrites l) = partitionWrites l :=
  (partitionWrites_iff _).2 (partitionWrites_ordered l)

/-- Writes of a list in order are in order. -/
theorem partitionWrites_sublist {p l : List WriteRec} (hp : p.Sublist l) (h : partitionWrites l = l) : partitionWrites p = p :=
  (partitionWrites_iff p).2 (((partitionWrites_iff l).1 h).sublist hp)

/-- Any writes, put into order. -/
theorem formed_partition {s : State} (h : Claims.Formed s) (l : List WriteRec) :
    Claims.Formed { s with writes := partitionWrites l } := ⟨h.1, partitionWrites_idem l⟩

/-- Some of the writes, in their order. -/
theorem partitionWrites_filter {l : List WriteRec} (p : WriteRec → Bool) (h : partitionWrites l = l) :
    partitionWrites (l.filter p) = l.filter p := partitionWrites_sublist List.filter_sublist h

theorem formed_filter {s : State} (h : Claims.Formed s) (p : WriteRec → Bool) :
    Claims.Formed { s with writes := s.writes.filter p } := ⟨h.1, partitionWrites_filter p h.2⟩

/-- A change of each write that leaves its publication alone. -/
theorem partitionWrites_map {l : List WriteRec} {f : WriteRec → WriteRec} (hf : ∀ r, (f r).pub = r.pub)
    (h : partitionWrites l = l) : partitionWrites (l.map f) = l.map f := by
  rw [partitionWrites_iff] at h ⊢
  simpa [List.pairwise_map, hf] using h

theorem formed_map {s : State} (h : Claims.Formed s) {f : WriteRec → WriteRec} (hf : ∀ r, (f r).pub = r.pub) :
    Claims.Formed { s with writes := s.writes.map f } := ⟨h.1, partitionWrites_map hf h.2⟩

theorem KeepsForm.addWrite (r : State → WriteRec) : KeepsForm (fun s => addWrite (r s) s) :=
  fun s h => ⟨h.1, partitionWrites_idem (s.writes ++ [r s])⟩
/-- Closing the views changes no publication. -/
theorem KeepsForm.closeViews : KeepsForm closeViews := by
  intro s h
  refine formed_map h (fun r => ?_)
  split <;> rfl
/-- A write that joins the image of its line changes no publication. -/
theorem KeepsForm.joinImage (id : Nat) : KeepsForm (joinImage id) := by
  intro s h
  unfold Machine.joinImage
  split
  · exact h
  · refine formed_map h (fun r => ?_)
    split <;> rfl
theorem KeepsForm.publish (sel : State → WriteRec → Bool) (sc : Scope) (cores : State → List Nat) :
    KeepsForm (fun s => publish (sel s) sc (cores s) s) := fun _ h =>
  KeepsForm.closeViews _ (KeepsForm.foldl (f := fun s i => Machine.joinImage i s) KeepsForm.joinImage _ _ (formed_partition h _))
theorem KeepsForm.publishCarried (sel : State → WriteRec → Bool) (sc : Scope) (cores : State → List Nat) :
    KeepsForm (fun s => publishCarried (sel s) sc (cores s) s) := by
  intro s h
  show Claims.Formed (Machine.publishCarried (sel s) sc (cores s) s)
  unfold Machine.publishCarried
  split
  · exact h
  · exact KeepsForm.publish sel sc cores s h
theorem KeepsForm.addJoined (r : State → WriteRec) : KeepsForm (fun s => addJoined (r s) s) := fun s h =>
  KeepsForm.closeViews _ (KeepsForm.joinImage _ _ (KeepsForm.addWrite r s h))
theorem KeepsForm.enterViews (sel : State → WriteRec → Bool) (ps : List Party) : KeepsForm (fun s => enterViews (sel s) ps s) := by
  intro s h
  refine formed_map h (fun r => ?_)
  split <;> rfl
theorem KeepsForm.enterClosed (p : Party) (ids : List Nat) : KeepsForm (enterClosed p ids) :=
  KeepsForm.enterViews (fun s => closedSel s p ids) [p]
theorem KeepsForm.enterPublished (sc : Scope) (ps : List Party) : KeepsForm (enterPublished sc ps) :=
  KeepsForm.foldl (f := fun s p =>
    Machine.enterClosed p ((s.writes.filter (fun (r : WriteRec) => r.pubAt sc && reachesParty s r p)).map WriteRec.id) s)
    (fun p s h => KeepsForm.enterClosed p _ s h) ps
theorem KeepsForm.enterEarly (p : Party) (id : Nat) : KeepsForm (enterEarly p id) := by
  intro s h
  unfold Machine.enterEarly
  split
  · exact h
  · exact KeepsForm.enterClosed p _ s h
theorem KeepsForm.acquireRead (p : Party) (l : Loc) (mask : BitVec 64) (sc : Scope) : KeepsForm (acquireRead p l mask sc) :=
  fun s h => KeepsForm.enterClosed p _ s h
theorem KeepsForm.addPublished (r : State → WriteRec) (p : Party) (sc : Scope) (release : Bool) :
    KeepsForm (fun s => addPublished (r s) p sc release s) := by
  intro s h
  have hs : Claims.Formed (if release then Machine.publishCarried (inView p) sc (gangReach s p.core) s else s) := by
    split
    · exact KeepsForm.publishCarried (fun _ => inView p) sc (fun s => gangReach s p.core) s h
    · exact h
  show Claims.Formed (Machine.addPublished (r s) p sc release s)
  unfold Machine.addPublished
  dsimp only
  split
  · exact KeepsForm.addWrite (fun _ => _) _ hs
  · exact KeepsForm.addJoined (fun _ => _) _ hs
theorem KeepsForm.outsideChange (g : Nat) (l : Loc) (ch : Change) (mark : Option Bool) :
    KeepsForm (outsideChange g l ch mark) := KeepsForm.addJoined _
theorem KeepsForm.outsideWrite (g : Nat) (l : Loc) (mask : BitVec 64) (bits : LineBits) (tag : Option Tag) (mark : Option Bool) :
    KeepsForm (outsideWrite g l mask bits tag mark) := KeepsForm.addJoined _

/-- Setting a line keeps every memory in its canonical form. -/
theorem KeepsForm.setBase (l : State → Loc) (i : State → LineImg) : KeepsForm (fun s => setBase (l s) (i s) s) := by
  intro s h
  show Claims.Formed (Machine.setBase (l s) (i s) s)
  obtain ⟨⟨hm, hh, hp⟩, hw⟩ := h
  unfold Machine.setBase
  split
  · exact ⟨⟨Memory.wf_memWrite _ hm _ _, hh, hp⟩, hw⟩
  · exact ⟨⟨hm, Memory.wf_memWrite _ hh _ _, hp⟩, hw⟩
  · exact ⟨⟨hm, hh, Memory.wf_memWrite _ hp _ _⟩, hw⟩
  · exact ⟨⟨hm, hh, hp⟩, hw⟩

/-- Folding writes into their lines keeps the memories in canonical form. -/
theorem compactFrom_keeps : ∀ (l : List WriteRec) (s : State) (blocked : List Loc), Claims.Formed s →
    Claims.Formed (compactFrom s l blocked).1
  | [], _, _, h => h
  | r :: rest, s, blocked, h => by
    unfold compactFrom
    split
    · exact compactFrom_keeps rest _ blocked (KeepsForm.setBase (fun _ => r.loc) (fun _ => _) s h)
    · exact compactFrom_keeps rest s (r.loc :: blocked) h

theorem KeepsForm.compact : KeepsForm compact := by
  intro s h
  exact ⟨(compactFrom_keeps _ s [] h).1, partitionWrites_filter _ h.2⟩

/-! ### Reset -/

theorem reset_memories_wf : MemoriesWf State.reset := ⟨rfl, rfl, rfl⟩

end Sys2Proof.Machine
end

