-- ==== Sys2Proof/Laws/PerInstr.lean ====
section
/-! SUPPORT. Laws/PerInstr.lean: the statement made of every instruction by itself: OP and X of its words name
it and the decoder reads its fields back (R33 to R45). An event has no words, and of one nothing is said. -/

namespace Sys2Proof.Laws

open Sys2Proof

/-- The decoder reads the instruction back from its words. -/
def Encoding.Statement (i : Instr) : Prop :=
  isEvent i = false → decodeWords (firstWord i) ((encode i).getD 1 0) = some i

/-- Form R: what OP and X name is read back with its fields. -/
theorem Encoding.formR (op x : Nat) (i : RForm → Instr) (f : RForm) (v : Word)
    (h : ∀ w v, decodeOp op x w v = some (i (RForm.ofWord w))) (ho : op < 256) (hx : x < 8) :
    decodeWords (f.toWord op x) v = some (i f) := by
  unfold decodeWords
  rw [RForm.wordOp_toWord op x f ho, RForm.wordX_toWord op x f hx, h, RForm.ofWord_toWord]

/-- Form I: what OP and X name is read back with its fields. -/
theorem Encoding.formI (op x : Nat) (i : IForm → Instr) (f : IForm) (v : Word)
    (h : ∀ w v, decodeOp op x w v = some (i (IForm.ofWord w))) (ho : op < 256) (hx : x < 8) :
    decodeWords (f.toWord op x) v = some (i f) := by
  unfold decodeWords
  rw [IForm.wordOp_toWord op x f ho, IForm.wordX_toWord op x f hx, h, IForm.ofWord_toWord]

/-- Form L: what OP and X name is read back with its fields. -/
theorem Encoding.formL (op x : Nat) (i : LForm → Instr) (f : LForm)
    (h : ∀ w v, decodeOp op x w v = some (i (LForm.ofWords w v))) (ho : op < 256) (hx : x < 8) :
    decodeWords (f.toWord op x) f.imm64 = some (i f) := by
  unfold decodeWords
  rw [LForm.wordOp_toWord op x f ho, LForm.wordX_toWord op x f hx, h, LForm.ofWords_toWord]

/-- Form J: what OP and X name is read back with its fields. -/
theorem Encoding.formJ (op x : Nat) (i : JForm → Instr) (f : JForm)
    (h : ∀ w v, decodeOp op x w v = some (i (JForm.ofWords w v))) (ho : op < 256) (hx : x < 8) :
    decodeWords (f.toWord op x) f.toWord2 = some (i f) := by
  unfold decodeWords
  rw [JForm.wordOp_toWord op x f ho, JForm.wordX_toWord op x f hx, h, JForm.ofWords_toWord]

/-- Form M: what OP and X name is read back with its fields. -/
theorem Encoding.formM (op x : Nat) (i : MForm → Instr) (f : MForm) (v : Word)
    (h : ∀ w v, decodeOp op x w v = some (i (MForm.ofWord w))) (ho : op < 256) (hx : x < 8) :
    decodeWords (f.toWord op x) v = some (i f) := by
  unfold decodeWords
  rw [MForm.wordOp_toWord op x f ho, MForm.wordX_toWord op x f hx, h, MForm.ofWord_toWord]

theorem Encoding.add (f : RForm) : Encoding.Statement (.add f) := fun _ =>
  Encoding.formR 0x01 0 .add f 0 (fun _ _ => rfl) (by decide) (by decide)
theorem Encoding.sub (f : RForm) : Encoding.Statement (.sub f) := fun _ =>
  Encoding.formR 0x01 1 .sub f 0 (fun _ _ => rfl) (by decide) (by decide)
theorem Encoding.mul (f : RForm) : Encoding.Statement (.mul f) := fun _ =>
  Encoding.formR 0x01 2 .mul f 0 (fun _ _ => rfl) (by decide) (by decide)
theorem Encoding.mulh (f : RForm) : Encoding.Statement (.mulh f) := fun _ =>
  Encoding.formR 0x01 3 .mulh f 0 (fun _ _ => rfl) (by decide) (by decide)
theorem Encoding.mulhs (f : RForm) : Encoding.Statement (.mulhs f) := fun _ =>
  Encoding.formR 0x01 4 .mulhs f 0 (fun _ _ => rfl) (by decide) (by decide)
theorem Encoding.div (f : RForm) : Encoding.Statement (.div f) := fun _ =>
  Encoding.formR 0x02 0 .div f 0 (fun _ _ => rfl) (by decide) (by decide)
theorem Encoding.divs (f : RForm) : Encoding.Statement (.divs f) := fun _ =>
  Encoding.formR 0x02 1 .divs f 0 (fun _ _ => rfl) (by decide) (by decide)
theorem Encoding.rem (f : RForm) : Encoding.Statement (.rem f) := fun _ =>
  Encoding.formR 0x02 2 .rem f 0 (fun _ _ => rfl) (by decide) (by decide)
theorem Encoding.rems (f : RForm) : Encoding.Statement (.rems f) := fun _ =>
  Encoding.formR 0x02 3 .rems f 0 (fun _ _ => rfl) (by decide) (by decide)
theorem Encoding.andr (f : RForm) : Encoding.Statement (.andr f) := fun _ =>
  Encoding.formR 0x03 0 .andr f 0 (fun _ _ => rfl) (by decide) (by decide)
theorem Encoding.orr (f : RForm) : Encoding.Statement (.orr f) := fun _ =>
  Encoding.formR 0x03 1 .orr f 0 (fun _ _ => rfl) (by decide) (by decide)
theorem Encoding.xorr (f : RForm) : Encoding.Statement (.xorr f) := fun _ =>
  Encoding.formR 0x03 2 .xorr f 0 (fun _ _ => rfl) (by decide) (by decide)
theorem Encoding.andn (f : RForm) : Encoding.Statement (.andn f) := fun _ =>
  Encoding.formR 0x03 3 .andn f 0 (fun _ _ => rfl) (by decide) (by decide)
theorem Encoding.orn (f : RForm) : Encoding.Statement (.orn f) := fun _ =>
  Encoding.formR 0x03 4 .orn f 0 (fun _ _ => rfl) (by decide) (by decide)
theorem Encoding.shl (f : RForm) : Encoding.Statement (.shl f) := fun _ =>
  Encoding.formR 0x04 0 .shl f 0 (fun _ _ => rfl) (by decide) (by decide)
theorem Encoding.shr (f : RForm) : Encoding.Statement (.shr f) := fun _ =>
  Encoding.formR 0x04 1 .shr f 0 (fun _ _ => rfl) (by decide) (by decide)
theorem Encoding.sra (f : RForm) : Encoding.Statement (.sra f) := fun _ =>
  Encoding.formR 0x04 2 .sra f 0 (fun _ _ => rfl) (by decide) (by decide)
theorem Encoding.rol (f : RForm) : Encoding.Statement (.rol f) := fun _ =>
  Encoding.formR 0x04 3 .rol f 0 (fun _ _ => rfl) (by decide) (by decide)
theorem Encoding.min (f : RForm) : Encoding.Statement (.min f) := fun _ =>
  Encoding.formR 0x05 0 .min f 0 (fun _ _ => rfl) (by decide) (by decide)
theorem Encoding.max (f : RForm) : Encoding.Statement (.max f) := fun _ =>
  Encoding.formR 0x05 1 .max f 0 (fun _ _ => rfl) (by decide) (by decide)
theorem Encoding.mins (f : RForm) : Encoding.Statement (.mins f) := fun _ =>
  Encoding.formR 0x05 2 .mins f 0 (fun _ _ => rfl) (by decide) (by decide)
theorem Encoding.maxs (f : RForm) : Encoding.Statement (.maxs f) := fun _ =>
  Encoding.formR 0x05 3 .maxs f 0 (fun _ _ => rfl) (by decide) (by decide)
theorem Encoding.clz (f : RForm) : Encoding.Statement (.clz f) := fun _ =>
  Encoding.formR 0x06 0 .clz f 0 (fun _ _ => rfl) (by decide) (by decide)
theorem Encoding.ctz (f : RForm) : Encoding.Statement (.ctz f) := fun _ =>
  Encoding.formR 0x06 1 .ctz f 0 (fun _ _ => rfl) (by decide) (by decide)
theorem Encoding.popc (f : RForm) : Encoding.Statement (.popc f) := fun _ =>
  Encoding.formR 0x06 2 .popc f 0 (fun _ _ => rfl) (by decide) (by decide)
theorem Encoding.sext (f : RForm) : Encoding.Statement (.sext f) := fun _ =>
  Encoding.formR 0x06 3 .sext f 0 (fun _ _ => rfl) (by decide) (by decide)
theorem Encoding.zext (f : RForm) : Encoding.Statement (.zext f) := fun _ =>
  Encoding.formR 0x06 4 .zext f 0 (fun _ _ => rfl) (by decide) (by decide)
theorem Encoding.bfx (f : RForm) : Encoding.Statement (.bfx f) := fun _ =>
  Encoding.formR 0x07 0 .bfx f 0 (fun _ _ => rfl) (by decide) (by decide)
theorem Encoding.bfi (f : RForm) : Encoding.Statement (.bfi f) := fun _ =>
  Encoding.formR 0x07 1 .bfi f 0 (fun _ _ => rfl) (by decide) (by decide)
theorem Encoding.mov (f : RForm) : Encoding.Statement (.mov f) := fun _ =>
  Encoding.formR 0x08 0 .mov f 0 (fun _ _ => rfl) (by decide) (by decide)
theorem Encoding.sel (f : RForm) : Encoding.Statement (.sel f) := fun _ =>
  Encoding.formR 0x08 1 .sel f 0 (fun _ _ => rfl) (by decide) (by decide)
theorem Encoding.addx (f : RForm) : Encoding.Statement (.addx f) := fun _ =>
  Encoding.formR 0x08 2 .addx f 0 (fun _ _ => rfl) (by decide) (by decide)
theorem Encoding.addi (f : IForm) : Encoding.Statement (.addi f) := fun _ =>
  Encoding.formI 0x0A 0 .addi f 0 (fun _ _ => rfl) (by decide) (by decide)
theorem Encoding.li (f : IForm) : Encoding.Statement (.li f) := fun _ =>
  Encoding.formI 0x0C 0 .li f 0 (fun _ _ => rfl) (by decide) (by decide)
theorem Encoding.liw (f : LForm) : Encoding.Statement (.liw f) := fun _ =>
  Encoding.formL 0x0D 0 .liw f (fun _ _ => rfl) (by decide) (by decide)
theorem Encoding.cmp (k : Cc) (f : RForm) : Encoding.Statement (.cmp k f) := fun _ =>
  Encoding.formR 0x09 k.x (.cmp k) f 0 (fun _ _ => by cases k <;> rfl) (by decide) (by cases k <;> decide)
theorem Encoding.cmpi (k : Cc) (f : IForm) : Encoding.Statement (.cmpi k f) := fun _ =>
  Encoding.formI 0x0B k.x (.cmpi k) f 0 (fun _ _ => by cases k <;> rfl) (by decide) (by cases k <;> decide)
theorem Encoding.pand (f : RForm) : Encoding.Statement (.pand f) := fun _ =>
  Encoding.formR 0x0E 0 .pand f 0 (fun _ _ => rfl) (by decide) (by decide)
theorem Encoding.por (f : RForm) : Encoding.Statement (.por f) := fun _ =>
  Encoding.formR 0x0E 1 .por f 0 (fun _ _ => rfl) (by decide) (by decide)
theorem Encoding.pxor (f : RForm) : Encoding.Statement (.pxor f) := fun _ =>
  Encoding.formR 0x0E 2 .pxor f 0 (fun _ _ => rfl) (by decide) (by decide)
theorem Encoding.pnot (f : RForm) : Encoding.Statement (.pnot f) := fun _ =>
  Encoding.formR 0x0E 3 .pnot f 0 (fun _ _ => rfl) (by decide) (by decide)
theorem Encoding.pmov (f : RForm) : Encoding.Statement (.pmov f) := fun _ =>
  Encoding.formR 0x0E 4 .pmov f 0 (fun _ _ => rfl) (by decide) (by decide)
theorem Encoding.br (f : JForm) : Encoding.Statement (.br f) := fun _ =>
  Encoding.formJ 0x10 0 .br f (fun _ _ => rfl) (by decide) (by decide)
theorem Encoding.jmp (f : JForm) : Encoding.Statement (.jmp f) := fun _ =>
  Encoding.formJ 0x10 1 .jmp f (fun _ _ => rfl) (by decide) (by decide)
theorem Encoding.call (f : JForm) : Encoding.Statement (.call f) := fun _ =>
  Encoding.formJ 0x10 2 .call f (fun _ _ => rfl) (by decide) (by decide)
theorem Encoding.ret (f : JForm) : Encoding.Statement (.ret f) := fun _ =>
  Encoding.formJ 0x10 3 .ret f (fun _ _ => rfl) (by decide) (by decide)
theorem Encoding.loop (f : JForm) : Encoding.Statement (.loop f) := fun _ =>
  Encoding.formJ 0x10 4 .loop f (fun _ _ => rfl) (by decide) (by decide)
theorem Encoding.rdv (f : RForm) : Encoding.Statement (.rdv f) := fun _ =>
  Encoding.formR 0x11 0 .rdv f 0 (fun _ _ => rfl) (by decide) (by decide)
theorem Encoding.endj (f : RForm) : Encoding.Statement (.endj f) := fun _ =>
  Encoding.formR 0x11 1 .endj f 0 (fun _ _ => rfl) (by decide) (by decide)
theorem Encoding.nop (f : RForm) : Encoding.Statement (.nop f) := fun _ =>
  Encoding.formR 0x11 2 .nop f 0 (fun _ _ => rfl) (by decide) (by decide)
theorem Encoding.csrr (f : IForm) : Encoding.Statement (.csrr f) := fun _ =>
  Encoding.formI 0x12 0 .csrr f 0 (fun _ _ => rfl) (by decide) (by decide)
theorem Encoding.csrw (f : IForm) : Encoding.Statement (.csrw f) := fun _ =>
  Encoding.formI 0x12 1 .csrw f 0 (fun _ _ => rfl) (by decide) (by decide)
theorem Encoding.csrs (f : IForm) : Encoding.Statement (.csrs f) := fun _ =>
  Encoding.formI 0x12 2 .csrs f 0 (fun _ _ => rfl) (by decide) (by decide)
theorem Encoding.csrc (f : IForm) : Encoding.Statement (.csrc f) := fun _ =>
  Encoding.formI 0x12 3 .csrc f 0 (fun _ _ => rfl) (by decide) (by decide)
theorem Encoding.ld (k : LdSize) (f : MForm) : Encoding.Statement (.ld k f) := fun _ =>
  Encoding.formM 0x30 k.x (.ld k) f 0 (fun _ _ => by cases k <;> rfl) (by decide) (by cases k <;> decide)
theorem Encoding.st (k : StSize) (f : MForm) : Encoding.Statement (.st k f) := fun _ =>
  Encoding.formM 0x31 k.x (.st k) f 0 (fun _ _ => by cases k <;> rfl) (by decide) (by cases k <;> decide)
theorem Encoding.lds (k : LdSize) (f : MForm) : Encoding.Statement (.lds k f) := fun _ =>
  Encoding.formM 0x32 k.x (.lds k) f 0 (fun _ _ => by cases k <;> rfl) (by decide) (by cases k <;> decide)
theorem Encoding.sts (k : StSize) (f : MForm) : Encoding.Statement (.sts k f) := fun _ =>
  Encoding.formM 0x33 k.x (.sts k) f 0 (fun _ _ => by cases k <;> rfl) (by decide) (by cases k <;> decide)
theorem Encoding.ldq (f : MForm) : Encoding.Statement (.ldq f) := fun _ =>
  Encoding.formM 0x34 0 .ldq f 0 (fun _ _ => rfl) (by decide) (by decide)
theorem Encoding.ldqi (f : MForm) : Encoding.Statement (.ldqi f) := fun _ =>
  Encoding.formM 0x35 0 .ldqi f 0 (fun _ _ => rfl) (by decide) (by decide)
theorem Encoding.ldsq (f : MForm) : Encoding.Statement (.ldsq f) := fun _ =>
  Encoding.formM 0x37 0 .ldsq f 0 (fun _ _ => rfl) (by decide) (by decide)
theorem Encoding.stq (f : MForm) : Encoding.Statement (.stq f) := fun _ =>
  Encoding.formM 0x36 0 .stq f 0 (fun _ _ => rfl) (by decide) (by decide)
theorem Encoding.stsq (f : MForm) : Encoding.Statement (.stsq f) := fun _ =>
  Encoding.formM 0x38 0 .stsq f 0 (fun _ _ => rfl) (by decide) (by decide)
theorem Encoding.prf (f : MForm) : Encoding.Statement (.prf f) := fun _ =>
  Encoding.formM 0x39 0 .prf f 0 (fun _ _ => rfl) (by decide) (by decide)
theorem Encoding.cpy (f : RForm) : Encoding.Statement (.cpy f) := fun _ =>
  Encoding.formR 0x3A 0 .cpy f 0 (fun _ _ => rfl) (by decide) (by decide)
theorem Encoding.cpym (f : LForm) : Encoding.Statement (.cpym f) := fun _ =>
  Encoding.formL 0x3B 0 .cpym f (fun _ _ => rfl) (by decide) (by decide)
theorem Encoding.apd (f : MForm) : Encoding.Statement (.apd f) := fun _ =>
  Encoding.formM 0x3C 0 .apd f 0 (fun _ _ => rfl) (by decide) (by decide)
theorem Encoding.apdRel (f : MForm) : Encoding.Statement (.apdRel f) := fun _ =>
  Encoding.formM 0x3C 1 .apdRel f 0 (fun _ _ => rfl) (by decide) (by decide)
theorem Encoding.seal (f : RForm) : Encoding.Statement (.seal f) := fun _ =>
  Encoding.formR 0x3D 0 .seal f 0 (fun _ _ => rfl) (by decide) (by decide)
theorem Encoding.qreset (f : RForm) : Encoding.Statement (.qreset f) := fun _ =>
  Encoding.formR 0x3E 0 .qreset f 0 (fun _ _ => rfl) (by decide) (by decide)
theorem Encoding.amoadd (f : MForm) : Encoding.Statement (.amoadd f) := fun _ =>
  Encoding.formM 0x50 0 .amoadd f 0 (fun _ _ => rfl) (by decide) (by decide)
theorem Encoding.amomin (f : MForm) : Encoding.Statement (.amomin f) := fun _ =>
  Encoding.formM 0x50 1 .amomin f 0 (fun _ _ => rfl) (by decide) (by decide)
theorem Encoding.amomax (f : MForm) : Encoding.Statement (.amomax f) := fun _ =>
  Encoding.formM 0x50 2 .amomax f 0 (fun _ _ => rfl) (by decide) (by decide)
theorem Encoding.amoand (f : MForm) : Encoding.Statement (.amoand f) := fun _ =>
  Encoding.formM 0x50 3 .amoand f 0 (fun _ _ => rfl) (by decide) (by decide)
theorem Encoding.amoor (f : MForm) : Encoding.Statement (.amoor f) := fun _ =>
  Encoding.formM 0x50 4 .amoor f 0 (fun _ _ => rfl) (by decide) (by decide)
theorem Encoding.amoxor (f : MForm) : Encoding.Statement (.amoxor f) := fun _ =>
  Encoding.formM 0x50 5 .amoxor f 0 (fun _ _ => rfl) (by decide) (by decide)
theorem Encoding.amoswp (f : MForm) : Encoding.Statement (.amoswp f) := fun _ =>
  Encoding.formM 0x50 6 .amoswp f 0 (fun _ _ => rfl) (by decide) (by decide)
theorem Encoding.amocas (f : MForm) : Encoding.Statement (.amocas f) := fun _ =>
  Encoding.formM 0x51 0 .amocas f 0 (fun _ _ => rfl) (by decide) (by decide)
theorem Encoding.amofadd (f : MForm) : Encoding.Statement (.amofadd f) := fun _ =>
  Encoding.formM 0x52 0 .amofadd f 0 (fun _ _ => rfl) (by decide) (by decide)
theorem Encoding.fence (f : RForm) : Encoding.Statement (.fence f) := fun _ =>
  Encoding.formR 0x53 0 .fence f 0 (fun _ _ => rfl) (by decide) (by decide)
theorem Encoding.phase (f : IForm) : Encoding.Statement (.phase f) := fun _ =>
  Encoding.formI 0x54 0 .phase f 0 (fun _ _ => rfl) (by decide) (by decide)
theorem Encoding.phaseSplit (f : IForm) : Encoding.Statement (.phaseSplit f) := fun _ =>
  Encoding.formI 0x54 1 .phaseSplit f 0 (fun _ _ => rfl) (by decide) (by decide)
theorem Encoding.phaseJoin (f : IForm) : Encoding.Statement (.phaseJoin f) := fun _ =>
  Encoding.formI 0x54 2 .phaseJoin f 0 (fun _ _ => rfl) (by decide) (by decide)
theorem Encoding.bara (f : IForm) : Encoding.Statement (.bara f) := fun _ =>
  Encoding.formI 0x55 0 .bara f 0 (fun _ _ => rfl) (by decide) (by decide)
theorem Encoding.barw (f : IForm) : Encoding.Statement (.barw f) := fun _ =>
  Encoding.formI 0x55 1 .barw f 0 (fun _ _ => rfl) (by decide) (by decide)
theorem Encoding.bar (f : IForm) : Encoding.Statement (.bar f) := fun _ =>
  Encoding.formI 0x55 2 .bar f 0 (fun _ _ => rfl) (by decide) (by decide)
theorem Encoding.waitseqC (f : IForm) : Encoding.Statement (.waitseqC f) := fun _ =>
  Encoding.formI 0x56 0 .waitseqC f 0 (fun _ _ => rfl) (by decide) (by decide)
theorem Encoding.waitseqM (f : IForm) : Encoding.Statement (.waitseqM f) := fun _ =>
  Encoding.formI 0x56 1 .waitseqM f 0 (fun _ _ => rfl) (by decide) (by decide)
theorem Encoding.launch (f : RForm) : Encoding.Statement (.launch f) := fun _ =>
  Encoding.formR 0x57 0 .launch f 0 (fun _ _ => rfl) (by decide) (by decide)
theorem Encoding.donate (f : RForm) : Encoding.Statement (.donate f) := fun _ =>
  Encoding.formR 0x58 0 .donate f 0 (fun _ _ => rfl) (by decide) (by decide)
theorem Encoding.setvl (f : IForm) : Encoding.Statement (.setvl f) := fun _ =>
  Encoding.formI 0x60 0 .setvl f 0 (fun _ _ => rfl) (by decide) (by decide)
theorem Encoding.vlds (f : MForm) : Encoding.Statement (.vlds f) := fun _ =>
  Encoding.formM 0x61 0 .vlds f 0 (fun _ _ => rfl) (by decide) (by decide)
theorem Encoding.vsts (f : MForm) : Encoding.Statement (.vsts f) := fun _ =>
  Encoding.formM 0x62 0 .vsts f 0 (fun _ _ => rfl) (by decide) (by decide)
theorem Encoding.vpop (f : RForm) : Encoding.Statement (.vpop f) := fun _ =>
  Encoding.formR 0x63 0 .vpop f 0 (fun _ _ => rfl) (by decide) (by decide)
theorem Encoding.vpush (f : RForm) : Encoding.Statement (.vpush f) := fun _ =>
  Encoding.formR 0x63 1 .vpush f 0 (fun _ _ => rfl) (by decide) (by decide)
theorem Encoding.vgathc (f : RForm) : Encoding.Statement (.vgathc f) := fun _ =>
  Encoding.formR 0x64 0 .vgathc f 0 (fun _ _ => rfl) (by decide) (by decide)
theorem Encoding.vscatc (f : RForm) : Encoding.Statement (.vscatc f) := fun _ =>
  Encoding.formR 0x64 1 .vscatc f 0 (fun _ _ => rfl) (by decide) (by decide)
theorem Encoding.vadd (f : RForm) : Encoding.Statement (.vadd f) := fun _ =>
  Encoding.formR 0x65 0 .vadd f 0 (fun _ _ => rfl) (by decide) (by decide)
theorem Encoding.vsub (f : RForm) : Encoding.Statement (.vsub f) := fun _ =>
  Encoding.formR 0x65 1 .vsub f 0 (fun _ _ => rfl) (by decide) (by decide)
theorem Encoding.vmul (f : RForm) : Encoding.Statement (.vmul f) := fun _ =>
  Encoding.formR 0x65 2 .vmul f 0 (fun _ _ => rfl) (by decide) (by decide)
theorem Encoding.vdiv (f : RForm) : Encoding.Statement (.vdiv f) := fun _ =>
  Encoding.formR 0x65 3 .vdiv f 0 (fun _ _ => rfl) (by decide) (by decide)
theorem Encoding.vmin (f : RForm) : Encoding.Statement (.vmin f) := fun _ =>
  Encoding.formR 0x65 4 .vmin f 0 (fun _ _ => rfl) (by decide) (by decide)
theorem Encoding.vmax (f : RForm) : Encoding.Statement (.vmax f) := fun _ =>
  Encoding.formR 0x65 5 .vmax f 0 (fun _ _ => rfl) (by decide) (by decide)
theorem Encoding.vfma (f : RForm) : Encoding.Statement (.vfma f) := fun _ =>
  Encoding.formR 0x66 0 .vfma f 0 (fun _ _ => rfl) (by decide) (by decide)
theorem Encoding.vfms (f : RForm) : Encoding.Statement (.vfms f) := fun _ =>
  Encoding.formR 0x66 1 .vfms f 0 (fun _ _ => rfl) (by decide) (by decide)
theorem Encoding.vfnma (f : RForm) : Encoding.Statement (.vfnma f) := fun _ =>
  Encoding.formR 0x66 2 .vfnma f 0 (fun _ _ => rfl) (by decide) (by decide)
theorem Encoding.vabs (f : RForm) : Encoding.Statement (.vabs f) := fun _ =>
  Encoding.formR 0x67 0 .vabs f 0 (fun _ _ => rfl) (by decide) (by decide)
theorem Encoding.vneg (f : RForm) : Encoding.Statement (.vneg f) := fun _ =>
  Encoding.formR 0x67 1 .vneg f 0 (fun _ _ => rfl) (by decide) (by decide)
theorem Encoding.vsqrt (f : RForm) : Encoding.Statement (.vsqrt f) := fun _ =>
  Encoding.formR 0x67 2 .vsqrt f 0 (fun _ _ => rfl) (by decide) (by decide)
theorem Encoding.vrcpe (f : RForm) : Encoding.Statement (.vrcpe f) := fun _ =>
  Encoding.formR 0x67 3 .vrcpe f 0 (fun _ _ => rfl) (by decide) (by decide)
theorem Encoding.vrsqrte (f : RForm) : Encoding.Statement (.vrsqrte f) := fun _ =>
  Encoding.formR 0x67 4 .vrsqrte f 0 (fun _ _ => rfl) (by decide) (by decide)
theorem Encoding.vexp2 (f : RForm) : Encoding.Statement (.vexp2 f) := fun _ =>
  Encoding.formR 0x67 5 .vexp2 f 0 (fun _ _ => rfl) (by decide) (by decide)
theorem Encoding.vlog2 (f : RForm) : Encoding.Statement (.vlog2 f) := fun _ =>
  Encoding.formR 0x67 6 .vlog2 f 0 (fun _ _ => rfl) (by decide) (by decide)
theorem Encoding.vcmp (k : VCc) (f : RForm) : Encoding.Statement (.vcmp k f) := fun _ =>
  Encoding.formR 0x68 k.x (.vcmp k) f 0 (fun _ _ => by cases k <;> rfl) (by decide) (by cases k <;> decide)
theorem Encoding.vpopc (f : RForm) : Encoding.Statement (.vpopc f) := fun _ =>
  Encoding.formR 0x6E 5 .vpopc f 0 (fun _ _ => rfl) (by decide) (by decide)
theorem Encoding.vsel (f : RForm) : Encoding.Statement (.vsel f) := fun _ =>
  Encoding.formR 0x69 0 .vsel f 0 (fun _ _ => rfl) (by decide) (by decide)
theorem Encoding.vmov (f : RForm) : Encoding.Statement (.vmov f) := fun _ =>
  Encoding.formR 0x69 1 .vmov f 0 (fun _ _ => rfl) (by decide) (by decide)
theorem Encoding.vbcast (f : RForm) : Encoding.Statement (.vbcast f) := fun _ =>
  Encoding.formR 0x69 2 .vbcast f 0 (fun _ _ => rfl) (by decide) (by decide)
theorem Encoding.vins (f : RForm) : Encoding.Statement (.vins f) := fun _ =>
  Encoding.formR 0x69 3 .vins f 0 (fun _ _ => rfl) (by decide) (by decide)
theorem Encoding.vext (f : RForm) : Encoding.Statement (.vext f) := fun _ =>
  Encoding.formR 0x69 4 .vext f 0 (fun _ _ => rfl) (by decide) (by decide)
theorem Encoding.vid (f : RForm) : Encoding.Statement (.vid f) := fun _ =>
  Encoding.formR 0x69 5 .vid f 0 (fun _ _ => rfl) (by decide) (by decide)
theorem Encoding.viadd (f : RForm) : Encoding.Statement (.viadd f) := fun _ =>
  Encoding.formR 0x6D 0 .viadd f 0 (fun _ _ => rfl) (by decide) (by decide)
theorem Encoding.visub (f : RForm) : Encoding.Statement (.visub f) := fun _ =>
  Encoding.formR 0x6D 1 .visub f 0 (fun _ _ => rfl) (by decide) (by decide)
theorem Encoding.vimul (f : RForm) : Encoding.Statement (.vimul f) := fun _ =>
  Encoding.formR 0x6D 2 .vimul f 0 (fun _ _ => rfl) (by decide) (by decide)
theorem Encoding.viand (f : RForm) : Encoding.Statement (.viand f) := fun _ =>
  Encoding.formR 0x6D 3 .viand f 0 (fun _ _ => rfl) (by decide) (by decide)
theorem Encoding.vior (f : RForm) : Encoding.Statement (.vior f) := fun _ =>
  Encoding.formR 0x6D 4 .vior f 0 (fun _ _ => rfl) (by decide) (by decide)
theorem Encoding.vixor (f : RForm) : Encoding.Statement (.vixor f) := fun _ =>
  Encoding.formR 0x6D 5 .vixor f 0 (fun _ _ => rfl) (by decide) (by decide)
theorem Encoding.vishl (f : RForm) : Encoding.Statement (.vishl f) := fun _ =>
  Encoding.formR 0x6D 6 .vishl f 0 (fun _ _ => rfl) (by decide) (by decide)
theorem Encoding.vishr (f : RForm) : Encoding.Statement (.vishr f) := fun _ =>
  Encoding.formR 0x6D 7 .vishr f 0 (fun _ _ => rfl) (by decide) (by decide)
theorem Encoding.vslide1up (f : RForm) : Encoding.Statement (.vslide1up f) := fun _ =>
  Encoding.formR 0x6A 0 .vslide1up f 0 (fun _ _ => rfl) (by decide) (by decide)
theorem Encoding.vslide1dn (f : RForm) : Encoding.Statement (.vslide1dn f) := fun _ =>
  Encoding.formR 0x6A 1 .vslide1dn f 0 (fun _ _ => rfl) (by decide) (by decide)
theorem Encoding.vslideup (f : RForm) : Encoding.Statement (.vslideup f) := fun _ =>
  Encoding.formR 0x6A 2 .vslideup f 0 (fun _ _ => rfl) (by decide) (by decide)
theorem Encoding.vslidedn (f : RForm) : Encoding.Statement (.vslidedn f) := fun _ =>
  Encoding.formR 0x6A 3 .vslidedn f 0 (fun _ _ => rfl) (by decide) (by decide)
theorem Encoding.vperm (f : RForm) : Encoding.Statement (.vperm f) := fun _ =>
  Encoding.formR 0x6B 0 .vperm f 0 (fun _ _ => rfl) (by decide) (by decide)
theorem Encoding.vcmprs (f : RForm) : Encoding.Statement (.vcmprs f) := fun _ =>
  Encoding.formR 0x6B 1 .vcmprs f 0 (fun _ _ => rfl) (by decide) (by decide)
theorem Encoding.vexpnd (f : RForm) : Encoding.Statement (.vexpnd f) := fun _ =>
  Encoding.formR 0x6B 2 .vexpnd f 0 (fun _ _ => rfl) (by decide) (by decide)
theorem Encoding.vredsumO (f : RForm) : Encoding.Statement (.vredsumO f) := fun _ =>
  Encoding.formR 0x6C 0 .vredsumO f 0 (fun _ _ => rfl) (by decide) (by decide)
theorem Encoding.vredsumT (f : RForm) : Encoding.Statement (.vredsumT f) := fun _ =>
  Encoding.formR 0x6C 1 .vredsumT f 0 (fun _ _ => rfl) (by decide) (by decide)
theorem Encoding.vredmax (f : RForm) : Encoding.Statement (.vredmax f) := fun _ =>
  Encoding.formR 0x6C 2 .vredmax f 0 (fun _ _ => rfl) (by decide) (by decide)
theorem Encoding.vredmin (f : RForm) : Encoding.Statement (.vredmin f) := fun _ =>
  Encoding.formR 0x6C 3 .vredmin f 0 (fun _ _ => rfl) (by decide) (by decide)
theorem Encoding.vcvt (f : RForm) : Encoding.Statement (.vcvt f) := fun _ =>
  Encoding.formR 0x6E 0 .vcvt f 0 (fun _ _ => rfl) (by decide) (by decide)
theorem Encoding.vretag (f : RForm) : Encoding.Statement (.vretag f) := fun _ =>
  Encoding.formR 0x6E 1 .vretag f 0 (fun _ _ => rfl) (by decide) (by decide)
theorem Encoding.vscale (f : RForm) : Encoding.Statement (.vscale f) := fun _ =>
  Encoding.formR 0x6E 2 .vscale f 0 (fun _ _ => rfl) (by decide) (by decide)
theorem Encoding.vqnt (f : RForm) : Encoding.Statement (.vqnt f) := fun _ =>
  Encoding.formR 0x6E 3 .vqnt f 0 (fun _ _ => rfl) (by decide) (by decide)
theorem Encoding.vdeq (f : RForm) : Encoding.Statement (.vdeq f) := fun _ =>
  Encoding.formR 0x6E 4 .vdeq f 0 (fun _ _ => rfl) (by decide) (by decide)
theorem Encoding.tget (f : RForm) : Encoding.Statement (.tget f) := fun _ =>
  Encoding.formR 0xB0 0 .tget f 0 (fun _ _ => rfl) (by decide) (by decide)
theorem Encoding.tset (f : RForm) : Encoding.Statement (.tset f) := fun _ =>
  Encoding.formR 0xB0 1 .tset f 0 (fun _ _ => rfl) (by decide) (by decide)
theorem Encoding.latw (f : RForm) : Encoding.Statement (.latw f) := fun _ =>
  Encoding.formR 0xB1 0 .latw f 0 (fun _ _ => rfl) (by decide) (by decide)
theorem Encoding.latr (f : RForm) : Encoding.Statement (.latr f) := fun _ =>
  Encoding.formR 0xB1 1 .latr f 0 (fun _ _ => rfl) (by decide) (by decide)
theorem Encoding.cbload (f : RForm) : Encoding.Statement (.cbload f) := fun _ =>
  Encoding.formR 0xB2 0 .cbload f 0 (fun _ _ => rfl) (by decide) (by decide)
theorem Encoding.mzero (f : RForm) : Encoding.Statement (.mzero f) := fun _ =>
  Encoding.formR 0xA0 0 .mzero f 0 (fun _ _ => rfl) (by decide) (by decide)
theorem Encoding.mma (f : RForm) : Encoding.Statement (.mma f) := fun _ =>
  Encoding.formR 0xA1 0 .mma f 0 (fun _ _ => rfl) (by decide) (by decide)
theorem Encoding.mmaG (f : RForm) : Encoding.Statement (.mmaG f) := fun _ =>
  Encoding.formR 0xA1 1 .mmaG f 0 (fun _ _ => rfl) (by decide) (by decide)
theorem Encoding.mmag (f : RForm) : Encoding.Statement (.mmag f) := fun _ =>
  Encoding.formR 0xA2 0 .mmag f 0 (fun _ _ => rfl) (by decide) (by decide)
theorem Encoding.mmagG (f : RForm) : Encoding.Statement (.mmagG f) := fun _ =>
  Encoding.formR 0xA2 1 .mmagG f 0 (fun _ _ => rfl) (by decide) (by decide)
theorem Encoding.mst (f : RForm) : Encoding.Statement (.mst f) := fun _ =>
  Encoding.formR 0xA3 0 .mst f 0 (fun _ _ => rfl) (by decide) (by decide)
theorem Encoding.mldacc (f : RForm) : Encoding.Statement (.mldacc f) := fun _ =>
  Encoding.formR 0xA4 0 .mldacc f 0 (fun _ _ => rfl) (by decide) (by decide)
theorem Encoding.macc (f : RForm) : Encoding.Statement (.macc f) := fun _ =>
  Encoding.formR 0xA5 0 .macc f 0 (fun _ _ => rfl) (by decide) (by decide)
theorem Encoding.madd (f : RForm) : Encoding.Statement (.madd f) := fun _ =>
  Encoding.formR 0xA6 0 .madd f 0 (fun _ _ => rfl) (by decide) (by decide)
theorem Encoding.mwait (f : RForm) : Encoding.Statement (.mwait f) := fun _ =>
  Encoding.formR 0xA7 0 .mwait f 0 (fun _ _ => rfl) (by decide) (by decide)
theorem Encoding.mstat (f : RForm) : Encoding.Statement (.mstat f) := fun _ =>
  Encoding.formR 0xA8 0 .mstat f 0 (fun _ _ => rfl) (by decide) (by decide)
theorem Encoding.syscall (f : IForm) : Encoding.Statement (.syscall f) := fun _ =>
  Encoding.formI 0xC0 0 .syscall f 0 (fun _ _ => rfl) (by decide) (by decide)
theorem Encoding.bkpt (f : IForm) : Encoding.Statement (.bkpt f) := fun _ =>
  Encoding.formI 0xC0 1 .bkpt f 0 (fun _ _ => rfl) (by decide) (by decide)
theorem Encoding.eret (f : IForm) : Encoding.Statement (.eret f) := fun _ =>
  Encoding.formI 0xC0 2 .eret f 0 (fun _ _ => rfl) (by decide) (by decide)
theorem Encoding.wfe (f : IForm) : Encoding.Statement (.wfe f) := fun _ =>
  Encoding.formI 0xC0 3 .wfe f 0 (fun _ _ => rfl) (by decide) (by decide)
theorem Encoding.tlbinv (f : RForm) : Encoding.Statement (.tlbinv f) := fun _ =>
  Encoding.formR 0xC1 0 .tlbinv f 0 (fun _ _ => rfl) (by decide) (by decide)
theorem Encoding.sealfree (f : RForm) : Encoding.Statement (.sealfree f) := fun _ =>
  Encoding.formR 0xC1 1 .sealfree f 0 (fun _ _ => rfl) (by decide) (by decide)
theorem Encoding.loadDataArrival (core n : Nat) (late : Bool) : Encoding.Statement (.loadDataArrival core n late) := fun h => Bool.noConfusion h
theorem Encoding.gatherComplete (core n : Nat) : Encoding.Statement (.gatherComplete core n) := fun h => Bool.noConfusion h
theorem Encoding.scatterElementApply (core member : Nat) : Encoding.Statement (.scatterElementApply core member) := fun h => Bool.noConfusion h
theorem Encoding.maccRowWrite (core n : Nat) : Encoding.Statement (.maccRowWrite core n) := fun h => Bool.noConfusion h
theorem Encoding.cbloadComplete (core slot : Nat) : Encoding.Statement (.cbloadComplete core slot) := fun h => Bool.noConfusion h
theorem Encoding.streamSlotLine (core slot : Nat) : Encoding.Statement (.streamSlotLine core slot) := fun h => Bool.noConfusion h
theorem Encoding.stqHomeWrite (write : Nat) : Encoding.Statement (.stqHomeWrite write) := fun h => Bool.noConfusion h
theorem Encoding.appendLineWrite (write : Nat) : Encoding.Statement (.appendLineWrite write) := fun h => Bool.noConfusion h
theorem Encoding.copyBeatGroup (core : Nat) : Encoding.Statement (.copyBeatGroup core) := fun h => Bool.noConfusion h
theorem Encoding.matrixKStep (core : Nat) (residues : List Nat) : Encoding.Statement (.matrixKStep core residues) := fun h => Bool.noConfusion h
theorem Encoding.engineMzero (core : Nat) : Encoding.Statement (.engineMzero core) := fun h => Bool.noConfusion h
theorem Encoding.engineMst (core : Nat) : Encoding.Statement (.engineMst core) := fun h => Bool.noConfusion h
theorem Encoding.engineMldacc (core : Nat) : Encoding.Statement (.engineMldacc core) := fun h => Bool.noConfusion h
theorem Encoding.engineMadd (core : Nat) : Encoding.Statement (.engineMadd core) := fun h => Bool.noConfusion h
theorem Encoding.engineFaultDelivery (core : Nat) (strm : StreamId) : Encoding.Statement (.engineFaultDelivery core strm) := fun h => Bool.noConfusion h
theorem Encoding.faultRecordWrite (guest : Nat) : Encoding.Statement (.faultRecordWrite guest) := fun h => Bool.noConfusion h
theorem Encoding.violationRecordWrite : Encoding.Statement .violationRecordWrite := fun h => Bool.noConfusion h
theorem Encoding.frespRetry (guest seq : Nat) : Encoding.Statement (.frespRetry guest seq) := fun h => Bool.noConfusion h
theorem Encoding.frespAbort (guest seq : Nat) : Encoding.Statement (.frespAbort guest seq) := fun h => Bool.noConfusion h
theorem Encoding.frzrespResume (seq : Nat) : Encoding.Statement (.frzrespResume seq) := fun h => Bool.noConfusion h
theorem Encoding.frzrespTrap (seq : Nat) : Encoding.Statement (.frzrespTrap seq) := fun h => Bool.noConfusion h
theorem Encoding.frzrespDiscard (seq : Nat) : Encoding.Statement (.frzrespDiscard seq) := fun h => Bool.noConfusion h
theorem Encoding.queueCycle (core : Nat) : Encoding.Statement (.queueCycle core) := fun h => Bool.noConfusion h
theorem Encoding.wfeTimeout (core : Nat) (strm : StreamId) : Encoding.Statement (.wfeTimeout core strm) := fun h => Bool.noConfusion h
theorem Encoding.memberArrival (core : Nat) : Encoding.Statement (.memberArrival core) := fun h => Bool.noConfusion h
theorem Encoding.coreWorkEnd (core : Nat) : Encoding.Statement (.coreWorkEnd core) := fun h => Bool.noConfusion h
theorem Encoding.porterEvaluation (guest : Nat) : Encoding.Statement (.porterEvaluation guest) := fun h => Bool.noConfusion h
theorem Encoding.agePriorityChange (guest queue : Nat) : Encoding.Statement (.agePriorityChange guest queue) := fun h => Bool.noConfusion h
theorem Encoding.headReserving (guest queue : Nat) : Encoding.Statement (.headReserving guest queue) := fun h => Bool.noConfusion h
theorem Encoding.lqpost (guest queue : Nat) (whole : Bool) (data : LineBits) : Encoding.Statement (.lqpost guest queue whole data) := fun h => Bool.noConfusion h
theorem Encoding.lqctlWrite (guest queue : Nat) (value : Word) : Encoding.Statement (.lqctlWrite guest queue value) := fun h => Bool.noConfusion h
theorem Encoding.lqstatWrite (guest queue : Nat) (value : Word) : Encoding.Statement (.lqstatWrite guest queue value) := fun h => Bool.noConfusion h
theorem Encoding.fullerRecordTake (guest stack : Nat) : Encoding.Statement (.fullerRecordTake guest stack) := fun h => Bool.noConfusion h
theorem Encoding.fullerLineRecode (guest stack : Nat) : Encoding.Statement (.fullerLineRecode guest stack) := fun h => Bool.noConfusion h
theorem Encoding.granuleCreditGrant (core : Nat) : Encoding.Statement (.granuleCreditGrant core) := fun h => Bool.noConfusion h
theorem Encoding.replicaShootdownDone (guest gva : Nat) : Encoding.Statement (.replicaShootdownDone guest gva) := fun h => Bool.noConfusion h
theorem Encoding.slotStop : Encoding.Statement .slotStop := fun h => Bool.noConfusion h
theorem Encoding.contextSave (core : Nat) : Encoding.Statement (.contextSave core) := fun h => Bool.noConfusion h
theorem Encoding.contextClear (core : Nat) : Encoding.Statement (.contextClear core) := fun h => Bool.noConfusion h
theorem Encoding.slotRestore : Encoding.Statement .slotRestore := fun h => Bool.noConfusion h
theorem Encoding.ttctlCommit (value : Word) : Encoding.Statement (.ttctlCommit value) := fun h => Bool.noConfusion h
theorem Encoding.timetableValidation : Encoding.Statement .timetableValidation := fun h => Bool.noConfusion h
theorem Encoding.guestEnable (guest : Nat) : Encoding.Statement (.guestEnable guest) := fun h => Bool.noConfusion h
theorem Encoding.guestDisable (guest : Nat) : Encoding.Statement (.guestDisable guest) := fun h => Bool.noConfusion h
theorem Encoding.gbaseGboundWrite (guest : Nat) (isBound : Bool) (value : Word) : Encoding.Statement (.gbaseGboundWrite guest isBound value) := fun h => Bool.noConfusion h
theorem Encoding.coalescePeriodEnd (guest : Nat) : Encoding.Statement (.coalescePeriodEnd guest) := fun h => Bool.noConfusion h
theorem Encoding.pmovhiRead (guest : Nat) : Encoding.Statement (.pmovhiRead guest) := fun h => Bool.noConfusion h
theorem Encoding.dbgdataWrite (value : Word) : Encoding.Statement (.dbgdataWrite value) := fun h => Bool.noConfusion h
theorem Encoding.dbgdataRead : Encoding.Statement .dbgdataRead := fun h => Bool.noConfusion h
theorem Encoding.dataApertureAccess (guest : Nat) (req : ApertureReq) : Encoding.Statement (.dataApertureAccess guest req) := fun h => Bool.noConfusion h
theorem Encoding.tagApertureAccess (guest : Nat) (req : ApertureReq) : Encoding.Statement (.tagApertureAccess guest req) := fun h => Bool.noConfusion h
theorem Encoding.hdmAccess (req : ApertureReq) : Encoding.Statement (.hdmAccess req) := fun h => Bool.noConfusion h
theorem Encoding.peerRequest (req : PeerReq) : Encoding.Statement (.peerRequest req) := fun h => Bool.noConfusion h
theorem Encoding.flitReceive (link : Nat) (flit : Flit) : Encoding.Statement (.flitReceive link flit) := fun h => Bool.noConfusion h
theorem Encoding.llcBankRetire (stack layer bank : Nat) : Encoding.Statement (.llcBankRetire stack layer bank) := fun h => Bool.noConfusion h
theorem Encoding.hbmRowRemap (hbmStack row : Nat) (lost : List Nat) (spare : Bool) : Encoding.Statement (.hbmRowRemap hbmStack row lost spare) := fun h => Bool.noConfusion h
theorem Encoding.linkNarrow (link : Nat) (badLanes : Nat) : Encoding.Statement (.linkNarrow link badLanes) := fun h => Bool.noConfusion h
theorem Encoding.mctpRequest (req : MctpReq) : Encoding.Statement (.mctpRequest req) := fun h => Bool.noConfusion h
theorem Encoding.pwrctlWrite (value : Word) : Encoding.Statement (.pwrctlWrite value) := fun h => Bool.noConfusion h
theorem Encoding.powerOn : Encoding.Statement .powerOn := fun h => Bool.noConfusion h
theorem Encoding.powerOff : Encoding.Statement .powerOff := fun h => Bool.noConfusion h
theorem Encoding.mcctlLoad (value : Word) : Encoding.Statement (.mcctlLoad value) := fun h => Bool.noConfusion h
theorem Encoding.microcodeLoadDone : Encoding.Statement .microcodeLoadDone := fun h => Bool.noConfusion h
theorem Encoding.hbmTrain (hbmStack : Nat) : Encoding.Statement (.hbmTrain hbmStack) := fun h => Bool.noConfusion h
theorem Encoding.linkTrain (link gen : Nat) : Encoding.Statement (.linkTrain link gen) := fun h => Bool.noConfusion h
theorem Encoding.selfTest (stack layer bank : Nat) (failing : List Nat) : Encoding.Statement (.selfTest stack layer bank failing) := fun h => Bool.noConfusion h
theorem Encoding.retirementStateWrite (offset : Nat) (value : Word) : Encoding.Statement (.retirementStateWrite offset value) := fun h => Bool.noConfusion h
theorem Encoding.mschedWrite (core unit : Nat) (value : Word) : Encoding.Statement (.mschedWrite core unit value) := fun h => Bool.noConfusion h
theorem Encoding.registerWrite (fn : FnId) (offset : Nat) (value : Word) : Encoding.Statement (.registerWrite fn offset value) := fun h => Bool.noConfusion h
theorem Encoding.homeAnswer (core : Nat) : Encoding.Statement (.homeAnswer core) := fun h => Bool.noConfusion h
theorem Encoding.writeEntersView (write core : Nat) (path : Path) : Encoding.Statement (.writeEntersView write core path) := fun h => Bool.noConfusion h
theorem Encoding.arithmeticClockCycle (core : Nat) : Encoding.Statement (.arithmeticClockCycle core) := fun h => Bool.noConfusion h
theorem Encoding.hostLinkTrain (gen width : Nat) : Encoding.Statement (.hostLinkTrain gen width) := fun h => Bool.noConfusion h
theorem Encoding.thermalLimiting (stack fraction : Nat) : Encoding.Statement (.thermalLimiting stack fraction) := fun h => Bool.noConfusion h

end Sys2Proof.Laws
end

