-- ==== Sys2Proof/Laws/Vector.lean ====
section
/-! SUPPORT. Laws/Vector.lean: the slots of a packed segment, of a merged segment and of a register after the write of a
segment, and loops over segments. -/

namespace Sys2Proof.Machine

/-- The packing of fewer slots than a line has is a number of as many digits. -/
theorem packFold_lt (w : Nat) (l : List Nat) : l.foldr (fun x n => x % 2 ^ w + 2 ^ w * n) 0 < 2 ^ (w * l.length) := by
  induction l with
  | nil => simp
  | cons x r ih =>
    simp only [List.foldr_cons, List.length_cons, Nat.mul_succ, Nat.pow_add]
    have h := Nat.mod_lt x (Nat.two_pow_pos w)
    have h2 : 2 ^ w * (List.foldr (fun x n => x % 2 ^ w + 2 ^ w * n) 0 r + 1) ≤ 2 ^ w * 2 ^ (w * r.length) :=
      Nat.mul_le_mul_left _ ih
    rw [Nat.mul_comm (2 ^ (w * r.length))]
    rw [Nat.mul_succ] at h2
    omega

/-- A digit of a packing. -/
theorem packFold_digit (w : Nat) (l : List Nat) (j : Nat) (h : j < l.length) :
    l.foldr (fun x n => x % 2 ^ w + 2 ^ w * n) 0 / 2 ^ (w * j) % 2 ^ w = l[j] % 2 ^ w := by
  induction l generalizing j with
  | nil => simp at h
  | cons x r ih =>
    have h1 := Nat.mod_lt x (Nat.two_pow_pos w)
    cases j with
    | zero => simp [Nat.add_mul_mod_self_left]
    | succ j =>
      simp only [List.foldr_cons, Nat.mul_succ, List.getElem_cons_succ]
      rw [Nat.add_comm (w * j), Nat.pow_add, ← Nat.div_div_eq_div_mul, Nat.add_mul_div_left _ _ (Nat.two_pow_pos w),
        Nat.div_eq_of_lt h1, Nat.zero_add]
      exact ih j (by simpa using h)

/-- A slot of a packed segment. -/
theorem slotOf_packSlots (w : Nat) (l : List Nat) (j : Nat) (h : j < l.length) (hw : w * l.length ≤ 512) :
    slotOf w (packSlots w l) j = l[j] % 2 ^ w := by
  unfold slotOf packSlots
  rw [BitVec.toNat_ofNat, Nat.mod_eq_of_lt (Nat.lt_of_lt_of_le (packFold_lt w l) (Nat.pow_le_pow_right (by omega) hw))]
  exact packFold_digit w l j h

/-- Slot `i` of a merged segment (R72). -/
theorem slotOf_mergeSegBy {w vl g : Nat} {act : Nat → Bool} {old : Segment} {tag : Tag} {res : Nat → Nat} {j : Nat}
    (hj : j < segSlots w) (hw : w * segSlots w ≤ 512) :
    slotOf w (mergeSegBy w vl act g old tag res).bits j =
      (if act (g * segSlots w + j) then res (g * segSlots w + j)
       else if vl ≤ g * segSlots w + j then 0
       else if old.tag = tag then slotOf w old.bits j
       else 0) % 2 ^ w := by
  unfold mergeSegBy
  rw [slotOf_packSlots _ _ _ (by simpa using hj) (by simpa using hw)]
  simp

@[simp] theorem tag_mergeSegBy (w vl g : Nat) (act : Nat → Bool) (old : Segment) (tag : Tag) (res : Nat → Nat) :
    (mergeSegBy w vl act g old tag res).tag = tag := rfl

/-! ### A register after the write of a segment -/

@[simp] theorem VReg.seg_putSeg (r : VReg) (g : Nat) (x : Segment) : (r.putSeg g x).seg g = x := tabGet_tabPut ..

theorem VReg.seg_putSeg_other (r : VReg) {g h : Nat} (x : Segment) (hne : h ≠ g) : (r.putSeg g x).seg h = r.seg h :=
  tabGet_tabPut_other _ _ _ hne

@[simp] theorem VReg.empty_putSeg (r : VReg) (g : Nat) (x : Segment) : (r.putSeg g x).empty = r.empty := rfl

@[simp] theorem Core.vreg_setVreg (k : Core) (c : Code) (r : VReg) : (k.setVreg c r).vreg c = r := tabGet_tabPut ..

theorem Core.vreg_setVreg_other (k : Core) {c d : Code} (r : VReg) (h : d.toNat - 0x40 ≠ c.toNat - 0x40) :
    (k.setVreg c r).vreg d = k.vreg d := tabGet_tabPut_other _ _ _ h

@[simp] theorem Core.vreg_setVstart (k : Core) (n : Nat) (c : Code) : (k.setVstart n).vreg c = k.vreg c := rfl

@[simp] theorem Core.vreg_note (k : Core) (ev : Nat) (t : Option StreamId) (l : Level) (n : Nat) (c : Code) :
    (k.note ev t l n).vreg c = k.vreg c := by unfold Core.note; split <;> rfl

@[simp] theorem Core.vreg_orFstat (k : Core) (f : BitVec 6) (c : Code) : (k.orFstat f).vreg c = k.vreg c := rfl

/-! ### Loops over segments -/

/-- A loop whose body keeps an invariant answers, and the invariant holds at its end. -/
theorem forM_ok {α : Type} {body : α → Exec Unit} (P : List α → State → Prop) {l : List α}
    (hstep : ∀ x r s, P (x :: r) s → ∃ t, body x s = .ok () t ∧ P r t) {s : State} (h : P l s) :
    ∃ t, l.forM body s = .ok () t ∧ P [] t := by
  induction l generalizing s with
  | nil => exact ⟨s, rfl, h⟩
  | cons x r ih =>
    obtain ⟨t, h1, h2⟩ := hstep x r s h
    obtain ⟨u, h3, h4⟩ := ih h2
    refine ⟨u, ?_, h4⟩
    rw [List.forM_eq_forM] at h3 ⊢
    rw [List.forM_cons, exec_bind_ok h1]
    exact h3

/-- A loop whose body changes nothing changes nothing. -/
theorem forM_same {α : Type} {body : α → Exec Unit} {l : List α} {s : State} (h : ∀ x ∈ l, body x s = .ok () s) :
    l.forM body s = .ok () s := by
  induction l with
  | nil => rfl
  | cons x r ih =>
    have h2 := ih (fun y hy => h y (List.mem_cons_of_mem _ hy))
    rw [List.forM_eq_forM] at h2 ⊢
    rw [List.forM_cons, exec_bind_ok (h x List.mem_cons_self)]
    exact h2

/-- A segment that passes its parity check (R356). -/
theorem laneCheck_ok {s : State} {g : Nat} {c : Code} (h : g ∉ (s.cur.vreg c).badParity) : laneCheck g c s = .ok () s := by
  unfold laneCheck
  rw [exec_bind_ok (exec_get s)]
  simp only [if_neg h]
  rfl

/-- A stream that makes no matches passes every tag watch (R346). -/
theorem watchSeg_ok {s0 s : State} {g : Nat} {c : Code} (h : s0.strm.matching = false) : watchSeg s0 g c s = .ok () s := by
  unfold watchSeg watchTag
  rw [exec_bind_ok (exec_get s0)]
  simp [h, exec_pure]

/-- The sources of a segment that all pass their parity checks, in a stream that makes no matches (R346, R356). -/
theorem readSegs_ok {s0 s : State} {cs : List Code} {g : Nat} (hm : s0.strm.matching = false)
    (h : ∀ c ∈ cs, g ∉ (s.cur.vreg c).badParity) : readSegs s0 cs g s = .ok () s := by
  have h1 := forM_same (body := laneCheck g) (l := cs) (s := s) (fun c hc => laneCheck_ok (h c hc))
  have h2 := forM_same (body := watchSeg s0 g) (l := cs) (s := s) (fun _ _ => watchSeg_ok hm)
  unfold readSegs
  rw [exec_bind_ok h1]
  exact h2

/-- What a segment does when its checks pass. -/
theorem inSegment_ok {g : Nat} {body : Exec Unit} {s t : State} (h : body s = .ok () t) : inSegment g body s = .ok () t := by
  unfold inSegment
  rw [h]

/-- Outside a drain every part of an instruction runs (R123). -/
theorem stopBetween_ok {α : Type} {l : List α} {body : α → Exec Unit} {s : State} (h : s.cut = none) :
    stopBetween l body s = l.forM body s := by
  unfold stopBetween
  rw [exec_bind_ok (exec_get s)]
  simp [h]

/-- What the write of a segment under VSTART, VL and a mask does (R72). -/
theorem writeSlots_ok (mk : Option VReg) (g : Nat) (d : Code) (tag : Tag) (res : Nat → Nat) (s : State) :
    writeSlots mk g d tag res s = .ok () (s.modCur (fun c =>
      ((if (activeIn c.vec mk g).isEmpty then c.note 4 (some .x) .u (activeIn c.vec mk g).length
        else (c.note 4 (some .x) .u (activeIn c.vec mk g).length).setVreg d
          ((c.vreg d).putSeg g (mergeSeg c.vec mk g ((c.vreg d).seg g) tag res)))).setVstart
        ((g + 1) * segSlots c.vec.w))) := by
  simp only [writeSlots, exec_modify, Core.vreg_note]

end Sys2Proof.Machine
end

