-- ==== Sys2Proof/Tests/Slice0.lean ====
section
/-! SUPPORT. Tests/Slice0.lean: words written out from the encodings of the spec, ill-formed terms that the checks refuse, single
steps, and for each statement with hypotheses a state and operands that meet them. -/

set_option linter.unusedSimpArgs false
set_option Elab.async false

namespace Sys2Proof.Tests

open Sys2Proof Sys2Proof.Machine

/-! ### Words (R33 to R45): every field holds a value of its own -/

/-- Predicate 5, negated; D, A, B, C 0x12, 0x34, 0x56, 0x78; E bits 1, 0, 1; M 0x0ABC. -/
abbrev formR : RForm := ⟨⟨5, true⟩, 0x12, 0x34, 0x56, 0x78, true, false, true, 0x0ABC⟩
/-- The same header, D and A; E bit 1; a 31-bit immediate. -/
abbrev formI : IForm := ⟨⟨5, true⟩, 0x12, 0x34, true, 0x2BCDEF12⟩
/-- As form I, with a second word. -/
abbrev formL : LForm := ⟨⟨5, true⟩, 0x12, 0x34, true, 0x2BCDEF12, 0x0123456789ABCDEF⟩
/-- D, a 40-bit offset, and T, CNT and zero field of the second word. -/
abbrev formJ : JForm := ⟨⟨5, true⟩, 0x12, 0x3456789ABC, 0x21, 0x43, 0x6587A9CBED0F⟩
/-- D, A, B, a displacement, E bits 1 and 0, PI 2, SC 1, OR 2. -/
abbrev formM : MForm := ⟨⟨5, true⟩, 0x12, 0x34, 0x56, 0x789A, true, false, 2, 1, 2⟩

theorem test_words_01 :
  decodeWords 0x015812345678AABC 0 = some (.add formR) ∧
  decodeWords 0x015912345678AABC 0 = some (.sub formR) ∧
  decodeWords 0x015A12345678AABC 0 = some (.mul formR) ∧
  decodeWords 0x015B12345678AABC 0 = some (.mulh formR) ∧
  decodeWords 0x015C12345678AABC 0 = some (.mulhs formR) := by decide

theorem test_words_02 :
  decodeWords 0x025812345678AABC 0 = some (.div formR) ∧
  decodeWords 0x025912345678AABC 0 = some (.divs formR) ∧
  decodeWords 0x025A12345678AABC 0 = some (.rem formR) ∧
  decodeWords 0x025B12345678AABC 0 = some (.rems formR) := by decide

theorem test_words_03 :
  decodeWords 0x035812345678AABC 0 = some (.andr formR) ∧
  decodeWords 0x035912345678AABC 0 = some (.orr formR) ∧
  decodeWords 0x035A12345678AABC 0 = some (.xorr formR) ∧
  decodeWords 0x035B12345678AABC 0 = some (.andn formR) ∧
  decodeWords 0x035C12345678AABC 0 = some (.orn formR) := by decide

theorem test_words_04 :
  decodeWords 0x045812345678AABC 0 = some (.shl formR) ∧
  decodeWords 0x045912345678AABC 0 = some (.shr formR) ∧
  decodeWords 0x045A12345678AABC 0 = some (.sra formR) ∧
  decodeWords 0x045B12345678AABC 0 = some (.rol formR) := by decide

theorem test_words_05 :
  decodeWords 0x055812345678AABC 0 = some (.min formR) ∧
  decodeWords 0x055912345678AABC 0 = some (.max formR) ∧
  decodeWords 0x055A12345678AABC 0 = some (.mins formR) ∧
  decodeWords 0x055B12345678AABC 0 = some (.maxs formR) := by decide

theorem test_words_06 :
  decodeWords 0x065812345678AABC 0 = some (.clz formR) ∧
  decodeWords 0x065912345678AABC 0 = some (.ctz formR) ∧
  decodeWords 0x065A12345678AABC 0 = some (.popc formR) ∧
  decodeWords 0x065B12345678AABC 0 = some (.sext formR) ∧
  decodeWords 0x065C12345678AABC 0 = some (.zext formR) := by decide

theorem test_words_07 :
  decodeWords 0x075812345678AABC 0 = some (.bfx formR) ∧
  decodeWords 0x075912345678AABC 0 = some (.bfi formR) := by decide

theorem test_words_08 :
  decodeWords 0x085812345678AABC 0 = some (.mov formR) ∧
  decodeWords 0x085912345678AABC 0 = some (.sel formR) ∧
  decodeWords 0x085A12345678AABC 0 = some (.addx formR) := by decide

theorem test_words_09 :
  decodeWords 0x095812345678AABC 0 = some (.cmp .eq formR) ∧
  decodeWords 0x095912345678AABC 0 = some (.cmp .ne formR) ∧
  decodeWords 0x095A12345678AABC 0 = some (.cmp .lt formR) ∧
  decodeWords 0x095B12345678AABC 0 = some (.cmp .ge formR) ∧
  decodeWords 0x095C12345678AABC 0 = some (.cmp .ltu formR) ∧
  decodeWords 0x095D12345678AABC 0 = some (.cmp .geu formR) ∧
  decodeWords 0x095E12345678AABC 0 = some (.cmp .gt formR) ∧
  decodeWords 0x095F12345678AABC 0 = some (.cmp .le formR) := by decide

theorem test_words_0A :
  decodeWords 0x0A581234ABCDEF12 0 = some (.addi formI) := by decide

theorem test_words_0B :
  decodeWords 0x0B581234ABCDEF12 0 = some (.cmpi .eq formI) ∧
  decodeWords 0x0B591234ABCDEF12 0 = some (.cmpi .ne formI) ∧
  decodeWords 0x0B5A1234ABCDEF12 0 = some (.cmpi .lt formI) ∧
  decodeWords 0x0B5B1234ABCDEF12 0 = some (.cmpi .ge formI) ∧
  decodeWords 0x0B5C1234ABCDEF12 0 = some (.cmpi .ltu formI) ∧
  decodeWords 0x0B5D1234ABCDEF12 0 = some (.cmpi .geu formI) ∧
  decodeWords 0x0B5E1234ABCDEF12 0 = some (.cmpi .gt formI) ∧
  decodeWords 0x0B5F1234ABCDEF12 0 = some (.cmpi .le formI) := by decide

theorem test_words_0C :
  decodeWords 0x0C581234ABCDEF12 0 = some (.li formI) := by decide

theorem test_words_0D :
  decodeWords 0x0D581234ABCDEF12 0x0123456789ABCDEF = some (.liw formL) := by decide

theorem test_words_0E :
  decodeWords 0x0E5812345678AABC 0 = some (.pand formR) ∧
  decodeWords 0x0E5912345678AABC 0 = some (.por formR) ∧
  decodeWords 0x0E5A12345678AABC 0 = some (.pxor formR) ∧
  decodeWords 0x0E5B12345678AABC 0 = some (.pnot formR) ∧
  decodeWords 0x0E5C12345678AABC 0 = some (.pmov formR) := by decide

theorem test_words_10 :
  decodeWords 0x1058123456789ABC 0x21436587A9CBED0F = some (.br formJ) ∧
  decodeWords 0x1059123456789ABC 0x21436587A9CBED0F = some (.jmp formJ) ∧
  decodeWords 0x105A123456789ABC 0x21436587A9CBED0F = some (.call formJ) ∧
  decodeWords 0x105B123456789ABC 0x21436587A9CBED0F = some (.ret formJ) ∧
  decodeWords 0x105C123456789ABC 0x21436587A9CBED0F = some (.loop formJ) := by decide

theorem test_words_11 :
  decodeWords 0x115812345678AABC 0 = some (.rdv formR) ∧
  decodeWords 0x115912345678AABC 0 = some (.endj formR) ∧
  decodeWords 0x115A12345678AABC 0 = some (.nop formR) := by decide

theorem test_words_12 :
  decodeWords 0x12581234ABCDEF12 0 = some (.csrr formI) ∧
  decodeWords 0x12591234ABCDEF12 0 = some (.csrw formI) ∧
  decodeWords 0x125A1234ABCDEF12 0 = some (.csrs formI) ∧
  decodeWords 0x125B1234ABCDEF12 0 = some (.csrc formI) := by decide

theorem test_words_30 :
  decodeWords 0x3058123456789AA6 0 = some (.ld .b formM) ∧
  decodeWords 0x3059123456789AA6 0 = some (.ld .h formM) ∧
  decodeWords 0x305A123456789AA6 0 = some (.ld .w formM) ∧
  decodeWords 0x305B123456789AA6 0 = some (.ld .d formM) ∧
  decodeWords 0x305C123456789AA6 0 = some (.ld .bu formM) ∧
  decodeWords 0x305D123456789AA6 0 = some (.ld .hu formM) ∧
  decodeWords 0x305E123456789AA6 0 = some (.ld .wu formM) := by decide

theorem test_words_31 :
  decodeWords 0x3158123456789AA6 0 = some (.st .b formM) ∧
  decodeWords 0x3159123456789AA6 0 = some (.st .h formM) ∧
  decodeWords 0x315A123456789AA6 0 = some (.st .w formM) ∧
  decodeWords 0x315B123456789AA6 0 = some (.st .d formM) := by decide

theorem test_words_32 :
  decodeWords 0x3258123456789AA6 0 = some (.lds .b formM) ∧
  decodeWords 0x3259123456789AA6 0 = some (.lds .h formM) ∧
  decodeWords 0x325A123456789AA6 0 = some (.lds .w formM) ∧
  decodeWords 0x325B123456789AA6 0 = some (.lds .d formM) ∧
  decodeWords 0x325C123456789AA6 0 = some (.lds .bu formM) ∧
  decodeWords 0x325D123456789AA6 0 = some (.lds .hu formM) ∧
  decodeWords 0x325E123456789AA6 0 = some (.lds .wu formM) := by decide

theorem test_words_33 :
  decodeWords 0x3358123456789AA6 0 = some (.sts .b formM) ∧
  decodeWords 0x3359123456789AA6 0 = some (.sts .h formM) ∧
  decodeWords 0x335A123456789AA6 0 = some (.sts .w formM) ∧
  decodeWords 0x335B123456789AA6 0 = some (.sts .d formM) := by decide

theorem test_words_34 :
  decodeWords 0x3458123456789AA6 0 = some (.ldq formM) := by decide

theorem test_words_35 :
  decodeWords 0x3558123456789AA6 0 = some (.ldqi formM) := by decide

theorem test_words_36 :
  decodeWords 0x3658123456789AA6 0 = some (.stq formM) := by decide

theorem test_words_37 :
  decodeWords 0x3758123456789AA6 0 = some (.ldsq formM) := by decide

theorem test_words_38 :
  decodeWords 0x3858123456789AA6 0 = some (.stsq formM) := by decide

theorem test_words_39 :
  decodeWords 0x3958123456789AA6 0 = some (.prf formM) := by decide

theorem test_words_3A :
  decodeWords 0x3A5812345678AABC 0 = some (.cpy formR) := by decide

theorem test_words_3B :
  decodeWords 0x3B581234ABCDEF12 0x0123456789ABCDEF = some (.cpym formL) := by decide

theorem test_words_3C :
  decodeWords 0x3C58123456789AA6 0 = some (.apd formM) ∧
  decodeWords 0x3C59123456789AA6 0 = some (.apdRel formM) := by decide

theorem test_words_3D :
  decodeWords 0x3D5812345678AABC 0 = some (.seal formR) := by decide

theorem test_words_3E :
  decodeWords 0x3E5812345678AABC 0 = some (.qreset formR) := by decide

theorem test_words_50 :
  decodeWords 0x5058123456789AA6 0 = some (.amoadd formM) ∧
  decodeWords 0x5059123456789AA6 0 = some (.amomin formM) ∧
  decodeWords 0x505A123456789AA6 0 = some (.amomax formM) ∧
  decodeWords 0x505B123456789AA6 0 = some (.amoand formM) ∧
  decodeWords 0x505C123456789AA6 0 = some (.amoor formM) ∧
  decodeWords 0x505D123456789AA6 0 = some (.amoxor formM) ∧
  decodeWords 0x505E123456789AA6 0 = some (.amoswp formM) := by decide

theorem test_words_51 :
  decodeWords 0x5158123456789AA6 0 = some (.amocas formM) := by decide

theorem test_words_52 :
  decodeWords 0x5258123456789AA6 0 = some (.amofadd formM) := by decide

theorem test_words_53 :
  decodeWords 0x535812345678AABC 0 = some (.fence formR) := by decide

theorem test_words_54 :
  decodeWords 0x54581234ABCDEF12 0 = some (.phase formI) ∧
  decodeWords 0x54591234ABCDEF12 0 = some (.phaseSplit formI) ∧
  decodeWords 0x545A1234ABCDEF12 0 = some (.phaseJoin formI) := by decide

theorem test_words_55 :
  decodeWords 0x55581234ABCDEF12 0 = some (.bara formI) ∧
  decodeWords 0x55591234ABCDEF12 0 = some (.barw formI) ∧
  decodeWords 0x555A1234ABCDEF12 0 = some (.bar formI) := by decide

theorem test_words_56 :
  decodeWords 0x56581234ABCDEF12 0 = some (.waitseqC formI) ∧
  decodeWords 0x56591234ABCDEF12 0 = some (.waitseqM formI) := by decide

theorem test_words_57 :
  decodeWords 0x575812345678AABC 0 = some (.launch formR) := by decide

theorem test_words_58 :
  decodeWords 0x585812345678AABC 0 = some (.donate formR) := by decide

theorem test_words_60 :
  decodeWords 0x60581234ABCDEF12 0 = some (.setvl formI) := by decide

theorem test_words_61 :
  decodeWords 0x6158123456789AA6 0 = some (.vlds formM) := by decide

theorem test_words_62 :
  decodeWords 0x6258123456789AA6 0 = some (.vsts formM) := by decide

theorem test_words_63 :
  decodeWords 0x635812345678AABC 0 = some (.vpop formR) ∧
  decodeWords 0x635912345678AABC 0 = some (.vpush formR) := by decide

theorem test_words_64 :
  decodeWords 0x645812345678AABC 0 = some (.vgathc formR) ∧
  decodeWords 0x645912345678AABC 0 = some (.vscatc formR) := by decide

theorem test_words_65 :
  decodeWords 0x655812345678AABC 0 = some (.vadd formR) ∧
  decodeWords 0x655912345678AABC 0 = some (.vsub formR) ∧
  decodeWords 0x655A12345678AABC 0 = some (.vmul formR) ∧
  decodeWords 0x655B12345678AABC 0 = some (.vdiv formR) ∧
  decodeWords 0x655C12345678AABC 0 = some (.vmin formR) ∧
  decodeWords 0x655D12345678AABC 0 = some (.vmax formR) := by decide

theorem test_words_66 :
  decodeWords 0x665812345678AABC 0 = some (.vfma formR) ∧
  decodeWords 0x665912345678AABC 0 = some (.vfms formR) ∧
  decodeWords 0x665A12345678AABC 0 = some (.vfnma formR) := by decide

theorem test_words_67 :
  decodeWords 0x675812345678AABC 0 = some (.vabs formR) ∧
  decodeWords 0x675912345678AABC 0 = some (.vneg formR) ∧
  decodeWords 0x675A12345678AABC 0 = some (.vsqrt formR) ∧
  decodeWords 0x675B12345678AABC 0 = some (.vrcpe formR) ∧
  decodeWords 0x675C12345678AABC 0 = some (.vrsqrte formR) ∧
  decodeWords 0x675D12345678AABC 0 = some (.vexp2 formR) ∧
  decodeWords 0x675E12345678AABC 0 = some (.vlog2 formR) := by decide

theorem test_words_68 :
  decodeWords 0x685812345678AABC 0 = some (.vcmp .eq formR) ∧
  decodeWords 0x685912345678AABC 0 = some (.vcmp .ne formR) ∧
  decodeWords 0x685A12345678AABC 0 = some (.vcmp .lt formR) ∧
  decodeWords 0x685B12345678AABC 0 = some (.vcmp .le formR) ∧
  decodeWords 0x685C12345678AABC 0 = some (.vcmp .gt formR) ∧
  decodeWords 0x685D12345678AABC 0 = some (.vcmp .ge formR) ∧
  decodeWords 0x685E12345678AABC 0 = some (.vcmp .uo formR) := by decide

theorem test_words_69 :
  decodeWords 0x695812345678AABC 0 = some (.vsel formR) ∧
  decodeWords 0x695912345678AABC 0 = some (.vmov formR) ∧
  decodeWords 0x695A12345678AABC 0 = some (.vbcast formR) ∧
  decodeWords 0x695B12345678AABC 0 = some (.vins formR) ∧
  decodeWords 0x695C12345678AABC 0 = some (.vext formR) ∧
  decodeWords 0x695D12345678AABC 0 = some (.vid formR) := by decide

theorem test_words_6A :
  decodeWords 0x6A5812345678AABC 0 = some (.vslide1up formR) ∧
  decodeWords 0x6A5912345678AABC 0 = some (.vslide1dn formR) ∧
  decodeWords 0x6A5A12345678AABC 0 = some (.vslideup formR) ∧
  decodeWords 0x6A5B12345678AABC 0 = some (.vslidedn formR) := by decide

theorem test_words_6B :
  decodeWords 0x6B5812345678AABC 0 = some (.vperm formR) ∧
  decodeWords 0x6B5912345678AABC 0 = some (.vcmprs formR) ∧
  decodeWords 0x6B5A12345678AABC 0 = some (.vexpnd formR) := by decide

theorem test_words_6C :
  decodeWords 0x6C5812345678AABC 0 = some (.vredsumO formR) ∧
  decodeWords 0x6C5912345678AABC 0 = some (.vredsumT formR) ∧
  decodeWords 0x6C5A12345678AABC 0 = some (.vredmax formR) ∧
  decodeWords 0x6C5B12345678AABC 0 = some (.vredmin formR) := by decide

theorem test_words_6D :
  decodeWords 0x6D5812345678AABC 0 = some (.viadd formR) ∧
  decodeWords 0x6D5912345678AABC 0 = some (.visub formR) ∧
  decodeWords 0x6D5A12345678AABC 0 = some (.vimul formR) ∧
  decodeWords 0x6D5B12345678AABC 0 = some (.viand formR) ∧
  decodeWords 0x6D5C12345678AABC 0 = some (.vior formR) ∧
  decodeWords 0x6D5D12345678AABC 0 = some (.vixor formR) ∧
  decodeWords 0x6D5E12345678AABC 0 = some (.vishl formR) ∧
  decodeWords 0x6D5F12345678AABC 0 = some (.vishr formR) := by decide

theorem test_words_6E :
  decodeWords 0x6E5812345678AABC 0 = some (.vcvt formR) ∧
  decodeWords 0x6E5912345678AABC 0 = some (.vretag formR) ∧
  decodeWords 0x6E5A12345678AABC 0 = some (.vscale formR) ∧
  decodeWords 0x6E5B12345678AABC 0 = some (.vqnt formR) ∧
  decodeWords 0x6E5C12345678AABC 0 = some (.vdeq formR) ∧
  decodeWords 0x6E5D12345678AABC 0 = some (.vpopc formR) := by decide

theorem test_words_A0 :
  decodeWords 0xA05812345678AABC 0 = some (.mzero formR) := by decide

theorem test_words_A1 :
  decodeWords 0xA15812345678AABC 0 = some (.mma formR) ∧
  decodeWords 0xA15912345678AABC 0 = some (.mmaG formR) := by decide

theorem test_words_A2 :
  decodeWords 0xA25812345678AABC 0 = some (.mmag formR) ∧
  decodeWords 0xA25912345678AABC 0 = some (.mmagG formR) := by decide

theorem test_words_A3 :
  decodeWords 0xA35812345678AABC 0 = some (.mst formR) := by decide

theorem test_words_A4 :
  decodeWords 0xA45812345678AABC 0 = some (.mldacc formR) := by decide

theorem test_words_A5 :
  decodeWords 0xA55812345678AABC 0 = some (.macc formR) := by decide

theorem test_words_A6 :
  decodeWords 0xA65812345678AABC 0 = some (.madd formR) := by decide

theorem test_words_A7 :
  decodeWords 0xA75812345678AABC 0 = some (.mwait formR) := by decide

theorem test_words_A8 :
  decodeWords 0xA85812345678AABC 0 = some (.mstat formR) := by decide

theorem test_words_B0 :
  decodeWords 0xB05812345678AABC 0 = some (.tget formR) ∧
  decodeWords 0xB05912345678AABC 0 = some (.tset formR) := by decide

theorem test_words_B1 :
  decodeWords 0xB15812345678AABC 0 = some (.latw formR) ∧
  decodeWords 0xB15912345678AABC 0 = some (.latr formR) := by decide

theorem test_words_B2 :
  decodeWords 0xB25812345678AABC 0 = some (.cbload formR) := by decide

theorem test_words_C0 :
  decodeWords 0xC0581234ABCDEF12 0 = some (.syscall formI) ∧
  decodeWords 0xC0591234ABCDEF12 0 = some (.bkpt formI) ∧
  decodeWords 0xC05A1234ABCDEF12 0 = some (.eret formI) ∧
  decodeWords 0xC05B1234ABCDEF12 0 = some (.wfe formI) := by decide

theorem test_words_C1 :
  decodeWords 0xC15812345678AABC 0 = some (.tlbinv formR) ∧
  decodeWords 0xC15912345678AABC 0 = some (.sealfree formR) := by decide

/-- R37, R42, R43: opcodes and X values that name nothing. -/
theorem test_words_unassigned :
    decodeWords 0x0000000000000000 0 = none ∧ decodeWords 0x0F00000000000000 0 = none ∧
      decodeWords 0x0105000000000000 0 = none ∧ decodeWords 0x6807000000000000 0 = none ∧
      decodeWords 0x3007000000000000 0 = none ∧ decodeWords 0xD000000000000000 0 = none := by decide

/-- R32: bytes are little-endian, and a form L instruction takes 16 of them. -/
theorem test_decode_bytes :
    (decode ([0, 0, 0, 3, 2, 2, 0, 1] ++ [0xAA])).toOption =
      some (.add ⟨⟨0, false⟩, 2, 2, 3, 0, false, false, false, 0⟩, [0xAA]) ∧
    (decode ([0, 0, 0, 0, 0, 9, 0, 0x0D] ++ [0xF0, 0xDE, 0xBC, 0x9A, 0x78, 0x56, 0x34, 0x12])).toOption =
      some (.liw ⟨⟨0, false⟩, 9, 0, false, 0, 0x123456789ABCDEF0⟩, []) ∧
    (decode [0, 0, 0, 0, 0, 9, 0, 0x0D]).toOption = none ∧ (decode [0, 0, 0, 3, 2, 2, 0]).toOption = none := by decide

/-! ### Well-formed terms, and one ill-formed term for each check (R40 to R46) -/

/-- A form R term with predicate p0. -/
abbrev mkR (d a b c : Code) (m : BitVec 13) : RForm := ⟨⟨0, false⟩, d, a, b, c, false, false, false, m⟩
/-- A form I term with predicate p0. -/
abbrev mkI (d a : Code) (imm : BitVec 31) : IForm := ⟨⟨0, false⟩, d, a, false, imm⟩
/-- A form M term with predicate p0. -/
abbrev mkM (d a b : Code) (disp : BitVec 16) (pi sc or : BitVec 2) : MForm :=
  ⟨⟨0, false⟩, d, a, b, disp, false, false, pi, sc, or⟩

/-- R40: a scalar field takes s0 to s63 and the queues of the stream's direction; an unused field holds 0. -/
theorem test_form_scalar :
    Instr.WellFormed (.add (mkR 63 1 2 0 0)) = true ∧ Instr.WellFormed (.add (mkR 64 1 2 0 0)) = false ∧
      fieldsOk .a (.add (mkR 0xC0 0xC6 2 0 0)) = true ∧ fieldsOk .x (.add (mkR 0xC0 1 2 0 0)) = false ∧
      Instr.WellFormed (.add (mkR 1 1 2 3 0)) = false ∧ Instr.WellFormed (.add (mkR 1 1 2 0 1)) = false ∧
      Instr.WellFormed (.bfi (mkR 0xC0 1 2 3 0)) = false := by decide

/-- R40: an E bit stands only over a source that is read. -/
theorem test_form_empty_bit :
    Instr.WellFormed (.mov ⟨⟨0, false⟩, 1, 2, 0, 0, true, false, false, 0⟩) = true ∧
      Instr.WellFormed (.mov ⟨⟨0, false⟩, 1, 2, 0, 0, false, true, false, 0⟩) = false ∧
      Instr.WellFormed (.sel ⟨⟨0, false⟩, 1, 2, 3, 0xD1, false, false, true, 0⟩) = false := by decide

/-- R40: predicate, vector, accumulator and queue fields; a path mask that is not zero. -/
theorem test_form_files :
    Instr.WellFormed (.pand (mkR 0xDF 0xD0 0xD1 0 0)) = true ∧ Instr.WellFormed (.pand (mkR 1 0xD0 0xD1 0 0)) = false ∧
      Instr.WellFormed (.vpop (mkR 0x5F 0xC5 0 0 0)) = true ∧ Instr.WellFormed (.vpop (mkR 0x5F 0xC6 0 0 0)) = false ∧
      Instr.WellFormed (.vpush (mkR 0xC5 0x40 0 0 0)) = false ∧ Instr.WellFormed (.mzero (mkR 0xAF 0 0 0 0)) = true ∧
      Instr.WellFormed (.mzero (mkR 0xB0 0 0 0 0)) = false ∧ Instr.WellFormed (.qreset (mkR 0xC8 0 0 0 0)) = false ∧
      Instr.WellFormed (.fence (mkR 0 1 16 0 0x1800)) = true ∧ Instr.WellFormed (.fence (mkR 0 0 16 0 0)) = false ∧
      Instr.WellFormed (.fence (mkR 0 1 32 0 0)) = false ∧ Instr.WellFormed (.fence (mkR 0 1 1 0 1)) = false := by decide

/-- R41, R124: the arithmetic layout: RMO up to 4, TOV up to 9, no PL, no low bits, and no masked write of v0. -/
theorem test_form_arithmetic :
    Instr.WellFormed (.vadd (mkR 0x41 0x42 0x43 0 0x1848)) = true ∧ Instr.WellFormed (.vadd (mkR 0x41 0x42 0x43 0 0xA00)) = false ∧
      Instr.WellFormed (.vadd (mkR 0x41 0x42 0x43 0 0x050)) = false ∧ Instr.WellFormed (.vadd (mkR 0x41 0x42 0x43 0 0x100)) = false ∧
      Instr.WellFormed (.vadd (mkR 0x41 0x42 0x43 0 1)) = false ∧ Instr.WellFormed (.vadd (mkR 0x40 0x42 0x43 0 0x1000)) = false ∧
      Instr.WellFormed (.vrcpe (mkR 0x41 0x42 0 0 0x200)) = false ∧ Instr.WellFormed (.vmov (mkR 0x41 0x42 0 0 8)) = false ∧
      Instr.WellFormed (.mma (mkR 0x80 1 2 3 0x100)) = true ∧ Instr.WellFormed (.mma (mkR 0x80 1 2 3 0x1000)) = false := by decide

/-- R35, R42: immediates within their ranges. -/
theorem test_form_immediates :
    Instr.WellFormed (.csrr (mkI 1 0 0xFFF)) = true ∧ Instr.WellFormed (.csrr (mkI 1 0 0x1000)) = false ∧
      Instr.WellFormed (.bar (mkI 0 0 15)) = true ∧ Instr.WellFormed (.bar (mkI 0 0 16)) = false ∧
      Instr.WellFormed (.phaseSplit (mkI 0 0 6)) = true ∧ Instr.WellFormed (.phaseSplit (mkI 0 0 0)) = false ∧
      Instr.WellFormed (.phaseSplit (mkI 0 0 7)) = false ∧ Instr.WellFormed (.setvl (mkI 1 2 0x1E)) = true ∧
      Instr.WellFormed (.setvl (mkI 1 2 3)) = false ∧ Instr.WellFormed (.setvl (mkI 1 2 32)) = false ∧
      Instr.WellFormed (.syscall (mkI 0 0 0xFFFF)) = true ∧ Instr.WellFormed (.syscall (mkI 0 0 0x10000)) = false ∧
      Instr.WellFormed (.wfe (mkI 0 0 1)) = false ∧ Instr.WellFormed (.liw ⟨⟨0, false⟩, 1, 0, false, 1, 5⟩) = false := by decide

/-- R39, R228: PI below 3, the two ordering fields, and two different registers where both are written. -/
theorem test_form_memory :
    Instr.WellFormed (.ld .d (mkM 1 2 3 0 2 3 1)) = true ∧ Instr.WellFormed (.ld .d (mkM 1 2 3 0 3 0 0)) = false ∧
      Instr.WellFormed (.ld .d (mkM 1 2 3 0 0 0 2)) = false ∧ Instr.WellFormed (.ld .d (mkM 1 2 3 0 0 1 0)) = false ∧
      Instr.WellFormed (.ld .d (mkM 2 2 3 0 1 0 0)) = false ∧ Instr.WellFormed (.st .d (mkM 0 2 3 0 0 3 2)) = true ∧
      Instr.WellFormed (.st .d (mkM 0 2 3 0 0 0 1)) = false ∧ Instr.WellFormed (.lds .d (mkM 1 2 3 0 0 0 1)) = false ∧
      Instr.WellFormed (.amoadd (mkM 1 2 3 0 0 3 3)) = true ∧ Instr.WellFormed (.amoadd (mkM 1 2 3 0 1 0 0)) = false ∧
      Instr.WellFormed (.apd (mkM 1 2 3 1 0 0 0)) = false ∧ Instr.WellFormed (.apd (mkM 1 2 3 0 1 0 0)) = false := by decide

/-- R37, R44, R45: the fields of branches; the length and the second word of CPYM. -/
theorem test_form_long :
    Instr.WellFormed (.ret ⟨⟨0, false⟩, 0, 0, 1, 0, 0⟩) = true ∧ Instr.WellFormed (.ret ⟨⟨0, false⟩, 0, 1, 1, 0, 0⟩) = false ∧
      Instr.WellFormed (.jmp ⟨⟨0, false⟩, 0, 1, 0, 0, 0⟩) = false ∧ Instr.WellFormed (.call ⟨⟨0, false⟩, 0, 1, 0, 0, 0⟩) = false ∧
      Instr.WellFormed (.br ⟨⟨0, false⟩, 0, 1, 0, 0, 1⟩) = false ∧ Instr.WellFormed (.loop ⟨⟨0, false⟩, 0, 1, 0, 0, 0⟩) = false ∧
      Instr.WellFormed (.cpym ⟨⟨0, false⟩, 1, 2, false, 0x3FFFFFFF, 0xA100800102030000⟩) = true ∧
      Instr.WellFormed (.cpym ⟨⟨0, false⟩, 1, 2, false, 0x40000000, 0xA100800102030000⟩) = false ∧
      Instr.WellFormed (.cpym ⟨⟨0, false⟩, 1, 2, false, 0, 0xA100800102030000⟩) = false ∧
      Instr.WellFormed (.cpym ⟨⟨0, false⟩, 1, 2, false, 1, 0xA300800102030000⟩) = false ∧
      Instr.WellFormed (.cpym ⟨⟨0, false⟩, 1, 2, false, 1, 0xA110800102030000⟩) = false := by decide

/-! ### States for the witnesses -/

theorem ok_of {ε α : Type} [DecidableEq α] {x : Except ε α} {a : α}
    (h : (match x with | .ok b => decide (b = a) | .error _ => false) = true) : x = .ok a := by
  cases x with
  | error e => cases h
  | ok b => rw [of_decide_eq_true h]

/-- With no Timetable active every home serves every access (R325). -/
theorem serving {s : State} (h : s.ttActive = none) : s.Serving := fun st => by simp [stackClosed, h]

/-- The mask of a machine whose v0 has no bad parity is sound. -/
theorem maskSound {s : State} {mk : Bool} {lo : Nat} (h : (s.cur.vreg 0x40).badParity = []) : Claims.MaskSound s mk lo :=
  fun _ i _ _ hi => by rw [h] at hi; cases hi

/-- A vector instruction is ready on registers without bad parity. -/
theorem vready {s : State} {l : List Src} {mk : Bool} {d : Code}
    (h : Quiet s ∧ (∀ x ∈ l, if codeIsV x.code then (s.cur.vreg x.code).empty = false else SourceReady s x.code) ∧
      (mk = true → (s.cur.vreg 0x40).empty = false) ∧ (codeIsV d = true → (s.cur.vreg d).empty = false) ∧ s.cut = none)
    (hp : (s.cur.vreg 0x40).badParity = []) : Claims.VectorReady s l mk d :=
  ⟨h.1, h.2.1, h.2.2.1, h.2.2.2.1, h.2.2.2.2, maskSound hp⟩

/-- The one leaf of the start state: GVA 0 to 1 GiB is GPA 0 on, all access allowed. -/
def page : Xlat := ⟨0, 0, 2 ^ 30, 0xF⟩

/-- Core 0 runs the one member of a job of guest 0, its page cached, one line held exclusively and credit at hand; `t` is at an
instruction. -/
def start (t : StreamId) : State :=
  let s := { placeWord State.reset 64 0 with agenda := [], turn := (0, t) }
  s.modCore 0 (fun k => { k with
    tlb := [page], excl := [⟨.hbm, 1024⟩], credit := 4096
    place := some ⟨⟨0, 0, 0, 0⟩, 0, 0, 1, 0, [], 0x400000, 48⟩ })

/-- The current stream with register values. -/
def regs (l : List (Code × Word)) (s : State) : State := s.modStrm (fun st => l.foldl (fun st e => st.setReg e.1 e.2) st)

/-- Stream A at an instruction: s2 = 0x10000, s3 = 7, s4 = a descriptor of one line and stride 64, s5 = 1, s6 = 64. -/
def sA : State := regs [(2, 0x10000), (3, 7), (4, 0x0001000000000040), (5, 1), (6, 64)] (start .a)
/-- Stream X at an instruction, with the same registers. -/
def sX : State := regs [(2, 0x10000), (3, 7), (4, 0x0001000000000040), (5, 1), (6, 64)] (start .x)
/-- A state with its current stream at S level. -/
def atS (s : State) : State := s.modStrm (fun st => { st with level := .s })
/-- Data line 1,024 holds RAW bytes. -/
def filled (s : State) : State := { s with mem := memWrite s.mem 0x10000 8 0x1122334455667788, tags := tabPut s.tags 1024 0 }
/-- A page of class APPEND, and one of class SEALED. -/
def pageA : Xlat := ⟨0x40000000, 0x200000, 65536, 0x5F⟩
def pageS : Xlat := ⟨0x50000000, 0x210000, 65536, 0x7F⟩
/-- Both pages cached, their page-state words showing an open page with tail 3 and a sealed one with tail 4; s7 and s8 are their
addresses, s9 a descriptor of one line at scratchpad 0x40. -/
def paged (s : State) : State :=
  let s := regs [(7, 0x40000000), (8, 0x50000000), (9, 0x0001000000000040)] s
  let s := (s.modGuest 0 (fun x => { x with vf := tabPut x.vf 0x408 0x20000, pool := 4096 })).modCore 0 (fun k => { k with
    tlb := [page, pageA, pageS], ask := some (⟨.hbm, 0x840⟩, true) })
  { s with mem := memWrite (memWrite s.mem 0x21000 8 3) 0x21080 8 (2 ^ 63 + 4), tags := tabPut (tabPut s.tags 0x840 0) 0x842 0 }
/-- Queues q0 and q6 hold one RAW line each. -/
def queued (s : State) : State := s.modCore 0 (fun k => { k with
  q := [(0, [⟨BitVec.ofNat 512 5, 0, false⟩]), (6, [⟨BitVec.ofNat 512 6, 0, false⟩])] })
/-- The scratchpad lines below `n` hold zeros under a tag. -/
def lined (n : Nat) (t : Tag) (s : State) : State := s.modCore 0 (fun k => { k with spTags := (List.range n).map (fun i => (i, t)) })
/-- A command at the head of core 0's engine, started. -/
def headed (m : MatCmd) (s : State) : State := s.modCore 0 (fun k => { k with mat := { k.mat with queue := [m] } })
/-- A started command. -/
def command (w a b d : Word) : MatCmd := ⟨w, a, b, d, 1, none, none, [], true, none, none, 0, false⟩
/-- A gang of two members, on cores 0 and 1. -/
def ganged (s : State) : State :=
  let p : Place := ⟨⟨0, 0, 0, 0⟩, 0, 0, 2, 0, [], 0x400000, 48⟩
  let s := s.modCore 0 (fun k => { k with place := some p })
  s.modCore 1 (fun k => { k with mode := .run, guest := some 0, place := some { p with gidx := 1, gidx0 := 1 } })
/-- A vector register with one segment. -/
def vreg (t : Tag) (b : Nat) : VReg := ⟨[(0, ⟨BitVec.ofNat 512 b, t⟩)], 512, false, []⟩
/-- Stream X with 32-bit slots and VL = 4; v1, v2 and v3 hold FP32 elements, v4 INT32 ones, v5 RAW lines of codes and indices, and
slot 255 of the codebook is FULL. -/
def sV : State := sX.modCur (fun k => { k with
  vec := { k.vec with
    vl := 4, vtype := 2
    v := [(1, vreg 0x087F 0x40800000404000004000000 ), (2, vreg 0x087F 0x3F800000), (3, vreg 0x087F 0x3F800000),
      (4, vreg 0x407F 0x300000002), (5, vreg 0 0x0000000C0000000800000004)] }
  book := [(255, ⟨.full, 0, 0, 0, 0⟩)] })
/-- The segments of the range of VL = 4. -/
theorem only_zero {s : State} {g : Nat} (hs : (s.cur.vec.vl.toNat - 1) / Claims.slots s = 0) (h : Claims.InRange s g) : g = 0 :=
  Nat.le_zero.mp (hs ▸ h.2.2)

/-! ### What meets the hypotheses of the statements -/

/-- IntegerArithmetic: two registers into one, into s0 that discards it, and from and into queues. -/
theorem witness_IntegerArithmetic :
    (∀ i ∈ ([Instr.add, .sub, .mul, .mulh, .mulhs, .andr, .orr, .xorr, .andn, .orn, .shl, .shr, .sra, .rol, .min, .max, .mins,
        .maxs, .div, .rem, .divs, .rems] : List (RForm → Instr)),
      Runs (i (mkR 1 2 3 0 0)) sA ∧ Runs (i (mkR 0 2 3 0 0)) sX ∧ Runs (i (mkR 0xC0 2 3 0 0)) sA) ∧
    SourcesReady sA [⟨2, false⟩, ⟨3, false⟩] ∧ SourcesReady sX [⟨2, false⟩, ⟨0, false⟩] ∧ DestReady sA 1 ∧ DestReady sX 0 ∧
    DestReady sA 0xC0 := by
  simp only [Runs, SourcesReady, SourceReady, DestReady, Quiet]; decide +kernel

/-- FieldAndMoveResults. -/
theorem witness_FieldAndMoveResults :
    (∀ i ∈ [Instr.clz (mkR 1 2 0 0 0), .ctz (mkR 1 2 0 0 0), .popc (mkR 1 2 0 0 0), .sext (mkR 1 2 3 0 0), .zext (mkR 1 2 3 0 0),
      .mov (mkR 0 2 0 0 0), .sel (mkR 1 2 3 0xDF 0), .bfx (mkR 1 2 3 5 0), .bfi (mkR 1 2 3 5 0), .addx (mkR 1 2 3 5 0),
      .addi (mkI 1 2 0x7FFFFFFF), .li (mkI 0xC5 0 5), .liw ⟨⟨0, false⟩, 1, 0, false, 0, 5⟩], Runs i sA) ∧
    SourcesReady sA [⟨2, false⟩, ⟨3, false⟩, ⟨5, false⟩, ⟨1, false⟩] ∧ DestReady sA 1 ∧ DestReady sA 0 ∧ DestReady sA 0xC5 := by
  simp only [Runs, SourcesReady, SourceReady, DestReady, Quiet]; decide +kernel

/-- PredicateResults. -/
theorem witness_PredicateResults :
    (∀ cc ∈ [Cc.eq, .ne, .lt, .ge, .ltu, .geu, .gt, .le], Runs (.cmp cc (mkR 0xD0 2 3 0 0)) sA ∧ Runs (.cmpi cc (mkI 0xDF 2 5)) sX) ∧
    (∀ i ∈ [Instr.pand (mkR 0xD1 0xD2 0xD3 0 0), .por (mkR 0xD1 0xD2 0xD3 0 0), .pxor (mkR 0xD0 0xD2 0xD3 0 0),
      .pnot (mkR 0xD1 0xD0 0 0 0), .pmov (mkR 0xDF 0xD0 0 0 0)], Runs i sA) ∧
    SourcesReady sA [⟨2, false⟩, ⟨3, false⟩] ∧ SourcesReady sX [⟨2, false⟩] := by
  simp only [Runs, SourcesReady, SourceReady, Quiet]; decide +kernel

/-- Branches: good targets, one that is misaligned and one beyond 2^48. -/
theorem witness_Branches :
    (∀ i ∈ [Instr.br ⟨⟨0, false⟩, 0, 2, 0, 0, 0⟩, .jmp ⟨⟨0, false⟩, 0, 2, 2, 0, 0⟩, .call ⟨⟨0, false⟩, 1, 2, 0, 0, 0⟩,
      .call ⟨⟨0, false⟩, 1, 2, 2, 0, 0⟩, .ret ⟨⟨0, false⟩, 0, 0, 2, 0, 0⟩, .loop ⟨⟨0, false⟩, 0, 0xFFFFFFFFFE, 0, 5, 0⟩], Runs i sA) ∧
    SourcesReady sA [⟨2, false⟩, ⟨0, false⟩, ⟨5, false⟩] ∧ DestReady sA 1 ∧
    Claims.GoodTarget (Claims.target sA.strm.pc ⟨⟨0, false⟩, 0, 2, 0, 0, 0⟩) ∧
    Claims.GoodTarget (Claims.target (sA.src 2) ⟨⟨0, false⟩, 0, 2, 2, 0, 0⟩) ∧ Claims.GoodTarget (sA.src 2) ∧
    (Claims.target (sA.modStrm (fun st => { st with pc := 4 })).strm.pc ⟨⟨0, false⟩, 0, 2, 0, 0, 0⟩).toNat % 8 ≠ 0 ∧
    Runs (.br ⟨⟨0, false⟩, 0, 0xFFFFFFFFFE, 0, 0, 0⟩) (sA.modStrm (fun st => { st with pc := 0 })) ∧
    2 ^ 48 ≤ (Claims.target 0 ⟨⟨0, false⟩, 0, 0xFFFFFFFFFE, 0, 0, 0⟩).toNat ∧
    (∀ i ∈ [Instr.jmp ⟨⟨0, false⟩, 0, 0, 3, 0, 0⟩, .jmp ⟨⟨0, false⟩, 0, 0, 4, 0, 0⟩, .call ⟨⟨0, false⟩, 1, 0, 3, 0, 0⟩,
      .call ⟨⟨0, false⟩, 1, 0, 4, 0, 0⟩, .ret ⟨⟨0, false⟩, 0, 0, 3, 0, 0⟩, .ret ⟨⟨0, false⟩, 0, 0, 4, 0, 0⟩], Runs i sA) ∧
    SourcesReady sA [⟨3, false⟩, ⟨4, false⟩] ∧ (sA.src 3).toNat % 8 ≠ 0 ∧
    (Claims.target (sA.src 4) ⟨⟨0, false⟩, 0, 0, 4, 0, 0⟩).toNat % 8 = 0 ∧ 2 ^ 48 ≤ (sA.src 4).toNat ∧
    sA.strm.predTrue (predOf (.br ⟨⟨0, true⟩, 0, 2, 0, 0, 0⟩)) = false := by
  simp only [Runs, SourcesReady, SourceReady, DestReady, Quiet, Claims.GoodTarget]; decide +kernel

/-- Csrs: a read and writes in X at S level, of FSTAT, of VLCAP with its least and greatest value, and with A = s0. -/
theorem witness_Csrs :
    (∀ i ∈ [Instr.csrr (mkI 1 0 0), .csrw (mkI 0 6 0x200), .csrs (mkI 1 0 0x200), .csrc (mkI 1 2 0)], Runs i (atS sX)) ∧
    Claims.CsrMay (atS sX) 0x200 true ∧ Claims.CsrMay sX 0 false ∧ Claims.CsrMay (atS sX) 0 true ∧ DestReady (atS sX) 1 ∧
    SourcesReady (atS sX) [⟨6, false⟩] ∧ SourcesReady (atS sX) [⟨2, false⟩] ∧
    fld ((atS sX).src 6) 0 11 ∈ [64, 128, 256, 512, 1024] ∧
    fld (CsrMode.set.combine (csrRead (csrSync 0x200 (atS sX)).cur .x 0x200) 0) 0 11 ∈ [64, 128, 256, 512, 1024] := by
  simp only [Runs, SourcesReady, SourceReady, DestReady, Quiet, Claims.CsrMay]; decide +kernel

/-- Retirement: a false predicate. -/
theorem witness_Retirement :
    sA.strm.predTrue (predOf (.add ⟨⟨0, true⟩, 1, 2, 3, 0, false, false, false, 0⟩)) = false := by decide +kernel

/-- CallsAndReturns. -/
theorem witness_CallsAndReturns :
    Runs (.syscall (mkI 0 0 0xFFFF)) sA ∧ Runs (.bkpt (mkI 0 0 0)) sX ∧ Runs (.eret (mkI 0 0 0)) (atS sX) := by
  simp only [Runs]; decide +kernel

/-- StreamControl: an RDV whose partner is past it and one whose partner waits, a WFE with its flag set and clear, the end of a
wait, and END at both levels. -/
theorem witness_StreamControl :
    Runs (.nop (mkR 0 0 0 0 0)) sA ∧ Runs (.rdv (mkR 0 0 0 0 0)) sA ∧ Runs (.wfe (mkI 0 0 0)) sA ∧ Runs (.endj (mkR 0 0 0 0 0)) sX ∧
    Runs (.endj (mkR 0 0 0 0 0)) (atS sA) ∧
    (let s := sA.modCur (fun k => { k with x := { k.x with rdvCount := 1 } }); s.strm.rdvCount < s.cur.x.rdvCount) ∧
    (let s := sA.modCur (fun k => { k with x := { k.x with rdvHere := true } });
      s.cur.x.rdvHere = true ∧ s.cur.x.rdvCount = s.strm.rdvCount) ∧
    (sA.modStrm (fun st => { st with evf := true })).strm.evf = true ∧ sA.strm.evf = false ∧
    (let s := sA.modStrm (fun st => { st with wfeCycles := 65536, wait := some ⟨.event, 0⟩ });
      (s.core 0).canIssue .a = true ∧ (s.streamAt 0 .a).wait = some ⟨.event, 0⟩ ∧ 65536 ≤ (s.streamAt 0 .a).wfeCycles) ∧
    sX.cur.producers = [] ∧ sX.cur.shareHalt = none := by
  simp only [Runs]; decide +kernel

/-- ScalarLoads: a load of each kind at the least and the greatest address of its space, and a load whose data arrives. -/
theorem witness_ScalarLoads :
    (∀ sz ∈ [LdSize.b, .h, .w, .d, .bu, .hu, .wu], Runs (.ld sz (mkM 1 2 0 0 0 0 0)) sA ∧ Runs (.lds sz (mkM 1 0 6 1 2 0 0)) sA) ∧
    Runs (.ld .d (mkM 0 2 6 0 0 3 1)) sA ∧ SourcesReady sA [⟨2, false⟩, ⟨6, false⟩] ∧ SourcesReady sA [⟨0, false⟩, ⟨6, false⟩] ∧
    DestReady sA 1 ∧ Claims.address (mkM 1 2 0 0 0 0 0) 8 (sA.src 2) (sA.src 0) = 0x10000 ∧
    Claims.Reaches sA .read 0x10000 page ⟨.hbm, 1024⟩ ∧ Claims.Reaches sA .read 0x3FFFFFF8 page ⟨.hbm, 0xFFFFFF⟩ ∧
    sA.cur.requests < 4096 ∧ Claims.NoAcquire sA ∧ pteClass page.leaf < 2 ∧ (0x3FFFF8 : Word).toNat + 8 ≤ 0x400000 ∧
    (let s := sA.modCur (fun k => { k with producers := [.ld 63 0 8 false 5 true page 0 ⟨.hbm, 0⟩] });
      (s.core 0).producers[0]? = some (.ld 63 0 8 false 5 true page 0 ⟨.hbm, 0⟩)) := by
  refine ⟨?_, ?_, ?_, ?_, ?_, ?_, ⟨serving (by decide +kernel), ?_, ok_of ?_, ok_of ?_, ?_⟩, ⟨serving (by decide +kernel), ?_, ok_of ?_, ok_of ?_, ?_⟩, ?_⟩ <;>
    (try simp only [Runs, SourcesReady, SourceReady, DestReady, Quiet, Claims.NoAcquire]) <;> decide +kernel

/-- ScalarStores: into an UNINIT and into a VALID line, local and global, on a line held exclusively. -/
theorem witness_ScalarStores :
    (∀ sz ∈ [StSize.b, .h, .w, .d], Runs (.st sz (mkM 0 2 3 0 0 3 2)) sA ∧ Runs (.sts sz (mkM 0 6 3 0 1 0 0)) sA) ∧
    SourcesReady sA [⟨2, false⟩, ⟨3, false⟩] ∧ SourcesReady sA [⟨6, false⟩, ⟨3, false⟩] ∧
    Claims.Reaches sA .write 0x10000 page ⟨.hbm, 1024⟩ ∧ (0x40 : Word).toNat + 8 ≤ sA.cur.placeD.spBytes ∧ Claims.NoAcquire sA ∧
    tagClass (storeImg sA 0 ⟨.sp 0, 1⟩).tag = 0 ∧
    (let s := sA.modCur (fun k => { k with spTags := tabPut k.spTags 1 0x0100 }); tagClass (storeImg s 0 ⟨.sp 0, 1⟩).tag = 1) ∧
    pteClass page.leaf < 2 ∧ typedEntry sA.cur 3 = none ∧ creditFor sA ⟨.hbm, 1024⟩ ≤ sA.cur.credit ∧ ⟨.hbm, 1024⟩ ∈ sA.cur.excl ∧
    tagClass (lineUnder (fillTlb 0 page sA) 0 ⟨.hbm, 1024⟩).tag = 1 ∧
    tagClass (lineUnder (fillTlb 0 page (filled sA)) 0 ⟨.hbm, 1024⟩).tag = 0 ∧
    (mergeRaw false (lineUnder (fillTlb 0 page sA) 0 ⟨.hbm, 1024⟩) 0 8 7).toOption.isSome = true ∧
    (mergeRaw false (lineUnder (fillTlb 0 page (filled sA)) 0 ⟨.hbm, 1024⟩) 0 8 7).toOption.isSome = true := by
  refine ⟨?_, ?_, ?_, ⟨serving (by decide +kernel), ?_, ok_of ?_, ok_of ?_, ?_⟩, ?_⟩ <;>
    (try simp only [Runs, SourcesReady, SourceReady, Quiet, Claims.NoAcquire]) <;> decide +kernel

/-- A write of path A of core 0 to line 1,024. -/
def write (n : Nat) (done : Bool) : WriteRec :=
  { newWrite sA 0 .a ⟨.hbm, 1024⟩ 255 7 none none with id := n, performed := done }

/-- WritesInOrder: a request sent, a line in flight, and a core that waits for credit which the pool has and has not. -/
theorem witness_WritesInOrder :
    (write 0 true).pub = none ∧
    ((sA.modCur (fun k => { k with ask := some (⟨.hbm, 1⟩, false) })).core 0).ask = some (⟨.hbm, 1⟩, false) ∧
    (let s := { sA with writes := [write 5 false] }; write 5 false ∈ s.writes ∧ (write 5 false).writer = some ⟨0, .a⟩ ∧
      ∀ r' ∈ s.writes, r'.id = 5 → r' = write 5 false) ∧
    (let s := (sA.modCur (fun k => { k with credit := 0 })).modStrm (fun st => { st with wait := some ⟨.credit 4, 0⟩ });
      (s.core 0).a.wait = some ⟨.credit 4, 0⟩ ∧ (s.core 0).credit ≤ 4 ∧
      (s.guest 0).pool - (s.guest 0).capUsed < 4 - (s.core 0).credit ∧
      4 - (s.core 0).credit ≤ ((s.modGuest 0 (fun x => { x with pool := 4 })).guest 0).pool -
        ((s.modGuest 0 (fun x => { x with pool := 4 })).guest 0).capUsed) ∧ { sA with writes := [write 5 false] }.Serving := by
  refine ⟨?_, ?_, ?_, ?_, serving rfl⟩ <;> decide +kernel

/-- Lines of one page. -/
theorem witness_OnePage : Claims.OnePage sA .read page [0x10000] ∧ Claims.OnePage sA .write page [0x3FFFFFC0] ∧
    Claims.OnePage sA .read page ([0x20000] ++ [0x10000]) := by
  have h (acc : Acc) (a : Nat) (l : Loc) (h1 : a < 2 ^ 48) (h2 : sA.cur.tlb.find? (fun y => y.covers a) = some page)
      (h3 : placeGpa sA (sA.guestOf sA.turn.1) 1 (decide (acc = .write)) (page.gpaAt a) = .ok l)
      (h4 : reachable sA (sA.guestOf sA.turn.1) (page.gpaAt a) l = true) :
      a < 2 ^ 48 ∧ sA.cur.tlb.find? (fun y => y.covers a) = some page ∧
        ∃ l, placeGpa sA (sA.guestOf sA.turn.1) 1 (decide (acc = .write)) (page.gpaAt a) = .ok l ∧
          reachable sA (sA.guestOf sA.turn.1) (page.gpaAt a) l = true := ⟨h1, h2, l, h3, h4⟩
  refine ⟨⟨serving (by decide +kernel), ok_of (by decide +kernel), ?_⟩, ⟨serving (by decide +kernel), ok_of (by decide +kernel), ?_⟩,
    ⟨serving (by decide +kernel), ok_of (by decide +kernel), ?_⟩⟩ <;> intro a ha
  · obtain rfl := List.mem_singleton.mp ha
    exact h .read _ ⟨.hbm, 1024⟩ (by decide) (by decide +kernel) (ok_of (by decide +kernel)) (by decide +kernel)
  · obtain rfl := List.mem_singleton.mp ha
    exact h .write _ ⟨.hbm, 0xFFFFFF⟩ (by decide) (by decide +kernel) (ok_of (by decide +kernel)) (by decide +kernel)
  · rcases List.mem_cons.mp ha with rfl | ha
    · exact h .read _ ⟨.hbm, 2048⟩ (by decide) (by decide +kernel) (ok_of (by decide +kernel)) (by decide +kernel)
    · obtain rfl := List.mem_singleton.mp ha
      exact h .read _ ⟨.hbm, 1024⟩ (by decide) (by decide +kernel) (ok_of (by decide +kernel)) (by decide +kernel)

/-- LineStreams: one line at s2 for LDQ, at the end of the scratchpad for LDSQ, by an index of 0 at 0x20000 for LDQI; a slot that
feeds a queue with room. -/
theorem witness_LineStreams :
    Runs (.ldq (mkM 0xC0 2 4 0 0 3 1)) sA ∧ Runs (.ldsq (mkM 0xC5 6 4 0 0 0 0)) sA ∧ Runs (.ldqi (mkM 0xC0 2 4 0 0 0 0)) sA ∧
    SourcesReady sA [⟨2, false⟩, ⟨4, false⟩] ∧ SourcesReady sA [⟨6, false⟩, ⟨4, false⟩] ∧ Claims.NoAcquire sA ∧
    0 < Claims.count (sA.src 4) ∧ Claims.stride (sA.src 4) % 64 = 0 ∧ freeSlot sA.cur = some 0 ∧ Claims.PinsLeft sA 1 ∧
    (List.range (Claims.count (sA.src 4))).map (Claims.lineAt 0x10000 (sA.src 4)) = [0x10000] ∧
    (∀ j, j < Claims.count (sA.src 4) → Claims.lineAt 0x3FFFC0 (sA.src 4) j + 64 ≤ 0x400000) ∧
    (let d : Word := 0x0001000000020000;
      Claims.count d = 1 ∧ (List.range 1).map (fun j => 0x20000 + 4 * j) ++
        (List.range 1).map (fun j => (0x10000 + word (64 * Claims.index sA page 0x20000 j)).toNat) = [0x20000] ++ [0x10000]) ∧
    (∀ r ∈ sA.writes, r.apage = none) ∧ page.gpa + page.size ≤ 2 ^ 46 ∧
    (let x : StreamSlot := ⟨0xC0, 2, 0, 0, 64, 1, 0, [], [], none, []⟩; let s := sA.modCur (fun k => { k with slots := [(63, x)] });
      tabFind (s.core 0).slots 63 = some x ∧ (s.core 0).mode = .run ∧ ((s.core 0).queue x.queue).length < 64 ∧
      ((s.core 0).slotsOf x.queue).head?.map (fun e => e.1) = some 63 ∧ slotReady s 0 63 x = true) := by
  simp only [Runs, SourcesReady, SourceReady, Quiet, Claims.NoAcquire, Claims.PinsLeft]; decide +kernel

/-- QueueTransfers. -/
theorem witness_QueueTransfers :
    Runs (.stsq (mkM 0 6 0xC6 0 0 0 0)) (queued sA) ∧ Runs (.stq (mkM 0 2 0xC6 0 0 3 2)) (queued sA) ∧ Quiet (queued sA) ∧
    SourceReady (queued sA) 6 ∧ SourceReady (queued sA) 2 ∧
    (queued sA).cur.queue 0xC6 = [⟨BitVec.ofNat 512 6, 0, false⟩] ∧ (queued sA).src 6 = 64 ∧
    64 + 64 ≤ (queued sA).cur.placeD.spBytes ∧ Claims.NoAcquire (queued sA) ∧
    Claims.Reaches (queued sA) .write 0x10000 page ⟨.hbm, 1024⟩ ∧
    (lineStore (queued sA).cur page ⟨BitVec.ofNat 512 6, 0, false⟩).toOption.isSome = true ∧
    creditFor (queued sA) ⟨.hbm, 1024⟩ ≤ (queued sA).cur.credit ∧
    Runs (.prf (mkM 0 2 3 0 2 0 0)) sA ∧ SourcesReady sA [⟨2, false⟩, ⟨3, false⟩] ∧ Runs (.qreset (mkR 0xC0 0 0 0 0)) (queued sA) ∧
    (queued sA).src 3 = 7 ∧ (∀ i ∈ ([Instr.stsq, .stq] : List (MForm → Instr)), Runs (i (mkM 0 3 0xC6 0 0 0 0)) (queued sA) ∧
      Runs (i (mkM 0 2 0xC6 0 0 0 0)) sA ∧ Runs (i { mkM 0 2 0xC6 0 0 0 0 with eb := true }) sA) ∧
    sA.cur.srcEmpty .a 2 = false ∧ sA.cur.queue 0xC6 = [] ∧ (let s := sA.modStrm (fun st => { st with sEmpty := [2] });
      Runs (.prf { mkM 0 2 3 0 0 0 0 with ea := true }) s ∧ Runs (.prf { mkM 0 3 2 0 0 0 0 with eb := true }) s ∧
        s.cur.srcEmpty .a 2 = true ∧ s.cur.srcEmpty .a 3 = false) := by
  refine ⟨?_, ?_, ?_, ?_, ?_, ?_, ?_, ?_, ?_, ⟨serving (by decide +kernel), ?_, ok_of ?_, ok_of ?_, ?_⟩, ?_⟩ <;>
    (try simp only [Runs, SourcesReady, SourceReady, Quiet, Claims.NoAcquire]) <;> decide +kernel

/-- AppendAndSeal: an append of one line to a page with tail 3; a SEAL of a page that shows SEALED and of one that does not. -/
theorem witness_AppendAndSeal :
    (∀ i ∈ ([Instr.apd, .apdRel] : List (MForm → Instr)), Runs (i (mkM 1 7 9 0 0 0 0)) (paged sA)) ∧
    SourcesReady (paged sA) [⟨7, false⟩, ⟨9, false⟩] ∧ DestReady (paged sA) 1 ∧ Claims.NoAcquire (paged sA) ∧
    (let d := (paged sA).src 9; d.toNat / 2 ^ 48 = 1 ∧ fld d 22 26 = 0 ∧ d.toNat % 2 ^ 22 = 64) ∧
    lookup (paged sA) 0 .write 0x40000000 = .ok pageA ∧ lookup (paged sA) 0 .free 0x40000000 = .ok pageA ∧
    lookup (paged sA) 0 .free 0x50000000 = .ok pageS ∧
    pageState (paged sA) 0 0x200000 = .ok 3 ∧ pageState (paged sA) 0 0x210000 = .ok 0x8000000000000004 ∧
    placeGpa (paged sA) 0 1 true (0x200000 + 64 * 3) = .ok ⟨.hbm, 0x8003⟩ ∧
    pteClass pageA.leaf = 2 ∧ pteClass pageS.leaf = 3 ∧ psMalformed 3 65536 = false ∧ psSealing 3 = false ∧ psSealed 3 = false ∧
    psTail 3 = 3 ∧ 3 + 1 ≤ pageA.size / 64 ∧ (paged sA).cur.ask = some (pageStateLoc (paged sA) 0 0x200000, true) ∧
    4 * 1 ≤ (paged sA).cur.credit ∧ Claims.PinsLeft (paged sA) 1 ∧ (paged sA).Serving ∧ (0x40000000 : Nat) < 2 ^ 48 ∧
    reachable (paged sA) 0 0x200000 ⟨.hbm, 0x8000⟩ = true ∧ placeGpa (paged sA) 0 1 true 0x200000 = .ok ⟨.hbm, 0x8000⟩ ∧
    ((List.range 1).mapM (fun j => lineStore (paged sA).cur pageA (viewImg (paged sA) ⟨0, .a⟩ (spLoc 0 (64 + 64 * j))))).toOption.isSome = true ∧
    Runs (.seal (mkR 0 7 0 0 0)) (paged sA) ∧ Runs (.seal (mkR 0 8 0 0 0)) (paged sA) ∧
    SourcesReady (paged sA) [⟨8, false⟩] ∧ psSealed 0x8000000000000004 = true ∧ (∀ r ∈ (paged sA).writes, r.apage ≠ some 0x200000 ∧
      (r.loc = pageStateLoc (paged sA) 0 0x200000 → r.pub.isSome = true)) := by
  refine ⟨?_, ?_, ?_, ?_, ?_, ok_of ?_, ok_of ?_, ok_of ?_, ok_of ?_, ok_of ?_, ok_of ?_, ?_, ?_, ?_, ?_, ?_, ?_, ?_, ?_, ?_, ?_,
      serving (by decide +kernel), ?_, ?_, ok_of ?_, ?_⟩ <;>
    (try simp only [Runs, SourcesReady, SourceReady, DestReady, Quiet, Claims.NoAcquire, Claims.PinsLeft]) <;> decide +kernel

/-- Copies: one line within the scratchpad, from global memory and to the last line of the cluster window; a group of the
engine; a chained product. s10 names scratchpad 0, s11 scratchpad 0x40, s12 the descriptor of K = 128. -/
def copying : State := regs [(10, 0x8000000000000000), (11, 0x8000000000000040), (12, 128), (5, 1), (2, 0x10000), (0x0D, 0xC0000000003FFFC0)] (start .a)

theorem witness_Copies :
    Runs (.cpy (mkR 11 10 5 0 0)) copying ∧ SourcesReady copying [⟨11, false⟩, ⟨10, false⟩, ⟨5, false⟩] ∧
    SourcesReady copying [⟨0, false⟩, ⟨12, false⟩, ⟨12, false⟩, ⟨13, false⟩] ∧ (copying.src 5).toNat = 1 ∧
    copyPlace (copying.src 10) = some (.own 0) ∧ copyPlace (copying.src 11) = some (.own 0x40) ∧
    copyPlace (copying.src 13) = some (.cluster 0x3FFFC0) ∧ clusterOk copying.cur 0x3FFFC0 = true ∧
    copyPlace (copying.src 2) = some (.global 0x10000) ∧ copying.cur.copy.queue.length < 16 ∧ copying.cur.copy.frozen = none ∧
    Claims.PinsLeft copying 2 ∧ Claims.NoAcquire copying ∧ 0x3FFFC0 + 64 * 1 ≤ copying.cur.placeD.spBytes ∧
    (let c : CopyCmd := ⟨0x8000000000000000, 0x8000000000000040, 65, 1, 0, []⟩;
      let s := copying.modCur (fun k => { k with copy := { k.copy with queue := [c], prog := 1 } });
      (s.core 0).copy.queue = [c] ∧ (s.core 0).mode = .run ∧ (s.core 0).copy.halt = none ∧ (s.core 0).copy.frozen = none ∧
      (groupPlan 0 c 1 s).toOption.isSome = true ∧ 64 * 1 ≤ 64 ∧ 64 < c.lines) ∧
    Runs (.cpym ⟨⟨0, false⟩, 11, 10, false, 1, 0xA10080000B0C0000⟩) copying ∧ chainedOk 0xA10080000B0C0000 = true ∧
    Claims.Listed copying 0 ∧ Claims.ProductOk copying (RForm.ofWord 0xA10080000B0C0000) false false 0 0 128 ∧
    copying.cur.shareHalt = none ∧ copying.cur.mat.queue.length < 8 := by
  simp only [Runs, SourcesReady, SourceReady, Quiet, Claims.NoAcquire, Claims.PinsLeft, Claims.Listed, Claims.ProductOk]; decide +kernel

/-- Registers of a gang of two: descriptors of K = 128, with gathers and for both members, and the highest tile address. -/
def products : State :=
  regs [(12, 128), (13, 0x100000000080), (14, 0x3000080), (15, 0x100003000080), (16, 0x3F0000)] (ganged (start .x))

/-- MatrixIssue: a product of each kind, the ganged ones for both members of a gang of two, and the single-step commands at the
highest row address. -/
theorem witness_MatrixIssue :
    (∀ i ∈ [Instr.mma (mkR 0x80 0 2 12 0), .mmaG (mkR 0x81 0 2 13 0), .mmag (mkR 0xAF 0 2 14 0x100), .mmagG (mkR 0x80 0 2 15 0),
      .mzero (mkR 0xAF 0 0 0 0), .mst (mkR 0 0x80 16 0 0), .mldacc (mkR 0x80 16 0 0 0), .madd (mkR 0x80 0x81 0x82 0 0)], Runs i products) ∧
    SourcesReady products [⟨0, false⟩, ⟨2, false⟩, ⟨12, false⟩, ⟨13, false⟩, ⟨14, false⟩, ⟨15, false⟩, ⟨16, false⟩] ∧
    products.src 16 = 0x3F0000 ∧ tileNo 0xAF < products.cur.placeD.tiles ∧ 0x3F0000 + 65536 ≤ products.cur.placeD.spBytes ∧
    products.cur.shareHalt = none ∧ (partnerCores products 0x3000080).Nodup ∧
    (∀ p ∈ partnerCores products 0x3000080, (products.core p).mat.queue.length < 8 ∧
      ((products.core p).bar (descBar 0x3000080)).done < 65535) := by
  simp only [Runs, SourcesReady, SourceReady, Quiet]; decide +kernel

/-- The checks of R189 on the four products, at the lowest and the highest addresses. -/
theorem witness_ProductOk :
    Claims.ProductOk products (mkR 0x80 0 2 12 0) false false 0 0x1FFFFC0 128 ∧
      Claims.ProductOk products (mkR 0x81 0 2 13 0) true false 0 0 0x100000000080 ∧
      Claims.ProductOk products (mkR 0xAF 0 2 14 0x100) false true 0x3FFFC0 0 0x3000080 ∧
      Claims.ProductOk products (mkR 0x80 0 2 15 0) true true 0 0 0x100003000080 := by
  simp only [Claims.ProductOk]; decide +kernel

/-- MatrixResults. -/
theorem witness_MatrixResults :
    Runs (.mwait (mkR 0 0 0 0 0)) sX ∧ sX.cur.shareHalt = none ∧ sX.cur.mat.mseq = sX.cur.mat.mnext ∧ Runs (.mstat (mkR 1 0 0 0 0)) sX ∧
    DestReady sX 1 ∧ sX.cur.mat.queue.length ≤ 8 ∧
    (let s := regs [(5, 127)] (sX.modCur (fun k => { k with vec := { k.vec with vtype := 2 } }));
      Runs (.macc (mkR 0x40 0xAF 5 0 0)) s ∧ SourcesReady s [⟨5, false⟩] ∧ (s.src 5).toNat ≤ 127 ∧ tileNo 0xAF < s.cur.placeD.tiles ∧
      (s.cur.vreg 0x40).empty = false ∧ (∀ m ∈ s.cur.mat.queue, tileNo 0xAF ∉ m.tilesNamed) ∧ s.cur.vec.w = 32) ∧
    (let l := List.replicate 8 (⟨5, 0x087F⟩ : Segment);
      let s := sX.modCur (fun k => { k with producers := [.macc 0x5F l] });
      (s.core 0).producers[0]? = some (.macc 0x5F l) ∧ l.length = 8) := by
  simp only [Runs, SourcesReady, SourceReady, DestReady, Quiet]; decide +kernel

theorem tabGet_const {α : Type} (d t : α) (k : Nat) : ∀ l : List Nat, k ∈ l → tabGet d (l.map (fun i => (i, t))) k = t
  | i :: r, h => by
    by_cases e : i = k
    · simp [tabGet, e]
    · simp only [List.map_cons, tabGet, if_neg e]
      exact tabGet_const d t k r (by simpa [Ne.symm e] using h)

/-- A scratchpad line that no write covers has the listed tag and mark. -/
theorem view_sp {s : State} {l : Tab Tag} (hw : s.writes = []) (hl : (s.core 0).spTags = l) (hm : (s.core 0).spMarks = []) (p : Party)
    {n : Nat} (hn : n < 65536) :
    (viewImg s p (spLoc 0 (64 * n))).tag = tabGet Config.tagRaw l n ∧ (viewImg s p (spLoc 0 (64 * n))).mark = false := by
  have e : 64 * n % 0x400000 / 64 = n := by omega
  unfold viewImg imageOf lineWrites
  rw [hw]
  simp [baseImg, spLoc, hl, hm, Config.spBytes, e, lineOrder]

/-- A product of two K-steps, and one of one K-step with an index vector, on FP4 lines. -/
def stepping (w d : Word) : State := headed (command w 0 0 d) (lined 128 (mkTag 6 0 127) sX)

/-- A started command at the head of an engine. -/
theorem head_of {s : State} {m : MatCmd} (h : (s.core 0).mat.queue.head? = some m) (r : engineReady s 0 m = true)
    (t : m.started = true) : Claims.EngineHead s (startCommand 0 m s) 0 m m := by
  refine ⟨h, r, ?_, rfl⟩
  cases m
  cases t
  rfl

/-- A command that has started changes nothing as it starts. -/
theorem start_started {s : State} {m : MatCmd} (t : m.started = true) : startCommand 0 m s = s := by
  unfold startCommand
  rw [if_pos t]

/-- What a K-step reads when it may: from its place on, and its operands. -/
theorem reads_of {α : Type} {x : Except EngStop α} (h : x.toOption.isSome = true) : ∃ a, x = .ok a := by
  cases x with
  | error _ => cases h
  | ok a => exact ⟨a, rfl⟩

/-- A product ready to step, from its place on. -/
theorem ready_of {s s1 : State} {m m1 : MatCmd} {step : Nat} {l : List Nat} (h : (s.core 0).mat.queue.head? = some m1)
    (r : engineReady s 0 m1 = true) (t : m1.started = true) (hm : m1.isMma = true) (hs : step = (s.core 0).mat.step.toNat)
    (hk : step < descK m1.cv / 128 ∧ descK m1.cv ≤ 4096)
    (hi : m1.gather = true → m1.index = none → readIndexVector s 0 m1 step = .ok l) (he : (m, s1) = Claims.readied s 0 m1 l)
    (ho : (match kPlace s1 0 m step with
      | .ok p => (kOperands s1 0 { m with place := some p } step).toOption.isSome
      | .error _ => false) = true) (hu : unitOrder s1 0 ≠ []) :
    ∃ p o int, Claims.StepReady s s1 0 m step p o int := by
  cases hp : kPlace s1 0 m step with
  | error e => rw [hp] at ho; cases ho
  | ok p =>
    rw [hp] at ho
    obtain ⟨o, ho⟩ := reads_of ho
    refine ⟨p, o.1, o.2, s, m1, m1, l, ?_, hm, hs, hk.1, hk.2, hi, he, hp, ho, hu⟩
    have := head_of h r t
    rwa [start_started t] at this

/-- As `command`, a share that the member of index 0 has placed, and a gang of two with it at the head of the leader's engine. -/
def share (w d : Word) : MatCmd := { command w 0 0 d with share := some (1, 0) }
def sharing (w d : Word) : State := headed (share w d) (ganged (lined 128 (mkTag 6 0 127) sX))

/-- A core whose matrix engine owes X a fault, and one whose two streams wait for each other's queues. -/
def owing (s : State) : State :=
  s.modCur (fun k => { k with mat := { k.mat with halt := some ⟨.tagClass, 5, false, none, none, 0, false⟩ } })
def cycled : State := sA.modCur (fun k => { k with
  qidle := 65536, a := { k.a with wait := some ⟨.queue 0xC6 false, 0⟩ }, x := { k.x with wait := some ⟨.queue 0xC0 false, 0⟩ } })

/-- UnattendedTraps: a fault owed at U and at S, and a core whose streams wait for each other's queues. -/
theorem witness_UnattendedTraps :
    ((owing sX).core 0).canIssue .x = true ∧ ((owing sX).core 0).owedFault .x ≠ none ∧ ((owing sX).streamAt 0 .x).level = .u ∧
    ((owing (atS sX)).core 0).canIssue .x = true ∧ ((owing (atS sX)).core 0).owedFault .x ≠ none ∧
    ((owing (atS sX)).streamAt 0 .x).level = .s ∧
    bit ((owing sX).streamAt 0 .x).wctl 7 = false ∧ bit ((owing (atS sX)).streamAt 0 .x).wctl 7 = false ∧
    ((owing sX).streamAt 0 .x).stepPending = false ∧ 65536 ≤ (cycled.core 0).qidle ∧ qidleAdvances cycled 0 = true := by decide +kernel

/-- Atomics: each on RAW data, AMOFADD on FP32, AMOCAS that finds and misses its value. -/
theorem witness_Atomics :
    (∀ op ∈ [AmoOp.add, .min, .max, .and, .or, .xor, .swp, .cas, .fadd], Runs (Claims.amoOf op (mkM 1 2 3 0 0 3 3)) (filled sA)) ∧
    SourcesReady (filled sA) [⟨1, false⟩, ⟨2, false⟩, ⟨3, false⟩] ∧ DestReady (filled sA) 1 ∧
    Claims.Reaches (filled sA) .write 0x10000 page ⟨.hbm, 1024⟩ ∧ Claims.NoAcquire (filled sA) ∧
    creditFor (filled sA) ⟨.hbm, 1024⟩ ≤ (filled sA).cur.credit ∧ Claims.AtHand (filled sA) ⟨.hbm, 1024⟩ ∧
    (let l := storeImg (Claims.atAtomic (Claims.claimed (fillTlb 0 page (filled sA)) ⟨.hbm, 1024⟩) (mkM 1 2 3 0 0 3 3) 0 ⟨.hbm, 1024⟩)
        0 ⟨.hbm, 1024⟩;
      (amoLine .add false l 0).toOption.isSome = true ∧ (amoLine .fadd false { l with tag := 0x087F } 0).toOption.isSome = true ∧
      Claims.AmoResult .cas l.tag 0x1122334455667788 7 0x1122334455667788 (some 7) ∧
      Claims.AmoResult .cas l.tag 0x1122334455667788 7 0 none) ∧
    Claims.AtHand ((filled sA).modCur (fun k => { k with ask := some (⟨.peer, 5⟩, true) })) ⟨.peer, 5⟩ := by
  refine ⟨?_, ?_, ?_, ⟨serving (by decide +kernel), ?_, ok_of ?_, ok_of ?_, ?_⟩, ?_⟩ <;>
    (try simp only [Runs, SourcesReady, SourceReady, DestReady, Quiet, Claims.NoAcquire, Claims.AtHand, Claims.AmoResult]) <;> decide +kernel

/-- A table of two rows of 100 µs, with 8 µs to drain; row 0 gives core 0 to nobody and row 1 to guest 0. -/
def tabled (now : Nat) (k : Core) : State :=
  let m0 := (List.range 64).foldl (fun m c => memWrite m (16 + c) 1 0xFF) (memWrite [] 0 8 100)
  let m1 := (List.range 63).foldl (fun m c => memWrite m (4096 + 17 + c) 1 0xFF) (memWrite m0 4096 8 (100 + 2 ^ 32))
  { sA with timeUs := now, ttActive := some ⟨m1, 1, 0, 0⟩ }.setCore 0 k

/-- Fences: from A to every path, at each scope. -/
theorem witness_Fences :
    (∀ m ∈ [(0 : BitVec 13), 0x800, 0x1000, 0x1800], Runs (.fence (mkR 0 1 31 0 m)) { sA with writes := [write 0 true] }) ∧
    unperformed { sA with writes := [write 0 true] } 0 = [] ∧ (write 0 true).performed = true ∧
    (let s := { sA with writes := [write 0 false] };
      Runs (.fence (mkR 0 1 31 0 0)) s ∧ ⟨0, .a⟩ ∈ maskPaths 0 1 ∧ (∀ r ∈ s.writes, homeOpen s r.loc = true)) ∧
    (let s := { tabled 92 (sA.core 0) with writes := [write 0 false] };
      Runs (.fence (mkR 0 1 31 0 0)) s ∧ write 0 false ∈ s.writes ∧ (write 0 false).performed = false ∧
        homeOpen s (write 0 false).loc = false) := by
  and_intros <;> (try simp only [Runs]) <;> decide +kernel

/-- GangBoundaries: a boundary not yet complete and one that is; a gang of two whose first member arrives, and whose last one
does; a barrier with the one arrival that is left, and with a completion to take. -/
theorem witness_GangBoundaries :
    (∀ i ∈ [Instr.phase (mkI 0 0 0), .phaseSplit (mkI 0 0 1), .bara (mkI 0 0 15), .barw (mkI 0 0 0), .bar (mkI 0 0 15)], Runs i (ganged sA)) ∧
    Runs (.phaseJoin (mkI 0 0 0)) sA ∧ (ganged sA).cur.placeD.gsize % 2 ^ 1 = 0 ∧ (ganged sA).strm.phDone = none ∧
    ((ganged sA).cur.stream .x).phIssued = none ∧
    ((ganged sA).modStrm (fun st => { st with phIssued := some (0, 0), phDone := some none })).strm.phDone = some none ∧
    (let w (s : State) (c : Nat) := s.modCore c (fun k => { k with a := { k.a with phIssued := some (0, 0) }, x := { k.x with ended := true } });
      mayArrive (w (ganged sA) 0) 0 = true ∧ completing (arrive 0 (w (ganged sA) 0)) 0 = [] ∧
      mayArrive (w (arrive 1 (w (ganged sA) 1)) 0) 0 = true ∧
      0 ∈ completing (arrive 0 (w (arrive 1 (w (ganged sA) 1)) 0)) 0) ∧
    0 ∈ liveMembers (ganged sA) 0 ∧ (liveMembers (ganged sA) 0).Nodup ∧
    (∀ m ∈ liveMembers (ganged sA) 0, (((ganged sA).core m).bar 15).gens = 0) ∧ ((ganged sA).cur.bar 15).arr = 0 ∧
    (∃ m ∈ liveMembers (ganged sA) 0, m ≠ 0 ∧ (((ganged sA).core m).bar 15).arr ≠ 0 + 1) ∧
    (let s := (ganged sA).modCore 1 (fun k => k.setBar 15 ⟨1, 0, 0, 0⟩);
      ∀ m ∈ liveMembers s 0, m ≠ 0 → ((s.core m).bar 15).arr = 0 + 1) ∧
    (let s := (ganged sA).modCur (fun k => k.setBar 15 ⟨1, 0, 0, 0⟩); (s.cur.bar 15).arr ≠ (s.cur.bar 15).gens) ∧
    0 < (((ganged sA).modCur (fun k => k.setBar 0 ⟨1, 1, 0, 1⟩)).cur.bar 0).done ∧ ((ganged sA).cur.bar 0).done = 0 ∧
    ((ganged sA).modStrm (fun st => { st with barArrived := true })).strm.barArrived = true ∧ (ganged sA).strm.barArrived = false ∧
    ((tryBarrier 0 15 (((ganged sA).modCur (fun k => k.setBar 15 { k.bar 15 with arr := (k.bar 15).arr + 1 })).modStrm
      (fun st => { st with barArrived := true }))).cur.bar 15).done = 0 := by
  simp only [Runs]; decide +kernel

/-- SequenceWaits: a target that is covered, one that is not, and one beyond CNEXT. -/
theorem witness_SequenceWaits :
    Runs (.waitseqC (mkI 0 0 1)) sA ∧ Runs (.waitseqM (mkI 0 0 1)) sX ∧ SourcesReady sA [⟨0, false⟩] ∧ SourcesReady sX [⟨0, false⟩] ∧
    sX.cur.shareHalt = none ∧ (BitVec.ofInt 64 ((sA.src 0).toNat + (1 : BitVec 31).toInt) : Word).toNat = 1 ∧
    sA.cur.copy.cnext.toNat < 1 ∧ sX.cur.mat.mseq.toNat < 1 ∧
    (let s := sA.modCur (fun k => { k with copy := { k.copy with cnext := 1, cseq := 1 }, mat := { k.mat with mseq := 1 } });
      1 ≤ s.cur.copy.cseq.toNat ∧ 1 ≤ s.cur.copy.cnext.toNat ∧ 1 ≤ s.cur.mat.mseq.toNat) ∧
    (let s := sA.modCur (fun k => { k with copy := { k.copy with cnext := 1 } });
      s.cur.copy.cseq.toNat < 1 ∧ 1 ≤ s.cur.copy.cnext.toNat) := by
  simp only [Runs, SourcesReady, SourceReady, Quiet]; decide +kernel

/-- LAUNCH into a queue with room, and the two forms of DONATE. -/
def launching : State := (filled sA).modGuest 0 (fun x => { x with
  lq := [(3, { LaunchQueue.reset with ctl := 0x10004, base := 0x30000 })] })

theorem witness_LaunchAndDonate :
    Runs (.launch (mkR 0 2 5 0 0)) (regs [(5, 3)] launching) ∧ SourcesReady (regs [(5, 3)] launching) [⟨2, false⟩, ⟨5, false⟩] ∧
    ((regs [(5, 3)] launching).src 5).toNat < 4 ∧ Claims.Reaches (regs [(5, 3)] launching) .read 0x10000 page ⟨.hbm, 1024⟩ ∧
    Claims.NoAcquire (regs [(5, 3)] launching) ∧
    tagClass (readLine 0 .a page 0x10000 ⟨.hbm, 1024⟩ (orderAt 0 ⟨.hbm, 1024⟩ none (fillTlb 0 page (regs [(5, 3)] launching)))).1.tag = 0 ∧
    (let s := { regs [(5, 3)] launching with tags := tabPut launching.tags 1024 0x0200 };
      tagClass (readLine 0 .a page 0x10000 ⟨.hbm, 1024⟩ (orderAt 0 ⟨.hbm, 1024⟩ none (fillTlb 0 page s))).1.tag ≠ 0) ∧
    ((launching.guest 0).queue 0).enabled = false ∧
    (let s := launching.modGuest 0 (fun x => x.setQueue 3 { x.queue 3 with stat := 0x8000000000000000 });
      ((s.guest 0).queue 3).enabled = true ∧ ((s.guest 0).queue 3).faulted = true) ∧
    (let s := launching.modGuest 0 (fun x => x.setQueue 3 { x.queue 3 with tail := 16 });
      ((s.guest 0).queue 3).enabled = true ∧ ((s.guest 0).queue 3).faulted = false ∧ ((s.guest 0).queue 3).full = true) ∧
    ((launching.guest 0).queue 3).enabled = true ∧ ((launching.guest 0).queue 3).faulted = false ∧
    ((launching.guest 0).queue 3).full = false ∧ Runs (.donate (mkR 0 0 0 0 0)) sA ∧ sA.ttActive = none := by
  refine ⟨?_, ?_, ?_, ⟨serving (by decide +kernel), ?_, ok_of ?_, ok_of ?_, ?_⟩, ?_⟩ <;>
    (try simp only [Runs, SourcesReady, SourceReady, Quiet, Claims.NoAcquire]) <;> decide +kernel

/-- A table of one row of 100 µs, whose entry 0 is guest 0 with guest 1 as its donee; guest 1 has a record for one core. -/
def donating : State :=
  let rows := memWrite (memWrite (memWrite [] 0 8 (100 + 2 * 2 ^ 32)) 128 8 (2 ^ 47 + 2 ^ 40)) 176 8 1
  let s := (sA.modGuest 0 (fun x => x)).setGuest 1 { Guest.reset with
    en := true, gsaveszIn := 1, drained := [⟨⟨0, 0, 0, 0⟩, 1, [], false⟩] }
  { s with ttActive := some ⟨rows, 0, 0, 0⟩ }

theorem witness_donating :
    Runs (.donate (mkR 0 0 0 0 0)) donating ∧ donating.ttActive.isSome = true ∧ doneeOf donating 0 = some 1 ∧
    inDrain ((donating.ttActive).getD ⟨[], 0, 0, 0⟩) donating.timeUs = false ∧ donating.cur.donated = none ∧
    jobCores donating 0 = [0] ∧ doneeReady (admitAll 1 donating) 1 [0] = true ∧ (donating.core 0).mode = .run := by
  and_intros <;> (try simp only [Runs]) <;> decide +kernel

/-- VectorSetupAndMoves. -/
theorem witness_VectorSetupAndMoves :
    Runs (.setvl (mkI 1 3 0x1E)) sV ∧ SourcesReady sV [⟨3, false⟩] ∧ DestReady sV 1 ∧
    Nat.min (sV.src 3).toNat (Nat.min sV.cur.units.vlcap.toNat (64 * sV.cur.units.lanes) * 8 / 32) < 2048 ∧
    (∀ i ∈ [Instr.vmov (mkR 0x46 0x41 0 0 0), .vbcast (mkR 0x5F 7 0 0 0x1000), .vid (mkR 0x46 0 0 0 0), .vins (mkR 0x46 7 5 0 0),
      .vext (mkR 1 0x41 5 0 0), .vretag (mkR 0x46 0x41 7 0 0)], Runs i (regs [(7, 0x087F000000000000)] sV)) ∧
    Claims.VectorReady sV [⟨0x41, false⟩] false 0x46 ∧ Claims.VectorReady sV [⟨7, false⟩] true 0x5F ∧
    Claims.VectorReady sV [⟨0x41, false⟩, ⟨5, false⟩] false 1 ∧ DestReady sV 1 ∧ Claims.TagFits sV 0x087F ∧ Claims.TagFits sV 0 ∧
    (sV.src 5).toNat < sV.cur.vec.vl.toNat ∧ Claims.Sound sV 0x41 0 ∧ tagClass ((sV.cur.vreg 0x41).seg 0).tag = 0 ∧
    (sV.cur.vec.vl.toNat - 1) / Claims.slots sV = 0 := by
  and_intros <;> first
    | exact maskSound (by decide +kernel)
    | exact serving (by decide +kernel)
    | exact ok_of (by decide +kernel)
    | ((try simp only [Runs, SourcesReady, SourceReady, DestReady, Quiet, Claims.TagFits, Claims.Sound]) <;> decide +kernel)

/-- What the statements ask of every segment of the range. -/
theorem witness_segments :
    (∀ g, Claims.InRange sV g → Claims.Sound sV 0x41 g ∧ Claims.Sound sV 0x42 g ∧ Claims.Decodable sV 0x41 g ∧
      Claims.Decodable sV 0x42 g ∧ Claims.Decodable sV 0x43 g ∧ Claims.Decodable sV 0x44 g ∧
      tagFmt ((sV.cur.vreg 0x41).seg g).tag ≤ 9 ∧ fmtWidth (tagFmt ((sV.cur.vreg 0x41).seg g).tag) ≤ sV.cur.vec.w ∧
      (Claims.latticeAt sV [⟨0x41, false⟩, ⟨0x42, false⟩, ⟨0x43, false⟩] g).forbid = false ∧
      (Claims.latticeAt sV [⟨0x44, false⟩, ⟨0x44, false⟩] g).forbid = false ∧
      (Claims.latticeAt sV [⟨0x44, false⟩, ⟨0x44, false⟩] g).int = true ∧ tagScale ((sV.cur.vreg 0x44).seg g).tag = 127 ∧
      (Claims.latticeAt sV [⟨0x41, false⟩, ⟨0x42, false⟩] g).rf = 1) ∧ Claims.InRange sV 0 := by
  refine ⟨fun g hg => ?_, ?_⟩
  · obtain rfl := only_zero (by decide +kernel) hg
    simp only [Claims.Sound, Claims.Decodable]; decide +kernel
  · simp only [Claims.InRange]; decide +kernel

/-- BitwiseVectors, VectorArithmetic and VectorPredicates: every instruction of theirs on those registers. -/
theorem witness_vectorOps :
    (∀ i ∈ ([Instr.viadd, .visub, .vimul, .viand, .vior, .vixor, .vishl, .vishr, .vadd, .vsub, .vmul, .vdiv, .vmin, .vmax,
      .vcmp .eq, .vcmp .uo] : List (RForm → Instr)), Runs (i (mkR 0x46 0x41 0x42 0 0)) sV) ∧
    (∀ i ∈ ([Instr.vfma, .vfms, .vfnma] : List (RForm → Instr)), Runs (i (mkR 0x46 0x41 0x42 0x43 0)) sV) ∧
    (∀ i ∈ ([Instr.vabs, .vneg, .vsqrt, .vrcpe, .vrsqrte, .vexp2, .vlog2] : List (RForm → Instr)), Runs (i (mkR 0x46 0x41 0 0 0)) sV) ∧
    Runs (.vpopc (mkR 1 0x45 0 0 0x1000)) sV ∧ Runs (.vsel (mkR 0x46 0x41 0x42 0 0)) sV ∧ DestReady sV 1 ∧
    Claims.VectorReady sV [⟨0x41, false⟩, ⟨0x42, false⟩, ⟨0x43, false⟩] false 0x46 ∧
    Claims.VectorReady sV [⟨0x41, false⟩, ⟨0x42, false⟩] true 0x46 := by
  and_intros <;> first
    | exact maskSound (by decide +kernel)
    | exact serving (by decide +kernel)
    | exact ok_of (by decide +kernel)
    | ((try simp only [Runs, SourceReady, DestReady, Quiet]) <;> decide +kernel)

/-- ExactValues: finite values in units of 1 and of 2; an encoding of each format. -/
theorem witness_ExactValues :
    Claims.units 0 (.fin true 5 0) = some (-5) ∧ Claims.units 1 (.fin false 3 1) = some 3 ∧ Claims.units 1 (.fin false 3 2) = some 6 ∧
    (∀ f ∈ [1, 2, 3, 4, 5, 6], 1 < 2 ^ fmtWidth f ∧ (decodeFloat f 1 false).isNan = false) := by decide +kernel

/-- VectorTransfers: one line of 32-bit elements each way, and one line through a queue. -/
theorem witness_VectorTransfers :
    Runs (.vlds (mkM 0x46 6 0 0 2 0 0)) (lined 4 0x087F sV) ∧ Claims.VectorReady (lined 4 0x087F sV) [⟨6, false⟩, ⟨0, false⟩] false 0x46 ∧
    (lined 4 0x087F sV).cur.scatters = [] ∧ sV.cur.vec.vstart.toNat < sV.cur.vec.vl.toNat ∧
    Claims.Laid (lined 4 0x087F sV) 64 0 0 [(0, 1, viewImg (lined 4 0x087F sV) ⟨0, .x⟩ ⟨.sp 0, 1⟩)] ∧
    Runs (.vsts (mkM 0 6 0x41 0 0 0 0)) sV ∧ Claims.VectorReady sV [⟨6, false⟩, ⟨0x41, false⟩] false 0 ∧
    (sV.cur.vec.vl.toNat + Claims.slots sV - 1) / Claims.slots sV = 1 ∧ 0x3FFFC0 + 64 ≤ sV.cur.placeD.spBytes ∧
    lineWidth 0x087F sV.cur.vec.w = 32 ∧
    Runs (.vpop (mkR 0x46 0xC0 0 0 0)) (queued sV) ∧ (queued sV).cur.queue 0xC0 = [⟨5, 0, false⟩] ∧
    lineElemsOf 0 false (queued sV).cur.vec.w * (queued sV).cur.vec.w / 512 ≠ 0 ∧
    Runs (.vpush (mkR 0xC6 0x41 0 0 0)) sV ∧ DestReady sV 0xC6 := by
  and_intros <;> first
    | exact maskSound (by decide +kernel)
    | exact serving (by decide +kernel)
    | exact ok_of (by decide +kernel)
    | ((try simp only [Runs, SourceReady, DestReady, Quiet, Claims.Laid]) <;> decide +kernel)

/-- The one group of v1. -/
theorem witness_Grouped : Claims.Grouped sV 0x41 64 0 0 [(0, 1, 0x087F)] := by
  refine ⟨by decide +kernel, rfl, by decide +kernel, by decide +kernel, by decide +kernel, by decide +kernel, fun j hj => ?_,
    by decide +kernel, by decide +kernel, by simp only [Claims.Grouped]; decide +kernel⟩
  obtain rfl : j = 0 := by omega
  and_intros <;> (try simp only [Claims.Sound]) <;> decide +kernel

/-- sV with s2 the last 16 bytes of the own scratchpad. -/
def sC : State := regs [(2, 0x3FFFF0)] sV

/-- ClusterTransfers: four elements of the own scratchpad, the last of it among them. -/
theorem witness_ClusterTransfers :
    Runs (.vgathc (mkR 0x46 2 0x45 0 0)) sC ∧ Claims.VectorReady sC [⟨2, false⟩, ⟨0x45, false⟩] false 0x46 ∧
    Runs (.vscatc (mkR 0 2 0x45 0x41 0)) sC ∧ Claims.VectorReady sC [⟨2, false⟩, ⟨0x45, false⟩, ⟨0x41, false⟩] false 0 ∧
    sC.cur.vec.vstart.toNat < sC.cur.vec.vl.toNat ∧ sC.cur.vec.vl.toNat ≤ 256 ∧ sC.cur.scatters = [] ∧ Claims.Sound sC 0x45 0 ∧
    (∀ i ∈ [0, 1, 2, 3], Claims.ClusterFits sC true (Claims.clusterAddr sC (mkR 0x46 2 0x45 0x41 0) i)) ∧
    (let s := sV.modCur (fun k => { k with producers := [.gather 0x5F [(0, some 0, 0), (255, none, 8)] 32 256 [] false] });
      (s.core 0).producers[0]? = some (.gather 0x5F [(0, some 0, 0), (255, none, 8)] 32 256 [] false) ∧
      ([(0, some 0, 0), (255, none, 8)].map (fun e : Nat × Option Nat × Nat => e.1)).Nodup) ∧
    (let s := sV.modCur (fun k => { k with scatters := [⟨0, 0x3FFFFC, 4, 7, 0x087F⟩] });
      (s.core 0).scatters.find? (fun x => x.member == 0) = some ⟨0, 0x3FFFFC, 4, 7, 0x087F⟩ ∧
      sameJobGang (s.core 0) (s.core 0) = true ∧ tagClass (latestImg s (spLoc 0 0x3FFFFC)).tag = 0) := by
  and_intros <;> first
    | exact maskSound (by decide +kernel)
    | exact serving (by decide +kernel)
    | exact ok_of (by decide +kernel)
    | ((try simp only [Runs, SourceReady, Quiet, Claims.ClusterFits, Claims.Sound]) <;> decide +kernel)

/-- Permutations: slides by a scalar and by an amount, and the permutations by v5. -/
theorem witness_Permutations :
    (∀ i ∈ ([Instr.vslide1up, .vslide1dn, .vslideup, .vslidedn] : List (RForm → Instr)),
      Runs (i (mkR 0x46 0x41 7 0 0)) (regs [(7, 0x087F00003F800000)] sV)) ∧
    (∀ i ∈ ([Instr.vperm, .vcmprs, .vexpnd] : List (RForm → Instr)), Runs (i (mkR 0x46 0x41 0x45 0 0)) sV) ∧
    Claims.VectorReady sV [⟨0x41, false⟩, ⟨7, false⟩] false 0x46 ∧ Claims.VectorReady sV [⟨0x41, false⟩, ⟨0x45, false⟩] false 0x46 ∧
    Claims.TagFits sV (BitVec.extractLsb' 48 16 0x087F00003F800000#64) ∧ ((sV.cur.vreg 0x41).seg 0).tag = 0x087F ∧
    Claims.Sound sV 0x45 0 ∧ Claims.Sound sV 0x41 0 := by
  and_intros <;> first
    | exact maskSound (by decide +kernel)
    | exact serving (by decide +kernel)
    | exact ok_of (by decide +kernel)
    | ((try simp only [Runs, SourceReady, Quiet, Claims.TagFits, Claims.Sound]) <;> decide +kernel)

/-- Reductions: of FP32 and of INT32 elements, and with no slot to add. -/
theorem witness_Reductions :
    (∀ i ∈ ([Instr.vredsumO, .vredsumT, .vredmax, .vredmin] : List (RForm → Instr)),
      Runs (i (mkR 0x46 0x41 0 0 0)) sV ∧ Runs (i (mkR 0x46 0x44 0 0 0)) sV) ∧
    Claims.VectorReady sV [⟨0x41, false⟩] false 0x46 ∧ Claims.VectorReady sV [⟨0x44, false⟩] false 0x46 ∧ sV.cur.vec.vstart = 0 ∧
    sV.cur.vec.vstart.toNat < sV.cur.vec.vl.toNat ∧ sV.cur.vec.w = 32 ∧ Claims.summands sV (mkR 0x46 0x44 0 0 0) 0 = [0, 1, 2, 3] ∧
    sX.cur.vec.vl.toNat ≤ sX.cur.vec.vstart.toNat := by
  and_intros <;> first
    | exact maskSound (by decide +kernel)
    | exact serving (by decide +kernel)
    | exact ok_of (by decide +kernel)
    | ((try simp only [Runs, SourceReady, Quiet]) <;> decide +kernel)

/-- A reduction of v4 is of integers, and one of v1 is not. -/
theorem witness_SumsIntegers :
    Claims.SumsIntegers sV (mkR 0x46 0x44 0 0 0) 0 ∧ ¬ Claims.SumsIntegers sV (mkR 0x46 0x41 0 0 0) 0 := by
  have h1 : Claims.summands sV (mkR 0x46 0x44 0 0 0) 0 = [0, 1, 2, 3] := by decide +kernel
  have h2 : Claims.summands sV (mkR 0x46 0x41 0 0 0) 0 = [0, 1, 2, 3] := by decide +kernel
  have hs : Claims.slots sV = 16 := by decide +kernel
  refine ⟨fun g hg => ?_, fun h => ?_⟩
  · rw [h1, if_neg (by decide), hs] at hg
    obtain ⟨i, hi, rfl⟩ := hg
    have : i / 16 = 0 := by
      rcases (by simpa using hi : i = 0 ∨ i = 1 ∨ i = 2 ∨ i = 3) with rfl | rfl | rfl | rfl <;> rfl
    rw [this]
    decide +kernel
  · have := h 0 (by rw [h2, if_neg (by decide), hs]; exact ⟨0, by decide, rfl⟩)
    revert this
    decide +kernel

/-- Conversions: into BF16 and into CB4. -/
theorem witness_Conversions :
    Runs (.vcvt (mkR 0x46 0x41 0 0 0x10)) sV ∧ Runs (.vcvt (mkR 0x46 0x41 0 0 0x48)) sV ∧ Runs (.vscale (mkR 0x46 0x41 5 0 0)) sV ∧
    Runs (.vqnt (mkR 0x46 0x41 0 0 0x20)) sV ∧ Claims.VectorReady sV [⟨0x41, false⟩, ⟨5, false⟩] false 0x46 ∧
    (sV.cur.bookSlot 255).state = .full ∧ (sV.cur.bookSlot 255).vclass = 0 ∧ fmtWidth 2 ≤ sV.cur.vec.w ∧ fmtWidth 9 ≤ sV.cur.vec.w := by
  and_intros <;> first
    | exact maskSound (by decide +kernel)
    | exact serving (by decide +kernel)
    | exact ok_of (by decide +kernel)
    | ((try simp only [Runs, SourceReady, Quiet]) <;> decide +kernel)

/-- Codebooks: a load into slot 255, its completion, and an expansion with a FULL and with a PENDING slot. -/
theorem witness_Codebooks :
    Runs (.cbload (mkR 0 2 3 0 0)) (regs [(3, 255)] sA) ∧ SourcesReady (regs [(3, 255)] sA) [⟨2, false⟩, ⟨3, false⟩] ∧
    (sA.cur.bookSlot 255).state ≠ .pending ∧ (sA.src 2).toNat % 32 = 0 ∧ (sA.src 3).toNat % 32 ≠ 0 ∧
    Claims.Reaches (regs [(3, 255)] sA) .read 0x10000 page ⟨.hbm, 1024⟩ ∧ Claims.NoAcquire (regs [(3, 255)] sA) ∧
    Nat.min sV.cur.units.vlcap.toNat (64 * sV.cur.units.lanes) * 8 < 0x10000 + 4 * sV.cur.vec.vl.toNat ∧
    (sX.cur.bookSlot 255).state = .unloaded ∧ sX.cur.vec.vl.toNat ≤ sX.cur.vec.vstart.toNat ∧
    (let k : Core := { sV.cur with book := [(255, ⟨.full, 3, 0, 0, 0⟩)] }; (k.bookSlot 255).state = .full ∧ (k.bookSlot 255).vclass ≠ 0) ∧
    (let s := sV.modCur (fun k => { k with
        book := [(255, ⟨.pending, 0, 0, 0, 5⟩)], producers := [.macc 0x5F []] ++ .vdeq 0x46 255 [(0, 3)] 0 32 4 0 false :: [] });
      ((s.core 0).bookSlot 255).state = .pending ∧ ((s.core 0).bookSlot 255).nextClass = 0 ∧
      (s.core 0).producers = [.macc 0x5F []] ++ .vdeq 0x46 255 [(0, 3)] 0 32 4 0 false :: []) ∧
    (let s := sV.modCur (fun k => { k with book := [(255, ⟨.pending, 0, 0, 0, 5⟩)] });
      ((s.core 0).bookSlot 255).state = .pending ∧ Runs (.vdeq (mkR 0x46 0x45 0 3 0)) s) ∧
    Runs (.vdeq (mkR 0x46 0x45 0 3 0)) (regs [(3, 0x1FF)] sV) ∧ Runs (.vdeq (mkR 0x46 0x45 0 3 0x10)) (regs [(3, 0x1FF)] sV) ∧
    Claims.VectorReady (regs [(3, 0x1FF)] sV) [⟨0x45, false⟩, ⟨0, false⟩, ⟨3, false⟩] false 0x46 ∧
    0 + 4 * sV.cur.vec.vl.toNat ≤ Nat.min sV.cur.units.vlcap.toNat (64 * sV.cur.units.lanes) * 8 ∧ Claims.Sound sV 0x45 0 ∧
    tagClass ((sV.cur.vreg 0x45).seg 0).tag = 0 ∧ tagFmt ((sV.cur.vreg 0x45).seg 0).tag = 0 ∧
    (sV.cur.bookSlot 255).state = .full := by
  and_intros <;> first
    | exact maskSound (by decide +kernel)
    | exact serving (by decide +kernel)
    | exact ok_of (by decide +kernel)
    | ((try simp only [Runs, SourcesReady, SourceReady, Quiet, Claims.Sound, Claims.NoAcquire]) <;> decide +kernel)

/-- TagsAndLattice: a line without data and one with; the least and the greatest index, and one beyond each field. -/
theorem witness_TagsAndLattice :
    Runs (.tget (mkR 1 2 0 0 0)) (filled sA) ∧ Runs (.tset (mkR 0 2 3 0 0)) sA ∧ SourcesReady sA [⟨2, false⟩, ⟨3, false⟩] ∧
    DestReady sA 1 ∧ tagClass ((sA.src 3).setWidth 16) < 4 ∧ tagFmt ((sA.src 3).setWidth 16) ≤ 9 ∧
    creditFor sA ⟨.hbm, 1024⟩ ≤ sA.cur.credit ∧
    Claims.Reaches sA .write 0x10000 page ⟨.hbm, 1024⟩ ∧ Claims.Reaches sA .read 0x10000 page ⟨.hbm, 1024⟩ ∧ Claims.NoAcquire sA ∧
    rcFormat (tagFmt ((sA.src 3).setWidth 16)) = false ∧ rcFormat (tagFmt 0x107F) = true ∧ tagClass (lineUnder (fillTlb 0 page sA) 0 ⟨.hbm, 1024⟩).tag < 2 ∧
    2 ≤ tagClass (lineUnder (fillTlb 0 page { sA with tags := tabPut sA.tags 1024 0x0200 }) 0 ⟨.hbm, 1024⟩).tag ∧
    Runs (.latw (mkR 0 2 3 0 0)) (atS sA) ∧ Runs (.latr (mkR 1 2 0 0 0)) (atS sX) ∧ SourcesReady (atS sA) [⟨2, false⟩, ⟨3, false⟩] ∧
    Claims.GoodIndex 0 ∧ Claims.GoodIndex 0x99 ∧ ¬ Claims.GoodIndex 0x9A ∧ ¬ Claims.GoodIndex 0x100 ∧
    Claims.GoodEntry 0 0x8000 ∧ Claims.GoodEntry 0x88 0x2110 ∧ ¬ Claims.GoodEntry 0x11 0x2110 := by
  refine ⟨?_, ?_, ?_, ?_, ?_, ?_, ?_, ⟨serving (by decide +kernel), ?_, ok_of ?_, ok_of ?_, ?_⟩,
    ⟨serving (by decide +kernel), ?_, ok_of ?_, ok_of ?_, ?_⟩, ?_⟩ <;>
    (try simp only [Runs, SourcesReady, SourceReady, DestReady, Quiet, Claims.NoAcquire, Claims.GoodIndex, Claims.GoodEntry]) <;>
    and_intros <;> decide +kernel

/-- InvalidateAndFree: an invalidation of one page and of all, a reserved bit set, one under a pin; a free page before and
after its shootdown, and the end of the shootdown. -/
theorem witness_InvalidateAndFree :
    Runs (.tlbinv (mkR 0 2 0 0 0)) (atS (regs [(2, 1)] sA)) ∧ SourcesReady (atS (regs [(2, 1)] sA)) [⟨2, false⟩] ∧
    fld (1 : Word) 48 16 = 0 ∧ fld (1 : Word) 1 11 = 0 ∧ fld (2 : Word) 1 11 ≠ 0 ∧ (∀ x ∈ guestPins sA 0, tlbinvHits 1 x = false) ∧
    (let s := sA.modCur (fun k => { k with slots := [(0, ⟨0xC0, 0, 0, 0, 64, 1, 0, [], [page], none, []⟩)] });
      ∃ x ∈ guestPins s 0, tlbinvHits 0 x = true) ∧
    Runs (.sealfree (mkR 0 8 0 0 0)) (atS (paged sA)) ∧ SourcesReady (atS (paged sA)) [⟨8, false⟩] ∧
    Claims.Reaches (atS (paged sA)) .free 0x50000000 pageS ⟨.hbm, 0x8400⟩ ∧ pteClass pageS.leaf = 3 ∧
    pageState (atS (paged sA)) 0 0x210000 = .ok 0x8000000000000004 ∧ psSealed 0x8000000000000004 = true ∧
    0x210000 ∉ (atS (paged sA)).strm.freeing ∧
    (let s := ((atS (paged sA)).modStrm (fun st => { st with wait := some ⟨.sealfree, 0⟩, freeing := [0x210000] })).modGuest 0
        (fun x => { x with freed := [0x210000] });
      0x210000 ∈ s.strm.freeing ∧ 0x210000 ∈ (s.guest 0).freed ∧ pageS ∉ (s.guest 0).shooting ∧
        Runs (.sealfree (mkR 0 8 0 0 0)) s) ∧
    (((paged sA).modGuest 0 (fun x => { x with shooting := [pageS] })).guest 0).shooting.find? (fun y => y.covers 0x50000FFF) = some pageS ∧
    placeGpa (paged sA) 0 1 true (0x210000 + 64 * 1023) = .ok ⟨.hbm, 0x87FF⟩ ∧ (atS (regs [(2, 1)] sA)).Serving := by
  refine ⟨?_, ?_, ?_, ?_, ?_, ?_, ?_, ?_, ?_, ⟨serving (by decide +kernel), ?_, ok_of ?_, ok_of ?_, ?_⟩, ?_, ok_of ?_, ?_, ?_, ?_, ?_,
      ok_of ?_, serving (by decide +kernel)⟩ <;>
    (try simp only [Runs, SourcesReady, SourceReady, Quiet]) <;> decide +kernel

/-- A fault record of guest 0, as its number says written or not, and the stream that waits for its answer. -/
def faulted (done : Bool) (s : State) : State :=
  let s := s.modGuest 0 (fun x => { x with
    faults := [⟨5, 0, 0, 0, 0, false, false, 0, 1, 0x123, done⟩], vf := tabPut (tabPut x.vf 0x410 0x30000) 0x418 4 })
  s.modStrm (fun st => { st with pfault := some ⟨5, 0x123, none⟩ })

/-- Answers: a record for a queue with room and for a full one, an answer to a written record, and one to a frozen function. -/
theorem witness_FaultAnswers :
    ((faulted false sA).guest 0).faults.find? (fun r => !r.written) = some ⟨5, 0, 0, 0, 0, false, false, 0, 1, 0x123, false⟩ ∧
    ringSize (fld (((faulted false sA).guest 0).reg 0x418) 0 5) 16 = some 16 ∧
    (((faulted false sA).guest 0).reg 0x420 - ((faulted false sA).guest 0).reg 0x428).toNat < 16 ∧
    placeGpa (faulted false sA) 0 1 true 0x30000 = .ok ⟨.hbm, 0xC00⟩ ∧
    (let s := (faulted false sA).modGuest 0 (fun x => { x with vf := tabPut x.vf 0x420 16 });
      16 ≤ ((s.guest 0).reg 0x420 - (s.guest 0).reg 0x428).toNat) ∧
    ((faulted true sA).guest 0).frozen = none ∧
    (⟨5, 0, 0, 0, 0, false, false, 0, 1, 0x123, true⟩ : FaultRec) ∈ ((faulted true sA).guest 0).faults ∧
    ((faulted true sA).core 0).guest = some 0 ∧ ((faulted true sA).streamAt 0 .a).pfault = some ⟨5, 0x123, none⟩ ∧
    ((faulted true sA).streamAt 0 .a).level = .u ∧ ((faulted true (atS sA)).streamAt 0 .a).level = .s ∧
    ((sA.modGuest 0 (fun x => { x with frozen := some 0 })).guest 0).frozen.isSome = true := by
  refine ⟨?_, ?_, ?_, ok_of ?_, ?_⟩ <;> decide +kernel

/-- A violation record 9 and its ring in host memory. -/
def violated (kind : Nat) (done : Bool) (s : State) : State :=
  { s with viols := [⟨9, kind, 0, 0, 0, 0x1000, 0, 0x77, some 0, done⟩], pf := tabPut (tabPut s.pf 0x50000 0x40000) 0x50008 4 }

/-- Answers: a record to write, a frozen stream, a frozen function, a frozen peer. -/
theorem witness_ViolationAnswers :
    (violated 1 false sA).viols.find? (fun r => !r.written) = some ⟨9, 1, 0, 0, 0, 0x1000, 0, 0x77, some 0, false⟩ ∧
    ringSize (fld ((violated 1 false sA).pfReg 0x50008) 0 5) 12 = some 16 ∧
    ((violated 1 false sA).pfReg 0x50010 - (violated 1 false sA).pfReg 0x50018).toNat < 16 ∧
    (let s := violated 3 true (sA.modStrm (fun st => { st with frozen := some 9 }));
      (s.cores.find? (fun e => frozenIn 9 e.2)).map (·.1) = some 0 ∧ (s.streamAt 0 .a).frozen = some 9 ∧
      violOf s 9 = some ⟨9, 3, 0, 0, 0, 0x1000, 0, 0x77, some 0, true⟩ ∧ (s.core 0).place.isSome = true ∧ (s.core 0).mode = .run) ∧
    (let s := violated 4 true (sA.modGuest 0 (fun x => { x with frozen := some 9 }));
      s.cores.find? (fun e => frozenIn 9 e.2) = none ∧ (s.guests.find? (fun e => decide (e.2.frozen = some 9))).map (·.1) = some 0) ∧
    (let s := violated 5 true { sA with peerFrozen := [(15, 9)] };
      s.cores.find? (fun e => frozenIn 9 e.2) = none ∧ s.guests.find? (fun e => decide (e.2.frozen = some 9)) = none ∧
      s.peerFrozen.find? (fun e => e.2 == 9) = some (15, 9)) := by
  and_intros <;> decide +kernel

/-- A launch record for one core with entry points 0x100 and 0x200. -/
def record : BitVec 512 := BitVec.ofNat 512 (0x100 + 2 ^ 64 * 0x200 + 2 ^ 192 * 1 + 2 ^ 224 * 1)
/-- A guest that owns core 0, with that record admitted in its queue `q`, waiting as long as `w` says. -/
def admitted (q w : Nat) (age : Word) : State :=
  let rows := memWrite [] 0 8 (100 + 2 ^ 32)
  let s := (State.reset.setCore 0 { Core.reset with guest := some 0 }).setGuest 0 { Guest.reset with
    en := true, gsaveszIn := 8, vf := [(0x700, age)]
    lq := [(q, { LaunchQueue.reset with ctl := 0x10004, base := 0x30000, tail := 1, headRec := some (record, 0), waited := w, prio := q })] }
  { s with ttActive := some ⟨rows, 0, 0, 0⟩ }

/-- Gangs: a member whose work is over, a head that can be placed, and one that has waited. -/
theorem witness_Gangs :
    mayEnd (sA.modCore 0 (fun k => { k with a := { k.a with ended := true }, x := { k.x with ended := true } })) 0 = true ∧
    (∀ e ∈ State.reset.cores, e.2.guest ≠ some 0) ∧
    ((admitted 3 0 0).guest 0).drained = [] ∧ ((admitted 3 0 0).guest 0).ageLimit = 0 ∧
    (((admitted 3 0 0).guest 0).queue 3).enabled = true ∧ (((admitted 3 0 0).guest 0).queue 3).faulted = false ∧
    (((admitted 3 0 0).guest 0).queue 3).headRec = some (record, 0) ∧ depMet ((admitted 3 0 0).guest 0) record = true ∧
    (((admitted 3 0 0).guest 0).queue 3).tail = (((admitted 3 0 0).guest 0).queue 3).head + 1 ∧ recF record 224 32 = 1 ∧
    recordFits (admitted 3 0 0) 0 record = true ∧ headPlace (admitted 3 0 0) 0 record = some [0] ∧
    (∃ e ∈ (admitted 3 0 0).cores, e.2.guest = some 0) := by
  and_intros <;> decide +kernel

/-- Gangs: a head in a guest with no core free that has aged, and one that has not. -/
theorem witness_AgedHeads :
    (let s := (admitted 3 400 100).setCore 0 { Core.reset with guest := some 0, mode := .hold };
      freeCores s 0 = [] ∧ (readyHeads (s.guest 0)).contains 3 = true ∧ effPrio (s.guest 0) 3 < ((s.guest 0).queue 3).prio ∧
      mayReserve (s.guest 0) 3 = true ∧ recordFits s 0 record = true ∧ 1 ≤ recF record 192 8) ∧
    mayReserve ((admitted 3 399 100).guest 0) 3 = false := by
  and_intros <;> decide +kernel

/-- LaunchQueueRegisters: a function that may not send, a queue that is disabled, full, or has room. -/
theorem witness_LaunchQueueRegisters :
    (State.reset.guest 127).maySend = false ∧ ((admitted 3 0 0).guest 0).maySend = true ∧
    (((admitted 3 0 0).guest 0).queue 0).enabled = false ∧ (((admitted 3 0 0).guest 0).queue 3).enabled = true ∧
    (((admitted 3 0 0).guest 0).queue 3).full = false ∧
    ((((admitted 3 0 0).modGuest 0 (fun x => x.setQueue 3 { x.queue 3 with tail := 16 })).guest 0).queue 3).full = true ∧
    ((sA.modGuest 0 (fun x => { x with frozen := some 0 })).guest 0).frozen.isSome = true ∧ (sA.guest 0).frozen = none := by
  and_intros <;> decide +kernel

/-- A guest with a queue of 16 slots and one record, under a Timetable of two rows. -/
def posting (now : Nat) : State := (tabled now (sA.core 0)).modGuest 0 (fun x => { x with
  lq := [(3, { LaunchQueue.reset with ctl := 0x10004, base := 0x30000, tail := 1 })] })

/-- Edges: before the drain window, within it, at the edge; a core that drains, one that stopped and one in CLEAR. -/
theorem witness_Edges :
    (let t := ((tabled 0 Core.reset).ttActive).getD ⟨[], 0, 0, 0⟩;
      edgeTime t = 100 ∧ inDrain t 91 = false ∧ inDrain t 92 = true ∧
      drainingCores t (nextRow t none) (tabled 92 (sA.core 0)) = [0] ∧ ((tabled 92 (sA.core 0)).core 0).mode = .run ∧
      drainingCores t (nextRow t none) (tabled 92 Core.reset) = [] ∧
      (nextRow t none).row = 1 ∧ rowOwner (nextRow t none).rows (nextRow t none).row 0 = some 0 ∧
      ((tabled 100 Core.reset).core 0).guest = none ∧ ((tabled 100 Core.reset).guest 0).en = true) ∧
    (let s := tabled 100 { sA.core 0 with mode := .stop };
      (s.core 0).mode = .stop ∧ partiesStopped s 0 = true ∧ (s.core 0).place.isSome = true) ∧
    partiesStopped (tabled 100 { Core.reset with mode := .stop }) 0 = true ∧
    ((tabled 100 { Core.reset with mode := .clear }).core 0).mode = .clear ∧
    (let s := tabled 92 { sA.core 0 with mode := .clear, donated := some 0 }; let t := (s.ttActive).getD ⟨[], 0, 0, 0⟩;
      0 ∈ drainingCores t (nextRow t s.ttNext) s ∧ (s.core 0).mode ≠ .run ∧ (s.core 0).mode ≠ .idle) ∧
    (let s := tabled 100 { sA.core 0 with mode := .clear, guest := some 0 }; tenantAfter s 0 = (s.core 0).guest) ∧
    (let s := tabled 100 { sA.core 0 with mode := .clear, guest := some 5 }; tenantAfter s 0 ≠ (s.core 0).guest) ∧
    (let s := tabled 100 { sA.core 0 with guest := some 5 }; let t := (s.ttActive).getD ⟨[], 0, 0, 0⟩;
      0 ∈ drainingCores t (nextRow t s.ttNext) s ∧ (s.core 0).mode = .run) ∧
    (let s := tabled 100 Core.reset; let t := (s.ttActive).getD ⟨[], 0, 0, 0⟩; 0 ∉ overrunCores t (nextRow t s.ttNext) s) ∧
    (let s := donating.modCore 0 (fun k => { k with mode := .clear, donated := some 0 });
      (s.core 0).mode = .clear ∧ (s.core 0).donated = some 0 ∧ doneeOf s 0 = some 1 ∧ (s.guest 1).en = true) := by
  and_intros <;> decide +kernel

/-- TimetableCommits: a table that may be committed and one while a validation runs. -/
theorem witness_TimetableCommits :
    ttBusy sA = false ∧ (let s := sA.setPf ttctlOff 0x80000000; ttBusy s = true ∧ bit (s.pfReg ttctlOff) 31 = true) ∧
    (let s := { sA with ttNext := some ([], 5, 0) }; ttBusy s = true ∧ bit (s.pfReg ttctlOff) 31 = false ∧
      fld (5 + 2 ^ 31 : Word) 0 9 ≠ fld (s.pfReg ttctlOff) 0 9) ∧
    (let s := { sA.setPf ttctlOff 0x80000000 with ttCommit := [(0, gresReset, 0, 0), (7, 5, 6, 7)] };
      s.ttCommit = [(0, gresReset, 0, 0)] ++ (7, 5, 6, 7) :: [] ∧ bit (s.pfReg ttctlOff) 31 = true) := by
  and_intros <;> decide +kernel

/-- A Fuller ring of guest 0 at 0x30000 with two records: 4 KiB at GPA 0x40000 under policy 1, and one under policy 0. -/
def fullered (fs : List FullerWork) : State :=
  let s := sA.modGuest 0 (fun x => { x with
    vf := tabPut (tabPut (tabPut x.vf 0x440 0x30000) 0x448 4) 0x450 2, fuller := fs })
  { s with
    mem := memWrite (memWrite s.mem 0x30000 8 (0x40000 + 2 ^ 7)) 0x30010 8 0x40000
    tags := tabPut (tabPut s.tags 0xC00 0) 0x1000 0x187F
    spans := [0x1000] }

/-- FullerRecords: a good record that stack 0 takes, which has lines of it, and stack 1, which has none; a bad record, first and
behind the other; a line to recode and one to keep, with the home open and closed; the last part of a record. -/
theorem witness_FullerRecords :
    (let s := fullered [];
      (s.guest 0).fullerIndex 0 = 0 ∧ fullerSlot (s.guest 0) 0 = some 0x30000 ∧ fullerWorks s 0 = true ∧
      0 ∉ ((s.guest 0).fullerAt 0).taken ∧ selfRead s 0 0x30000 16 = some 0x40080 ∧ fullerOk s 0 0x40080 = true ∧
      hpaOf (s.guest 0) (regionGpa 0x40080) = 0x40000 ∧ regionBytes 0x40080 / 64 = 64 ∧
      nextHomed 0x40000 0 64 9 0 = some 0 ∧ nextHomed 0x40000 1 64 9 0 = none) ∧
    (let s := (fullered []).modGuest 0 (fun x => { x with vf := tabPut x.vf 0x458 1 });
      fullerSlot (s.guest 0) 0 = some 0x30010 ∧ ((s.guest 0).fullerAt 0).taken = [] ∧ selfRead s 0 0x30010 16 = some 0x40000 ∧
      fullerOk s 0 0x40000 = false) ∧
    (let s := fullered [⟨[0], 0x40080, [(0, 1)], [1, 2, 3, 4, 5, 6, 7], 0, false⟩];
      (s.guest 0).fullerIndex 1 = 1 ∧ fullerSlot (s.guest 0) 1 = some 0x30010 ∧ ((s.guest 0).fullerAt 0).complete = false ∧
      0 ∈ ((s.guest 0).fullerAt 0).taken ∧ tabGet 1 ((s.guest 0).fullerAt 0).next 0 = 1 ∧
      homeOpen s ⟨.hbm, 0x1000⟩ = true ∧ nextHomed 0x40000 0 64 9 1 = some 1 ∧
      homeOpen { s with timeUs := 92, ttActive := (tabled 92 (sA.core 0)).ttActive } ⟨.hbm, 0x1000⟩ = false) ∧
    (let s := fullered [⟨[0], 0x40080, [(0, 64)], [1, 2, 3, 4, 5, 6, 7], 5, false⟩];
      nextHomed 0x40000 0 64 9 64 = none ∧ (((s.guest 0).fullerAt 0).finish 0).complete = true ∧ (s.guest 0).fuller.length ≤ 1 ∧
      placeGpa s 0 1 true 0x30008 = .ok ⟨.hbm, 0xC00⟩) := by
  and_intros <;> first | decide +kernel | exact ok_of (by decide +kernel)

/-- HostMemory: a place that the host reaches, a page that is not there, and requests at the ends of a line. -/
theorem witness_HostMemory :
    (sA.guest 0).maySend = true ∧ (State.reset.guest 0).maySend = false ∧ homeOpen sA ⟨.hbm, 1024⟩ = true ∧
    homeOpen (tabled 92 (sA.core 0)) ⟨.hbm, 1024⟩ = false ∧ ((tabled 92 (sA.core 0)).guest 0).maySend = true ∧
    hostPlace (tabled 92 (sA.core 0)) 0 0x10000 false = .ok (page, ⟨.hbm, 1024⟩) ∧ hostPlace sA 0 0x10000 true = .ok (page, ⟨.hbm, 1024⟩) ∧
    (hostPlace sA 0 (2 ^ 47) true).toOption.isSome = false ∧ pteClass page.leaf = 0 ∧ bit page.leaf 10 = false ∧
    (0x1003F : Nat) % 64 + 1 ≤ 64 ∧ 0x800 / 2 * 64 = 0x10000 ∧ tagFmt 0x487F ≤ 9 ∧ tagClass 0x0300 ≤ 3 ∧ 10 ≤ tagFmt 0x507F ∧
    4 ≤ tagClass 0x0400 := by
  refine ⟨?_, ?_, ?_, ?_, ?_, ok_of ?_, ok_of ?_, ?_⟩ <;> decide +kernel

/-- Guests: a guest that is enabled and one that is not, one that owns a core and one that does not, and a period at its end. -/
theorem witness_Guests :
    (sA.guest 0).en = true ∧ (sA.guest 127).en = false ∧ ownsNow sA 0 = true ∧ ownsNow sA 127 = false ∧
    (let s := { sA with timeUs := 5 }.modGuest 0 (fun x => { x with period := some (5, 1), pending := [0, 63], unmasked := [63] });
      (s.guest 0).period = some (5, 1) ∧ 5 ≤ s.timeUs ∧ (s.guest 0).maySend = true) := by
  and_intros <;> decide +kernel

/-- HostRegisters: a window onto a stream that is halted, onto its CSRs, and onto nothing; registers of both functions. -/
theorem witness_HostRegisters :
    (let s := (sA.setPf 0x60000 (0x100 + 63 * 2 ^ 20)).modStrm (fun st => { st with wayf := tabPut st.wayf 0 0x80 });
      dbgSpace s = 1 ∧ dbgCode s = 63 ∧ dbgNames s = true) ∧
    (let s := sA.setPf 0x60000 (0x302 * 2 ^ 10); dbgOpen s = true ∧ dbgNames s = true ∧ dbgSpace s = 0 ∧ dbgCsr s = 0x302) ∧
    dbgOpen (sA.setPf 0x60000 5) = false ∧ (pfMasks 0x50018).isSome = true ∧ (vfMasks 0x400).isSome = true ∧
    (sA.guest 0).frozen = none ∧ ((sA.modGuest 0 (fun x => { x with frozen := some 0 })).guest 0).frozen.isSome = true := by
  and_intros <;> decide +kernel

/-- ViewsAndCycles: a published write that a path does not see yet, one that is pending, and a counter one below its wrap. -/
theorem witness_ViewsAndCycles :
    (let r := { write 3 true with pub := some .system, writer := none };
      let s := { sA with writes := [r] };
      s.writes.find? (fun r => r.id == 3) = some r ∧ reachesParty s r ⟨0, .x⟩ = true ∧ (s.core 0).place.isSome = true) ∧
    (let r := { newWrite sA 0 .x ⟨.sp 0, 5⟩ 255 7 none none with id := 4, performed := true };
      mayReach r ⟨0, .m⟩ = true ∧ mayReach { r with loc := ⟨.sp 1, 5⟩, kind := .scatter 7 } ⟨1, .a⟩ = true ∧
      ({ sA with writes := [r] }.writes.find? (fun r => r.id == 4)) = some r) ∧
    reachesParty sA (write 3 true) ⟨0, .x⟩ = false ∧ mayReach (write 3 true) ⟨0, .x⟩ = false ∧ (sA.core 63).mode ≠ .run ∧ (sA.core 0).mode = .run ∧
    (let s := sA.modCur (fun k => { k with pmc := [(0, 0xFFFFFFFFFFFF), (8, 0xF00000000001)] });
      ((s.core 0).pmcReg 0).toNat = 2 ^ 48 - 1) := by
  and_intros <;> decide +kernel

/-- Links: a link that is up and one that is not; an inbound entry that admits a request, and a request without one. -/
theorem witness_Links :
    linkReady sA 15 = false ∧
    (let s := (sA.setPf linkstatOff 0x8000).setPf 0x88000 (2 ^ 63 + 2 ^ 62 + 2 ^ 47 + 2 ^ 16 * 3 + 7);
      let q : PeerReq := ⟨15, 3, 7, 0, 0x10000, .write 5 0x0800⟩;
      linkReady s 15 = true ∧ (inboundMatch s q).isSome = true ∧ inboundMatch s { q with dev := 4 } = none ∧
      gpaPasses (s.guest 0) q.gpa = true ∧ tagFmt 0x0800 ≤ 9 ∧ tagClass 0x0800 ≤ 3) := by
  and_intros <;> decide +kernel

/-- Retirements: a bank, a row and a lane that are marked and ones that are not. -/
theorem witness_Retirements :
    (let s := { sA with errCounts := [⟨5, 7, 127, [], true, true⟩, ⟨7, 7, 3, [], true, true⟩, ⟨8, 15, 7, [], true, true⟩] };
      isMarked s 5 7 127 = true ∧ isMarked s 7 7 (15 % 2 + 2 * 1) = true ∧ isMarked s 8 15 7 = true ∧
      2 ≤ lanesLeft (s.pfReg (0x71400 + 8 * 15)).toNat ∧ (s.pfReg (0x71400 + 8 * 15)).toNat < 256 ∧
      isMarked s 8 15 0 = false ∧ bit (s.pfReg (0x71400 + 8 * 15)) 0 = false ∧
      lanesLeft ((s.setPf (0x71400 + 8 * 15) 0x7F).pfReg (0x71400 + 8 * 15)).toNat < 2) ∧
    isMarked sA 5 0 0 = false ∧ isMarked sA 6 0 0 = false ∧ isMarked sA 7 0 0 = false ∧ isMarked sA 8 0 0 = false := by
  and_intros <;> decide +kernel

/-- PowerAndManagement and BringUpWrites: power on and off, a stack and a link asked for, a load that runs, GEN 0 and 1. -/
theorem witness_PowerAndBringUp :
    State.reset.powered = true ∧ { State.reset with powered := false }.powered = false ∧
    bit ((sA.setPf 0xA8010 0x8000).pfReg 0xA8010) 15 = true ∧ bit (sA.pfReg 0xA8010) 15 = false ∧
    bit ((sA.setPf 0xA8020 0x8000).pfReg 0xA8020) 15 = true ∧ tabFind sA.peerFrozen 15 = none ∧
    bit ((sA.setPf 0xA8000 1).pfReg 0xA8000) 0 = true ∧ fld (sA.pfReg ttstatOff) 48 16 = 0 ∧
    fld ((sA.setPf ttstatOff (2 ^ 48)).pfReg ttstatOff) 48 16 ≠ 0 ∧
    ((List.range 7).filter (fun i => bit (2 ^ 22 : Word) (16 + i))).length ≤ 1 ∧
    1 < ((List.range 7).filter (fun i => bit (2 ^ 22 + 2 ^ 16 : Word) (16 + i))).length ∧ testFits 7 3 31 sA = true := by
  and_intros <;> decide +kernel

/-- StepRunsWord: an ADD and a word that names nothing at the pc of core 0, and a LIW with its second word. -/
theorem witness_StepRunsWord :
    (∀ w ∈ [(0x0100020203000000 : Nat), 0], ∀ s, s = placeWord State.reset 64 w →
      s.agenda = [.issue 0 .a] ∧ Claims.ReadyToFetch s 0 .a ∧ (s.streamAt 0 .a).pc.toNat = 0x8000) ∧
    (placeWord State.reset 128 (0x0D00090000000000 + 2 ^ 64 * 5)).agenda = [.issue 0 .a] := by
  refine ⟨?_, by decide +kernel⟩
  intro w hw s hs
  simp only [List.mem_cons, List.not_mem_nil, or_false] at hw
  rcases hw with rfl | rfl <;> subst hs <;> simp only [Claims.ReadyToFetch] <;> and_intros <;> decide +kernel

/-- The words there, as the stream fetches them. -/
theorem witness_WordAt :
    Claims.WordAt (placeWord State.reset 64 0x0100020203000000) 0 .a 0x8000 0x0100020203000000 page ⟨.hbm, 512⟩ ∧
    Claims.WordAt (placeWord State.reset 64 0) 0 .a 0x8000 0 page ⟨.hbm, 512⟩ ∧
    Claims.WordAt (placeWord State.reset 128 (0x0D00090000000000 + 2 ^ 64 * 5)) 0 .a 0x8000 0x0D00090000000000 page ⟨.hbm, 512⟩ ∧
    Claims.WordAt (fillTlb 0 page (placeWord State.reset 128 (0x0D00090000000000 + 2 ^ 64 * 5))) 0 .a 0x8008 5 page ⟨.hbm, 512⟩ := by
  refine ⟨?_, ?_, ?_, ?_⟩ <;>
    exact ⟨by decide, by decide +kernel, ok_of (by decide +kernel), by decide +kernel, _, ok_of (by decide +kernel),
      by decide +kernel, rfl, by decide +kernel, by decide +kernel⟩

/-- DecodeChecks: a word of the other stream's class, one with a field it may not hold, and an S-level word at U. -/
theorem witness_DecodeChecks :
    sA.strm.predTrue (predOf (.vadd (mkR 0x41 0x42 0x43 0 0))) = true ∧
    (streamClass (.vadd (mkR 0x41 0x42 0x43 0 0))).admits sA.turn.2 = false ∧
    (streamClass (.add (mkR 64 1 2 0 0))).admits sA.turn.2 = true ∧ fieldsOk sA.turn.2 (.add (mkR 64 1 2 0 0)) = false ∧
    (streamClass (.tlbinv (mkR 0 1 0 0 0))).admits sA.turn.2 = true ∧ fieldsOk sA.turn.2 (.tlbinv (mkR 0 1 0 0 0)) = true ∧
    isSLevel (.tlbinv (mkR 0 1 0 0 0)) = true ∧ sA.strm.level = .u := by
  and_intros <;> decide +kernel

/-- AccessFrames: as ScalarLoads and ScalarStores, on a VALID line, with no other write about. -/
theorem witness_AccessFrames :
    (filled sA).turn.2 = .a ∧ partitionWrites (filled sA).writes = (filled sA).writes ∧ unperformed (filled sA) 0 = [] ∧
    (∀ r ∈ (filled sA).writes, r.apage = none) ∧ mAcq (mkM 1 2 0 0 0 0 0) = none ∧ mRel (mkM 0 2 3 0 0 0 0) = none ∧
    Runs (.st .d (mkM 0 2 3 0 0 0 0)) (filled sA) ∧ Runs (.ld .d (mkM 1 2 0 0 0 0 0)) (filled sA) ∧
    Claims.Reaches (filled sA) .write 0x10000 page ⟨.hbm, 1024⟩ ∧ tagClass (viewImg (filled sA) ⟨0, .a⟩ ⟨.hbm, 1024⟩).tag = 0 ∧
    tagClass (viewImg (filled sA) ⟨0, .a⟩ ⟨.sp 0, 1⟩).tag = 0 ∧ tagClass (storeImg (filled sA) 0 ⟨.sp 0, 1⟩).tag = 0 := by
  refine ⟨?_, ?_, ?_, ?_, ?_, ?_, ?_, ?_, ⟨serving (by decide +kernel), ?_, ok_of ?_, ok_of ?_, ?_⟩, ?_⟩ <;> (try simp only [Runs]) <;> decide +kernel

/-- FormKept: a state with memory and a write, whose next step executes an instruction. -/
theorem witness_FormKept : Claims.Formed (placeWord State.reset 64 0x0100020203000000) ∧
    Claims.Formed { filled sA with writes := [{ write 1 true with pub := some .system }, write 0 true] } := by
  simp only [Claims.Formed, MemoriesWf]; decide +kernel

/-! ### Clauses and their boundaries -/

/-- MatrixSteps: the first K-step of two, the only one of a product, and one of a share, which the leader of its gang has placed. -/
theorem witness_StepReady :
    (∃ p o int, Claims.StepReady (stepping 0xA100800203040000 256) (stepping 0xA100800203040000 256) 0
      (command 0xA100800203040000 0 0 256) 0 p o int) ∧
    (∃ p o int, Claims.StepReady (stepping 0xA100800203040000 128) (stepping 0xA100800203040000 128) 0
      (command 0xA100800203040000 0 0 128) 0 p o int) ∧
    (∃ p o int, Claims.StepReady (sharing 0xA200800203040000 0x3000080) (sharing 0xA200800203040000 0x3000080) 0
      (share 0xA200800203040000 0x3000080) 0 p o int) := by
  refine ⟨?_, ?_, ?_⟩ <;> exact ready_of (l := []) rfl (by decide +kernel) rfl (by decide +kernel) (by decide +kernel)
    (by decide +kernel) (fun h => absurd h (by decide +kernel)) (by unfold Claims.readied; rw [if_neg (by decide +kernel)])
    (by decide +kernel) (by decide +kernel)

/-- MatrixSteps: the K-step of a product that reads its index vector first. -/
theorem witness_StepGathers : ∃ p o int,
    Claims.StepReady (stepping 0xA101800203040000 0x8000000080)
      (setHead 0 { command 0xA101800203040000 0 0 0x8000000080 with index := some (List.replicate 128 0) }
        (stepping 0xA101800203040000 0x8000000080)) 0
      { command 0xA101800203040000 0 0 0x8000000080 with index := some (List.replicate 128 0) } 0 p o int :=
  ready_of (l := List.replicate 128 0) rfl (by decide +kernel) rfl (by decide +kernel) (by decide +kernel) (by decide +kernel)
    (fun _ _ => ok_of (by decide +kernel)) (by unfold Claims.readied; rw [if_pos (by decide +kernel)])
    (by decide +kernel) (by decide +kernel)

/-- A started command at the head of an engine is there as it runs, in the state as it is. -/
theorem head_started {s : State} {m : MatCmd} (h : (s.core 0).mat.queue.head? = some m) (r : engineReady s 0 m = true)
    (t : m.started = true) : Claims.EngineHead s s 0 m m := by
  have := head_of h r t
  rwa [start_started t] at this

/-- A command at the head of the engine, with STEP, and tiles 0 of kind INT32, 1 of kind FP32 and 2 of kind NONE. -/
def tiled (m : MatCmd) (step : BitVec 6) (s : State) : State := (headed m s).modCur (fun k => { k with mat := { k.mat with
  step := step, acc := [(0, ⟨.int32, [(0, 5)], []⟩), (1, ⟨.fp32, [(16383, 0x3F800000)], [1023]⟩)] } })

/-- MatrixSteps: products whose residues match, and one that fails twice; a product with no K-step left. -/
theorem witness_KSteps :
    (∀ plain n, n < productCount plain → ([6] : List Nat).count n < 2) ∧
    (∀ plain, 0 < productCount plain) ∧ 2 ≤ ([0, 0] : List Nat).count 0 ∧
    (let m := command 0xA100800203040000 0 0 256;
      Claims.EngineHead (tiled m 2 sX) (tiled m 2 sX) 0 m m ∧ m.isMma = true ∧ descK m.cv / 128 ≤ ((tiled m 2 sX).core 0).mat.step.toNat) := by
  refine ⟨fun plain n _ => ?_, fun plain => by cases plain <;> decide, by decide, head_started rfl (by decide +kernel) rfl,
    by decide +kernel, by decide +kernel⟩
  exact Nat.lt_of_le_of_lt (List.count_le_length) (by decide)

/-- MatrixSteps: operands of 128 rows of 128 elements, in either order. -/
theorem witness_KOperands (plain : Bool) :
    let x : List (List (Val × Nat)) := List.replicate 128 (List.replicate 128 (.fin false 3 0, 127))
    let o : KOperands := ⟨x, x, 3, 3, plain⟩
    o.a.length = 128 ∧ (∀ r ∈ o.a, r.length = 128) ∧ o.b.length = 128 ∧ (∀ r ∈ o.b, r.length = 128) ∧ o.plain = plain ∧
      Claims.operand o.a 127 127 = (.fin false 3 0, 127) := by
  refine ⟨List.length_replicate, fun r h => ?_, List.length_replicate, fun r h => ?_, rfl, ?_⟩
  · rw [List.eq_of_mem_replicate h]; exact List.length_replicate
  · rw [List.eq_of_mem_replicate h]; exact List.length_replicate
  · show ((List.replicate 128 (List.replicate 128 (Val.fin false 3 0, 127))).getD 127 []).getD 127 (.zero false, 0) = _
    decide +kernel

/-- MatrixSteps: each single-step command, with STEP 0 and with another. -/
theorem witness_SingleSteps (w : Word) (hw : w ∈ [(0xA000800000000000 : Word), 0xA300008003000000, 0xA400800300000000,
      0xA600AF8080000000]) (step : BitVec 6) (hs : step ∈ [(0 : BitVec 6), 63]) :
    let m := command w 0 0 0
    Claims.EngineHead (tiled m step sX) (tiled m step sX) 0 m m ∧ m.share = none ∧ m.op ∈ [0xA0, 0xA3, 0xA4, 0xA6] ∧
      ((tiled m step sX).core 0).mat.step = step := by
  intro m
  have h : engineReady (tiled m step sX) 0 m = true ∧ m.op ∈ [0xA0, 0xA3, 0xA4, 0xA6] := by
    simp only [List.mem_cons, List.not_mem_nil, or_false] at hw hs
    rcases hw with rfl | rfl | rfl | rfl <;> rcases hs with rfl | rfl <;> decide +kernel
  exact ⟨head_started rfl h.1 rfl, rfl, h.2, rfl⟩

/-- MatrixSteps: MADD of tiles of kind INT32, FP32, FP32 and NONE, and NONE. -/
theorem witness_MaddKinds (w : Word) (kind : TileKind) (h : (w, kind) ∈ [((0xA600AF8080000000 : Word), TileKind.int32),
      (0xA600818181000000, .fp32), (0xA600AF8182000000, .fp32), (0xA600808282000000, .none)]) :
    let m := command w 0 0 0
    let ta := ((tiled m 0 sX).core 0).tile (tileNo m.form.a)
    let tb := ((tiled m 0 sX).core 0).tile (tileNo m.form.b)
    m.op = 0xA6 ∧ kind = (if ta.kind = .none then tb.kind else ta.kind) ∧
      (ta.kind = .none ∨ tb.kind = .none ∨ ta.kind = tb.kind) := by
  simp only [List.mem_cons, Prod.mk.injEq, List.not_mem_nil, or_false] at h
  rcases h with ⟨rfl, rfl⟩ | ⟨rfl, rfl⟩ | ⟨rfl, rfl⟩ | ⟨rfl, rfl⟩ <;> decide +kernel

/-- MatrixSteps: 1,024 FP32 lines for MLDACC. -/
theorem witness_TileLines :
    let m := command 0xA400800300000000 0 0 0
    let s := headed m (lined 1024 0x087F sX)
    Claims.EngineHead s s 0 m m ∧ Claims.TileLines (fun n => viewImg s ⟨0, .m⟩ (spLoc 0 (m.av.toNat + 64 * n))) := by
  intro m s
  refine ⟨head_started rfl (by decide +kernel) rfl, fun n hn => ?_⟩
  have hv : ∀ n, n < 1024 → (viewImg s ⟨0, .m⟩ (spLoc 0 (m.av.toNat + 64 * n))).tag = 0x087F ∧
      (viewImg s ⟨0, .m⟩ (spLoc 0 (m.av.toNat + 64 * n))).mark = false := by
    intro n hn
    have h := view_sp (s := s) rfl (l := (List.range 1024).map (fun i => (i, (0x087F : Tag))))
      (by simp only [s, headed, lined, State.core_modCore]) (by simp only [s, headed, lined, State.core_modCore]; rfl)
      ⟨0, .m⟩ (n := n) (by omega)
    have e : m.av.toNat + 64 * n = 64 * n := Nat.zero_add _
    rw [e]
    exact ⟨h.1.trans (tabGet_const _ _ _ _ (List.mem_range.mpr hn)), h.2⟩
  dsimp only
  rw [(hv n hn).1, (hv 0 (by decide)).1, (hv n hn).2]
  decide

/-- Csrs: an address outside the map, one that X alone holds, in A, one of S level and one RW at S alone at U, and values that
VLCAP does not take. -/
theorem witness_CsrTraps :
    (∀ i ∈ [Instr.csrr (mkI 1 0 0xFFF), .csrw (mkI 0 6 0), .csrs (mkI 1 6 8), .csrc (mkI 1 6 0x340)], Runs i sA) ∧
    SourcesReady sA [⟨6, false⟩] ∧ (∀ a ∈ [0xFFF, 0, 8, 0x340], a ∉ Claims.sharedCsrs) ∧ 0 ∈ Claims.xCsrs ∧ 0xFFF ∉ Claims.xCsrs ∧
    (∀ i ∈ [Instr.csrr (mkI 1 0 0x300), .csrr (mkI 1 0 0x33F), .csrw (mkI 0 6 0x100), .csrs (mkI 1 6 0x10F), .csrw (mkI 0 6 3)], Runs i sX) ∧
    (∀ a ∈ [0x300, 0x33F, 0x100, 0x10F], a ∈ Claims.sharedCsrs) ∧ 3 ∈ Claims.xCsrs ∧ sX.strm.level = .u ∧
    (∀ i ∈ [Instr.csrw (mkI 0 5 0x200), .csrs (mkI 1 5 0x200), .csrc (mkI 1 3 0x200)], Runs i (atS sX)) ∧ (atS sX).strm.level = .s ∧
    SourcesReady (atS sX) [⟨5, false⟩] ∧
    fld (CsrMode.write.combine ((atS sX).cur.units.vlcap.setWidth 64) ((atS sX).src 5)) 0 11 ∉ [64, 128, 256, 512, 1024] ∧
    fld (CsrMode.set.combine ((atS sX).cur.units.vlcap.setWidth 64) ((atS sX).src 5)) 0 11 ∉ [64, 128, 256, 512, 1024] := by
  simp only [Runs, SourcesReady, SourceReady, Quiet]; decide +kernel

/-- AccessFrames and ScalarStores: a VALID line and an RC line within its span; no Timetable, so every home serves. -/
theorem witness_Spanned :
    Claims.Spanned (viewImg (filled sA) ⟨0, .a⟩ ⟨.hbm, 1024⟩) ∧ Claims.Spanned (viewImg (filled sA) ⟨0, .a⟩ ⟨.sp 0, 1⟩) ∧
    Claims.Spanned ⟨BitVec.ofNat 512 (2 ^ 127), mkTag 6 0 127, true⟩ ∧ ¬ Claims.Spanned ⟨BitVec.ofNat 512 (2 ^ 128), mkTag 6 0 127, true⟩ := by
  simp only [Claims.Spanned]; decide +kernel

theorem witness_Serving : sA.Serving ∧ (filled sA).Serving ∧ (queued sA).Serving := ⟨serving rfl, serving rfl, serving rfl⟩

/-- GangBoundaries: no member of the gang is drained; a phase instruction that its boundary has released, and one at a wait; a
BAR whose own arrival is the last. -/
theorem witness_WholeGang :
    Claims.WholeGang (ganged sA) 0 ∧
    (let s := (ganged sA).modStrm (fun st => { st with phIssued := some (2, 0), phDone := some none });
      Runs (Claims.phaseOf 2 (mkI 0 0 0)) s ∧ s.strm.phDone = some none ∧ s.strm.phIssued = some (2, 0)) ∧
    (let s := (ganged sA).modStrm (fun st => { st with phIssued := some (0, 0), wait := some ⟨.phase false, 0⟩ });
      (s.streamAt 0 .a).phIssued.isSome = true ∧ (s.streamAt 0 .a).wait = some ⟨.phase false, 0⟩) ∧
    (let s := (ganged sA).modCore 1 (fun k => k.setBar 15 ⟨1, 0, 0, 0⟩);
      Claims.WholeGang s 0 ∧ Runs (.bar (mkI 0 0 15)) s ∧ s.strm.barArrived = false ∧ (s.cur.bar 15).arr = (s.cur.bar 15).gens ∧
      0 ∈ liveMembers s 0 ∧ (liveMembers s 0).Nodup ∧ (∀ m ∈ liveMembers s 0, ((s.core m).bar 15).gens = (s.cur.bar 15).gens) ∧
      (∀ m ∈ liveMembers s 0, m ≠ 0 → ((s.core m).bar 15).arr = (s.cur.bar 15).gens + 1) ∧ (s.cur.bar 15).done < 65535) := by
  have hw (s : State) (h : (s.guest (s.guestOf 0)).drained = []) : Claims.WholeGang s 0 := fun p _ d hd => by rw [h] at hd; cases hd
  refine ⟨hw _ (by decide +kernel), ?_, by decide +kernel, hw _ (by decide +kernel), ?_⟩ <;>
    simp only [Runs] <;> decide +kernel

/-- LaunchQueueRegisters: a post to a queue with room, whose slot's home serves it or serves save traffic alone. -/
theorem witness_lqpost :
    (((admitted 3 0 0).guest 0).queue 3).full = false ∧ ((admitted 3 0 0).guest 0).maySend = true ∧
    (∀ y l, ringPlace (posting 0) 0 (((posting 0).guest 0).queue 3 |>.slotGva ((((posting 0).guest 0).queue 3).tail)) .free = .ok (y, l) →
      homeOpen (posting 0) l = true) ∧
    ∃ y l, homeOpen (posting 92) l = false ∧
      ringPlace (posting 92) 0 (((posting 92).guest 0).queue 3 |>.slotGva ((((posting 92).guest 0).queue 3).tail)) .free = .ok (y, l) := by
  refine ⟨by decide +kernel, by decide +kernel, fun y l h => ?_, page, ⟨.hbm, 0xC01⟩, by decide +kernel, ok_of (by decide +kernel)⟩
  have := ok_of (a := (page, (⟨.hbm, 0xC01⟩ : Loc))) (x := ringPlace (posting 0) 0
    (((posting 0).guest 0).queue 3 |>.slotGva ((((posting 0).guest 0).queue 3).tail)) .free) (by decide +kernel)
  rw [this] at h
  cases h
  decide +kernel

/-- Gangs: the gang of one core that R305 places on core 0, the one core of its guest. -/
theorem witness_PlacedAt : Claims.PlacedAt (admitted 3 0 0) 0 1 [0] ∧ slotsUsed (admitted 3 0 0) 0 + 1 ≤
    fld ((admitted 3 0 0).guest 0).gsaveszIn 0 32 := by
  have h0 : Claims.Free (admitted 3 0 0) 0 0 := by simp only [Claims.Free]; decide +kernel
  refine ⟨⟨rfl, by decide, ?_, fun _ => ⟨0, by decide, by decide, fun x hx => absurd hx (by omega), ?_⟩, fun h => absurd h (by decide)⟩,
    by decide +kernel⟩
  · intro c hc
    obtain rfl := List.mem_singleton.mp hc
    exact h0
  · intro c hc d hd
    obtain rfl := List.mem_singleton.mp hc
    exact absurd hd (by omega)

/-- Gangs: a guest of all cores, whose gang of 64 takes them all. -/
theorem witness_PlacedWide :
    let s := (List.range 64).foldl (fun s c => s.setCore c { Core.reset with guest := some 0 }) State.reset
    Claims.PlacedAt s 0 64 (List.range 64) := by
  intro s
  have hf : ∀ c, c < 64 → Claims.Free s 0 c := by simp only [Claims.Free]; decide +kernel
  have hs : ∀ x, x < 8 → Claims.HasFree s 0 8 x := fun x hx => by
    refine ⟨hx, (List.range 8).map (8 * x + ·), ?_, by simp, fun c hc => ?_⟩
    · exact (by decide : ∀ x, x < 8 → ((List.range 8).map (8 * x + ·)).Nodup) x hx
    · obtain ⟨p, hp, rfl⟩ := List.mem_map.mp hc
      have := List.mem_range.mp hp
      exact ⟨by omega, hf _ (by omega)⟩
  refine ⟨by decide, List.pairwise_lt_range, fun c hc => hf c (List.mem_range.mp hc), fun h => absurd h (by decide), fun _ =>
    ⟨fun c hc => hs _ (by have := List.mem_range.mp hc; omega), fun c hc st hst _ => ?_⟩⟩
  exact ⟨8 * st, by have := List.mem_range.mp hc; exact List.mem_range.mpr (by omega), by omega⟩

/-- TimetableCommits: the first failure of a shadow of zeros is reason 1 in row 0. -/
theorem witness_FirstFailure (gres save : Nat → Word) : Claims.FirstFailure (sA.setPf ttctlOff 0x80000000) 0 gres save 1 0 0 := by
  refine ⟨.inl ⟨rfl, by decide, rfl, .inl (by decide +kernel)⟩, fun x y z h => ?_⟩
  have hx : x = 0 := by
    rcases h with h | ⟨-, h⟩ <;> omega
  subst hx
  rintro (⟨h, -⟩ | ⟨h, -⟩ | ⟨h, -⟩ | ⟨h, -⟩ | ⟨h, -⟩ | ⟨h, -⟩ | ⟨h, -⟩ | ⟨h, -⟩ | ⟨h, -⟩ | ⟨h, -⟩) <;> cases h

/-- A row of 100 µs that gives every core to nobody. -/
def restRows : Memory := (List.range 64).foldl (fun m c => memWrite m (16 + c) 1 0xFF) (memWrite [] 0 8 100)
/-- Those rows as the shadow to validate, with a table that is active or without. -/
def restful (a : Option Timetable) : State := { sA.setPf ttctlOff 0x80000000 with ttShadow := restRows, ttActive := a }

/-- TimetableCommits: a shadow that passes every check. -/
theorem witness_NoFailure (a : Option Timetable) (ha : a = none ∨ a = some ⟨restRows, 0, 0, 0⟩) (x y z : Nat) :
    ¬ Claims.Fails (restful a) 0 (fun _ => gresReset) (fun _ => 0) x y z := by
  have e0 : ∀ p, p < 8 → Claims.EdgeFits (restful a) (fun _ => gresReset) ⟨restRows, 0, 0, 0⟩ ⟨restRows, 0, 0, 0⟩ p := by
    have h : ∀ p, p < 8 → Claims.EdgeFits (restful none) (fun _ => gresReset) ⟨restRows, 0, 0, 0⟩ ⟨restRows, 0, 0, 0⟩ p := by
      simp only [Claims.EdgeFits]; decide +kernel
    have hb : ∀ p, banksOut (restful a) p = banksOut (restful none) p := fun p => by
      have e : bankOut (restful a) p = bankOut (restful none) p := by
        funext u
        simp only [bankOut, State.pfReg, restful]
      unfold banksOut
      rw [e]
    intro p hp
    have := h p hp
    unfold Claims.EdgeFits Claims.inWays at this ⊢
    rw [hb]
    exact this
  have hs : (restful a).ttShadow = restRows := by simp only [restful]
  have ht : (restful a).ttActive = a := by simp only [restful]
  have hd : rowRead restRows 0 0 8 = 100 := by decide +kernel
  have n0 : rowTenants restRows 0 = 1 := by decide +kernel
  have z0 : rowRead restRows 0 8 8 = 0 ∧ rowRead restRows 0 80 48 = 0 ∧ rowRead restRows 0 168 8 = 0 ∧ tenant restRows 0 0 = 0 ∧
    (rowCores restRows 0 (tenGuest 0)).length = 0 := by decide +kernel
  have z1 : ∀ p, p < 64 → 1 ≤ p → rowRead restRows 0 (128 + 48 * p) 48 = 0 := by decide +kernel
  have z2 : ∀ p, p < 64 → rowMap restRows 0 p = 0xFF := by decide +kernel
  have z3 : ∀ p, p < 32 → Claims.shares restRows 0 p = 0 := by decide +kernel
  generalize restful a = s at *
  generalize restRows = rows at *
  subst hs
  rintro (⟨-, hr, -, h⟩ | ⟨-, hr, h⟩ | ⟨-, hr, hp, h⟩ | ⟨-, hr, hp, j, hj, -⟩ | ⟨-, hr, hp, r', j, hj, -⟩ | ⟨-, hr, hp, h⟩ |
    ⟨-, hr, hp, d, h, -⟩ | ⟨-, hr, hp, h⟩ | ⟨-, hr, hp, h⟩ | ⟨-, hp, b, hb, -, h⟩)
  all_goals first | obtain rfl := Nat.le_zero.mp hr | skip
  · rw [hd] at h; omega
  · rcases h with ⟨-, h⟩ | ⟨hp, h⟩ | ⟨h1, hp, h⟩
    · rw [hd, z0.1, z0.2.1] at h; omega
    · rw [n0] at hp; obtain rfl : z = 0 := by omega
      rw [z0.2.2.2.1, z0.2.2.1] at h
      revert h; decide
    · rw [n0] at h1; exact h (z1 z hp h1)
  · exact h.1 (z2 z hp)
  · rw [n0] at hp; omega
  · rw [n0] at hp; omega
  · rw [z3 z hp] at h; omega
  · rw [n0] at hp; obtain rfl : z = 0 := by omega
    rw [z0.2.2.2.1, show tenDonee 0 = none by decide] at h; cases h
  · exact h (e0 z hp)
  · rw [n0] at hp h; obtain rfl : z = 0 := by omega
    rw [z0.2.2.2.1, z0.2.2.2.2] at h
    rw [show (List.range 1).filter (fun j => decide (tenDonee (tenant s.ttShadow 0 j) = some 0)) = [] by
      simp only [show List.range 1 = [0] from rfl, List.filter, z0.2.2.2.1]; decide] at h
    simp at h
  · rw [ht] at hb
    rcases ha with rfl | rfl
    · cases hb
    · cases hb
      exact h (e0 z hp)

/-- FullerRecords: a line that a policy changes, and lines that it leaves: one of its format, one without the span, a RAW one and a
CB4 one of a slot of its own. -/
theorem witness_Changes :
    Claims.Changes 1 (publishedImg (fullered []) ⟨.hbm, 0x1000⟩) ∧ ¬ Claims.Changes 1 (publishedImg (fullered []) ⟨.hbm, 0x1001⟩) ∧
    Claims.Changes 4 ⟨0, 0x107F, true⟩ ∧ ¬ Claims.Changes 1 ⟨0, 0x107F, true⟩ ∧ ¬ Claims.Changes 3 ⟨0, 0x107F, false⟩ ∧
    ¬ Claims.Changes 3 ⟨0, 0x0000, true⟩ ∧ ¬ Claims.Changes 1 ⟨0, mkTag 9 0 127, true⟩ ∧ Claims.Changes 1 ⟨0, mkTag 9 0 255, true⟩ := by
  refine ⟨?_, ?_, ?_, ?_, ?_, ?_, ?_, ?_⟩ <;> unfold Claims.Changes <;> decide +kernel

/-- Links: a link with a line outstanding twice, on which device 3 answers for guest 7; inbound entry 1 of guest 0 admits guest 7 of
device 3 on link 15. -/
def linked : State := { (((filled sA).setPf linkstatOff 0x8000).setPf 0x88010 (2 ^ 63 + 2 ^ 62 + 2 ^ 47 + 2 ^ 16 * 3 + 7)) with
  peerOut := [(15, peerAddr 3 7 0x40 / 64), (15, peerAddr 3 7 0x40 / 64)] }

theorem witness_PeerRequests :
    linkReady linked 15 = true ∧
    Claims.Served linked ⟨15, 3, 7, 0, 0x10038, .read⟩ ⟨.hbm, 1024⟩ ∧
    Claims.Served linked ⟨15, 3, 7, 0, 0x10000, .write 5 0x487F⟩ ⟨.hbm, 1024⟩ ∧
    Claims.Served linked ⟨15, 3, 7, 0, 0x10038, .atomic .cas 5 0⟩ ⟨.hbm, 1024⟩ ∧ tagClass (systemImg linked ⟨.hbm, 1024⟩).tag = 0 ∧
    (systemImg linked ⟨.hbm, 1024⟩).mark = false ∧ linked.writes = [] ∧
    Claims.AmoResult .cas 0 (word (lineBytes (systemImg linked ⟨.hbm, 1024⟩).bits (0x10038 % 64) 8)) 5 0 (some 5) ∧
    (∀ j, j < 16 → ¬ Claims.Admits ⟨14, 3, 7, 0, 0x10000, .read⟩ (apertureLo linked true 0 j)) ∧
    10 ≤ tagFmt 0x507F ∧ 4 ≤ tagClass 0x0400 := by
  have hs (op : PeerOp) (gpa : Nat) (h : gpaPasses (linked.guest 0) gpa = true)
      (hl : placeGpa linked 0 1 op.writes gpa = .ok ⟨.hbm, 1024⟩) : Claims.Served linked ⟨15, 3, 7, 0, gpa, op⟩ ⟨.hbm, 1024⟩ := by
    refine ⟨⟨1, by decide, ?_, fun i hi => ?_, fun _ => ?_⟩, h, hl, by decide +kernel⟩
    · simp only [Claims.Admits]; decide +kernel
    · obtain rfl : i = 0 := by omega
      simp only [Claims.Admits]; decide +kernel
    · show bit (apertureLo linked true 0 1) 62 = true
      decide +kernel
  refine ⟨by decide +kernel, hs _ _ (by decide +kernel) (ok_of (by decide +kernel)), hs _ _ (by decide +kernel) (ok_of (by decide +kernel)),
    hs _ _ (by decide +kernel) (ok_of (by decide +kernel)), ?_⟩
  simp only [Claims.Admits, Claims.AmoResult]; decide +kernel

/-- Links: responses of three lines that were asked for twice, once and not at all. -/
theorem witness_Asked :
    Claims.Asked linked 15 3 7 [⟨0x40, 5, 0x0000⟩, ⟨0x40, 6, 0x0000⟩] ∧ ¬ Claims.Asked linked 15 3 7 [⟨0x80, 5, 0x0000⟩] ∧
    Claims.Asked linked 15 3 7 [] ∧ ¬ Claims.Asked { linked with peerOut := [] } 15 3 7 [] ∧
    ¬ Claims.Asked linked 15 3 7 [⟨0x40, 5, 0⟩, ⟨0x40, 5, 0⟩, ⟨0x40, 5, 0⟩] ∧ Claims.Asked linked 15 3 7 [⟨0x40, 5, 0x507F⟩] ∧
    (([⟨0x40, 5, 0⟩] : List PeerLine).map (fun x => peerAddr 3 7 x.gpa / 64)).Nodup := by
  have hp : ∃ e ∈ linked.peerOut, e.1 = 15 := ⟨(15, peerAddr 3 7 0x40 / 64), List.mem_cons_self .., rfl⟩
  refine ⟨⟨hp, fun e => ?_⟩, fun h => ?_, ⟨hp, fun e => Nat.zero_le _⟩, fun h => ?_, fun h => ?_, ⟨hp, fun e => ?_⟩, by decide⟩
  · exact Nat.le_refl _
  · exact absurd (h.2 (15, peerAddr 3 7 0x80 / 64)) (by decide +kernel)
  · obtain ⟨⟨e, he, -⟩, -⟩ := h
    cases he
  · exact absurd (h.2 (15, peerAddr 3 7 0x40 / 64)) (by decide +kernel)
  · show List.count e [(15, peerAddr 3 7 0x40 / 64)] ≤ List.count e [(15, peerAddr 3 7 0x40 / 64), (15, peerAddr 3 7 0x40 / 64)]
    rw [List.count_cons, List.count_cons, List.count_cons, List.count_nil]
    omega

/-- HostMemory: a line that the host reaches, one whose home serves save traffic alone, and one behind a link that is down. -/
theorem witness_reachable :
    reachable sA 0 0x10000 ⟨.hbm, 1024⟩ = true ∧ reachable (tabled 92 (sA.core 0)) 0 0x10000 ⟨.hbm, 1024⟩ = false ∧
    reachable sA 0 (2 ^ 47) ⟨.peer, 5⟩ = false := by decide +kernel

/-- HostRegisters: a frozen function, and one that is not, with an overflow entry and without. -/
theorem witness_pmovhi :
    ((sA.modGuest 0 (fun x => { x with frozen := some 0, overflow := [(5, 6)] })).guest 0).frozen.isSome = true ∧
    ((sA.modGuest 0 (fun x => { x with overflow := [(5, 6)] })).guest 0).overflow.head? = some (5, 6) ∧
    (sA.guest 0).overflow.head? = none := by decide +kernel

/-- Retirements: another bank of the layer that works, and lanes of a link of which all, and of which some, are marked. -/
theorem witness_OtherBanks :
    (let s := { sA with errCounts := [⟨6, 7, 127, [], true, true⟩] };
      isMarked s 5 7 127 = false ∧ isMarked s 6 7 127 = true ∧
        ∃ i, i < 32 ∧ i ≠ 31 ∧ bit (s.pfReg (0x71200 + 8 * (4 * 7 + 3))) i = false) ∧
    (let s := { sA with errCounts := (List.range 8).map (fun l => ⟨8, 15, l, [], true, true⟩) };
      (∀ j, j < 8 → isMarked s 8 15 j = true) ∧ 2 ≤ lanesLeft (s.pfReg (0x71400 + 8 * 15)).toNat ∧
        bit (s.pfReg (0x71400 + 8 * 15)) 7 = false) := by
  refine ⟨⟨by decide +kernel, by decide +kernel, 0, by decide, by decide, by decide +kernel⟩, by decide +kernel⟩

/-- Reductions: a summand that is NaN. -/
theorem witness_NanSummand :
    let s := sV.modCur (fun k => { k with vec := { k.vec with v := [(1, vreg 0x087F 0x7FC00000)] } })
    Runs (.vredmax (mkR 0x46 0x41 0 0 0)) s ∧ 0 ∈ Claims.summands s (mkR 0x46 0x41 0 0 0) 0 ∧ (Claims.value s 0x41 0).isNan = true ∧
      Claims.Decodable s 0x41 0 := by
  simp only [Runs, Claims.Decodable, Claims.Sound]; decide +kernel

/-! ### What meets the hypotheses of the clauses on values, flags, shares and waits -/

/-- Csrs: writes of FSTAT in X and of pmcfg0 in A, a counter that X has written in this cycle, VSTART, and MPROG with no command, with
one that runs, and with one whose own fault holds it. -/
theorem witness_CsrWrites :
    csrHeld .x 0x000 = true ∧ csrHeld .a 0x108 = true ∧ 0x108 - 0x100 ∉ sA.cur.pmcX ∧
    (let k : Core := { sA.cur with pmcX := [0] }; 0x100 - 0x100 ∈ k.pmcX) ∧
    Claims.rwBit .x 0x000 5 = true ∧ Claims.w1cBit 0x108 61 = true ∧ Claims.w1cBit 0x311 10 = true ∧ Claims.rwBit .a 0x302 47 = true ∧
    (∀ i, i < 11 → bit (0x7FF : Word) i = Claims.rwValue .write (bit (csrRead sX.cur .x 0x003) i) (bit (0x7FF : Word) i)) ∧
    sX.cur.mat.queue = [] ∧
    (let k : Core := (headed (command 0 0 0 128) sX).core 0;
      k.mat.queue = command 0 0 0 128 :: [] ∧ (command 0 0 0 128).started = true ∧ k.mat.halt = none ∧
        (command 0 0 0 128).shareOver = false) ∧
    (let s := headed (command 0 0 0 128) sX;
      let k : Core := (s.modCur (fun k => { k with mat := { k.mat with halt := some ⟨.tagClass, 5, false, none, none, 0, false⟩ } })).core 0;
      k.mat.queue = command 0 0 0 128 :: [] ∧ k.mat.halt = some ⟨.tagClass, 5, false, none, none, 0, false⟩) := by
  and_intros <;> decide +kernel

/-- Retirement and TrapEntry: a stream at each level, one that single-steps, and a trap of each kind. -/
theorem witness_Levels :
    sX.strm.level = .u ∧ (atS sX).strm.level = .s ∧ (sX.streamAt 0 .x).level = .u ∧ ((atS sX).streamAt 0 .x).level = .s ∧
    (let s := sX.modStrm (fun st => { st with wayf := tabPut st.wayf 0 3 });
      bit s.strm.wctl 0 = true ∧ bit s.strm.wctl 2 = false ∧ bit s.strm.wctl 1 = true) ∧
    (sX.modStrm (fun st => { st with wayf := tabPut st.wayf 0 7 })).turn = sX.turn := by decide +kernel

/-- The first place of a list of values, when it is found. -/
theorem firstAt {es : List Val} {p : Val → Bool} {c : Nat}
    (h : (match es[c]? with | some v => p v | none => false) = true ∧ ∀ j, j < c → ((es[j]?.map p).getD false) = false) :
    Claims.FirstAt es (fun v => p v = true) c := by
  cases e : es[c]? with
  | none => rw [e] at h; cases h.1
  | some v =>
    rw [e] at h
    refine ⟨v, e, h.1, fun j w hj hw hp => ?_⟩
    have := h.2 j hj
    rw [hw] at this
    rw [show ((some w).map p).getD false = p w from rfl, hp] at this
    cases this

/-- The entries of a slot whose code 3 is NaN, code 2 +∞, and the others the numbers 0 to 15. -/
def entry (c : Nat) : Nat := if c = 3 then 0x7FC0 else if c = 2 then 0x7F80 else (roundTo (.fin false c 0) 2 127 .rne false).1
def entries : List Val := (List.range 16).map (fun c => decodeFloat 2 (entry c) false)

/-- ExactValues: the least and the greatest values of the ranges, the first NaN and the first infinity among entries, and special
values. -/
theorem witness_Rounding :
    (1 : Nat) ≤ 1 ∧ (8 : Nat) ≤ 8 ∧ (255 : Nat) ≤ 255 ∧ (1 : Nat) ≠ 0 ∧ (600 : Int) - 0 ≤ 600 ∧ (600 : Int) ≤ 600 ∧
    (∃ v ∈ entries, v.isNan = false) ∧ (Val.nan true).isNan = true ∧ Claims.FirstAt entries (fun v => v.isNan = true) 3 ∧
    Claims.FirstAt entries (fun v => decide (v = .inf false) = true) 2 ∧ Val.inf true ∉ entries ∧ Claims.isFin (.fin true 5 0) = true ∧
    (∀ v ∈ (List.range 16).map (fun c => decodeFloat 2 ((fun _ => 0x7FC0) c) false), v.isNan = true) ∧
    (∀ v ∈ (List.range 16).map (fun c => decodeFloat 2 ((fun _ => 0xFF80) c) false), Claims.isFin v = false) ∧
    ((Val.nan true).isNan || (Val.nan false).isNan) = true ∧ (Val.inf true).isNan = false ∧ (Val.fin true 3 0).isNan = false ∧
    Claims.isFin (.inf true) = false ∧ (Val.fin true 0 5).isZero = true ∧ (Val.fin true 3 0).isZero = false := by
  refine ⟨by decide, by decide, by decide, by decide, by decide, by decide, ⟨_, List.mem_map_of_mem (List.mem_range.mpr (by decide : 0 < 16)), by decide +kernel⟩,
    by decide, firstAt (by decide +kernel), firstAt (by decide +kernel), ?_⟩
  decide +kernel

/-- ExactValues and VectorPredicates: numbers whose sum is zero; one below another, and equal ones. -/
theorem witness_Order :
    Claims.real (.fin false 6 0) + Claims.real (.fin true 3 1) = 0 ∧ Claims.Less (.fin true 1 0) (.fin false 0 0) ∧
    Claims.Less (.inf true) (.fin false 1 (-5)) ∧ Claims.Same (.fin false 6 0) (.fin false 3 1) ∧
    Claims.Same (.zero true) (.zero false) ∧ Claims.Under (.zero true) (.zero false) := by
  refine ⟨by decide +kernel, ⟨rfl, rfl, by decide, .inr (.inr ⟨rfl, rfl, by decide +kernel⟩)⟩, ⟨rfl, rfl, by decide, .inl rfl⟩,
    ⟨rfl, rfl, .inr ⟨rfl, rfl, by decide +kernel⟩⟩, ⟨rfl, rfl, .inr ⟨rfl, rfl, by decide +kernel⟩⟩, .inr ⟨rfl, rfl, rfl, rfl⟩⟩

/-- Atomics: AMOFADD on two FP32 elements, 1.0 + 1.0 each. -/
theorem witness_AmoSum : Claims.AmoResult .fadd 0x087F 0x3F8000003F800000 0x3F8000003F800000 0 (some 0x4000000040000000) := by
  refine ⟨_, _, rfl, rfl, ?_⟩
  rw [show 64 / fmtWidth (tagFmt 0x087F) = 2 from by decide]
  decide +kernel

/-- MatrixSteps: operands of a Plain and of a Twill K-step; a guard number; a tile whose elements are listed in order, with a poisoned
granule. -/
theorem witness_StepFlags :
    (let x := List.replicate 128 (List.replicate 128 (Val.zero false, 127)); x.length = 128 ∧ ∀ y ∈ x, y.length = 128) ∧
    (⟨[], [], 4, 4, true⟩ : KOperands).plain = true ∧ (⟨[], [], 4, 4, false⟩ : KOperands).plain = false ∧ (5 : Nat) < 6 ∧ (3 : Nat) ≠ 0 ∧
    Claims.RisingTile ⟨.fp32, [(0, 5), (16383, 6)], [8]⟩ ∧ 8 * 1 + 0 ∈ [8] ∧ 8 * 127 + 7 ∉ [8] := by
  refine ⟨⟨by decide +kernel, by decide +kernel⟩, rfl, rfl, by decide, by decide, ?_, by decide, by decide⟩
  simp only [Claims.RisingTile]; decide +kernel

/-- A ganged product of barrier 5 in a gang of two, led by member 0, with shares in both members; `rest` has ended and its index is among the
faulted. -/
def shared (running faulted : List Nat) : State :=
  (ganged sX).modGuest 0 (fun x => { x with gangs := [⟨⟨0, 0, 0, 0⟩, 2, [], [⟨1, 0, 1, 5, [0, 1], running, faulted⟩]⟩] })

/-- MatrixSteps: the end of a share while another runs, and of the last one. -/
theorem witness_ShareEnds :
    gangOf ((shared [0, 1] []).guest 0) ⟨0, 0, 0, 0⟩ = some ⟨⟨0, 0, 0, 0⟩, 2, [], [⟨1, 0, 1, 5, [0, 1], [0, 1], []⟩]⟩ ∧
    ([⟨1, 0, 1, 5, [0, 1], [0, 1], []⟩] : List Ganged).find? (fun z => decide (z.num = 1)) = some ⟨1, 0, 1, 5, [0, 1], [0, 1], []⟩ ∧
    ((shared [0, 1] []).cores.map Prod.fst).Nodup ∧ (∃ p ∈ [0, 1], p ≠ 0) ∧ (∀ p ∈ [1], p = 1) ∧
    (∀ i, i ∈ [0, 1] ↔ i ∈ [0] ∨ ((true : Bool) = true ∧ i = 1)) ∧
    (∀ i ∈ [0, 1], (∀ k ∈ [0, 1], i ≤ k) → (0x80 : BitVec 8) = BitVec.ofNat 8 (0x80 + i)) ∧
    ((shared [1] [0]).core 0).guest = some 0 ∧ ((shared [1] [0]).core 0).place = some ⟨⟨0, 0, 0, 0⟩, 0, 0, 2, 0, [], 0x400000, 48⟩ := by
  refine ⟨by decide +kernel, by decide, by decide +kernel, by decide, by decide, fun i => ?_, by decide, by decide +kernel, by decide +kernel⟩
  simp only [List.mem_cons, List.not_mem_nil, or_false, true_and]

/-- Fences and LaunchAndDonate: no slot has a line to read whose home is closed, and one has. -/
theorem witness_slotsOpen :
    slotsOpen sA 0 (fun _ => true) sA.cur.slots = true ∧
    (let x : StreamSlot := ⟨0xC0, 0, 0, 0x10000, 64, 1, 0, [], [page], none, []⟩;
      let s := (tabled 92 (sA.core 0)).modCore 0 (fun k => { k with slots := [(0, x)] });
      slotsOpen s 0 (fun _ => true) s.cur.slots = false ∧ Runs (.fence (mkR 0 1 31 0 0)) s) := by
  simp only [Runs]; decide +kernel

/-- LaunchAndDonate: the home of the slot serves it, and one that does not. -/
theorem witness_postOpen :
    postOpen (orderAt 0 ⟨.hbm, 1024⟩ none (fillTlb 0 page (regs [(5, 3)] launching))) 0 3 = true ∧
    unperformed (regs [(5, 3)] launching) 0 = [] ∧ (sA.cur.mode = .run) ∧
    (let s := { regs [(5, 3)] launching with hostHeld := [.lqpost 0 3 true 5] };
      postOpen (orderAt 0 ⟨.hbm, 1024⟩ none (fillTlb 0 page s)) 0 3 = false ∧ Runs (.launch (mkR 0 2 5 0 0)) s) ∧
    (ringPlace (regs [(5, 3)] launching) 0 (((launching.guest 0).queue 3).slotGva 0) .free).toOption = some (page, ⟨.hbm, 0xC00⟩) := by
  simp only [Runs]; decide +kernel

/-- LaunchAndDonate: a donee that can place a gang, and one whose gang has been drained for a donation. -/
theorem witness_donee :
    doneeReady (noteReserving 1 (admitAll 1 donating)) 1 [0] = true ∧
    (let s := donating.modGuest 1 (fun x => { x with drained := [⟨⟨0, 0, 0, 0⟩, 1, [], true⟩] });
      doneeReady (noteReserving 1 (admitAll 1 s)) 1 [0] = false ∧ Runs (.donate (mkR 0 0 0 0 0)) s) := by
  simp only [Runs]; decide +kernel

/-- A gang of a guest with no drained gang is whole. -/
theorem whole_of {s : State} {c : Nat} (h : (s.guest (s.guestOf c)).drained = []) : Claims.WholeGang s c := by
  intro p _ d hd
  rw [h] at hd
  cases hd

/-- GangBoundaries: the other stream has issued, and has retired, another phase instruction; a SPLIT that does not divide and a JOIN
outside a sub-gang; members that split, of which one differs; PARTNER owed at a boundary. -/
theorem witness_PhaseTraps :
    (let s := (ganged sA).modCur (fun k => { k with x := { k.x with phIssued := some (1, 1) } });
      Claims.OtherPhase s (0, 0) ∧ s.strm.phIssued ≠ some (0, 0)) ∧
    (let s := (ganged sA).modCur (fun k => { k with x := { k.x with phCount := 1, phLast := some (1, 1) } }); Claims.OtherPhase s (0, 0)) ∧
    ¬ Claims.OtherPhase (ganged sA) (0, 0) ∧ (ganged sA).cur.placeD.gsize % 2 ^ 2 ≠ 0 ∧ (ganged sA).cur.placeD.splits = [] ∧
    Claims.WholeGang (ganged sA) 0 ∧
    (let w (s : State) (c : Nat) (k : Nat × Nat) := s.modCore c (fun x => { x with a := { x.a with phIssued := some k }, x := { x.x with ended := true } });
      let s := arrive 0 (w (arrive 1 (w (ganged sA) 1 (0, 0))) 0 (1, 1));
      Claims.KindOf s 0 (1, 1) ∧ Claims.KindOf s 1 (1, 1) ∧ (completing s 0).Nodup ∧ 0 ∈ completing s 0 ∧
        (s.core 1).arrival.map Arrival.kind ≠ some (1, 1)) ∧
    (let s := { (sA.modStrm (fun st => { st with partnerTrap := some 1 })) with agenda := [.issue 0 .a] };
      s.agenda = [.issue 0 .a] ∧ (s.core 0).canIssue .a = true ∧ bit (s.streamAt 0 .a).wctl 7 = false ∧
        (s.streamAt 0 .a).stepPending = false ∧ owesTrap (s.core 0) .a = false ∧ (s.streamAt 0 .a).partnerTrap = some 1) := by
  simp only [Claims.OtherPhase, Claims.KindOf]
  refine ⟨⟨⟨_, rfl, by decide +kernel⟩, by decide +kernel⟩, ⟨_, rfl, by decide +kernel⟩, ?_, by decide +kernel, by decide +kernel, ?_,
    ⟨⟨0, by decide +kernel, by decide +kernel, by decide +kernel⟩, ⟨0, by decide +kernel, by decide +kernel, by decide +kernel⟩,
      by decide +kernel, by decide +kernel, by decide +kernel⟩, by decide +kernel⟩
  · rintro ⟨o, rfl, h⟩
    revert h
    decide +kernel
  · exact whole_of (by decide +kernel)

/-- ClusterTransfers: members that run in the gang, one whose work has ended, and tags of every kind. -/
theorem witness_GatherTags :
    sameJobGang ((ganged sV).core 0) ((ganged sV).core 1) = true ∧ sameJobGang (sV.core 0) (sV.core 1) = false ∧
    tagClass 0x087F = 0 ∧ tagClass 0 = 0 ∧ tagClass 0x0300 ≠ 0 ∧
    fmtWidth (tagFmt 0x087F) = 32 ∧ ((32 : Nat) ∈ [8, 16, 32]) ∧
    (let s := sV.modCur (fun k => { k with producers := [.gather 0x5F [(0, some 0, 0)] 32 256 [(0, 0x087F, 5)] true] });
      (s.core 0).producers[0]? = some (.gather 0x5F [(0, some 0, 0)] 32 256 [(0, 0x087F, 5)] true)) := by
  and_intros <;> decide +kernel

/-- Reductions: the least tree over a vector length. -/
theorem witness_LeastTree : sV.cur.vec.vl.toNat ≤ 2 ^ 2 ∧ ∀ k, sV.cur.vec.vl.toNat ≤ 2 ^ k → 2 ≤ k := by
  have h : sV.cur.vec.vl.toNat = 4 := by decide +kernel
  rw [h]
  refine ⟨by decide, fun k hk => ?_⟩
  rcases k with _ | _ | k
  · simp at hk
  · simp at hk
  · omega

/-- UnattendedTraps: streams that stand in counted waits, and one whose queue has an entry. -/
theorem witness_inCounted :
    cycled.inCounted 0 .a = true ∧ cycled.inCounted 0 .x = true ∧ sA.inCounted 0 .a = false ∧
    (let s := (queued cycled).modCore 0 (fun k => { k with a := { k.a with wait := some ⟨.queue 0xC0 false, 0⟩ } }); s.inCounted 0 .a = false) := by
  decide +kernel

/-- LaunchQueueRegisters: a slot whose home serves it, one behind a post that waits, and a faulted queue. -/
theorem witness_Posts :
    postOpen (admitted 3 0 0) 0 3 = true ∧ postOpen { admitted 3 0 0 with hostHeld := [.lqpost 0 3 true 5] } 0 3 = false ∧
    postOpen { admitted 3 0 0 with hostHeld := [.lqpost 0 2 true 5] } 0 3 = true ∧
    (let s := (admitted 3 0 0).modGuest 0 (fun x => x.setQueue 3 { x.queue 3 with stat := 2 ^ 63 });
      ((s.guest 0).queue 3).faulted = true) ∧ bit (2 ^ 63 : Word) 63 = true := by decide +kernel

/-- Edges: a guest whose slot starts at the edge, and one that owned a core. -/
theorem witness_SlotStarts :
    (let s := (tabled 100 Core.reset).modGuest 0 (fun x => { x with pendBase := some 5 });
      let t := (s.ttActive).getD ⟨[], 0, 0, 0⟩;
      (∀ c, c < 64 → rowOwner t.rows t.row c ≠ some 0) ∧ rowOwner (nextRow t s.ttNext).rows (nextRow t s.ttNext).row 0 = some 0 ∧
        (∀ c ∈ overrunCores t (nextRow t s.ttNext) s, (s.core c).guest ≠ some 0) ∧ (s.guest 0).pendBase = some 5) ∧
    (let t := (donating.ttActive).getD ⟨[], 0, 0, 0⟩; ∃ c, c < 64 ∧ rowOwner t.rows t.row c = some 0) ∧
    (let t : Timetable := nextRow ((tabled 0 Core.reset).ttActive.getD ⟨[], 0, 0, 0⟩) none; ∃ c, c < 64 ∧ rowOwner t.rows t.row c = some 0) := by
  refine ⟨by decide +kernel, ⟨0, by decide, by decide +kernel⟩, ⟨0, by decide, by decide +kernel⟩⟩

/-- FullerRecords: the home of a record serves it, and one that does not. -/
theorem witness_recordHome :
    gpaOpen (fullered []) 0 0x30000 = true ∧ (((fullered []).guest 0).fullerAt 0).complete = false ∧
    gpaOpen { fullered [] with timeUs := 92, ttActive := (tabled 92 (sA.core 0)).ttActive } 0 0x30000 = false := by decide +kernel

/-- HostMemory: tables whose homes serve the host, and ones whose homes do not. -/
theorem witness_walks :
    walkOpen sA 0 0x10000 = true ∧ walkOpen sA 0 (2 ^ 47) = true ∧ (sA.guest 0).maySend = true ∧
    pteClass pageA.leaf = 2 ∧ pteClass pageS.leaf = 3 ∧
    (pageState (paged sA) 0 0x200000).toOption = some 3 ∧ psSealed 3 = false ∧ psTail 3 ≤ (pageA.gpaAt 0x400000C0 - pageA.gpa) / 64 ∧
    hostImg (paged sA) 0 pageA (pageA.gpaAt 0x400000C0) ⟨.hbm, 0x8003⟩ = ⟨0, 0x0100, false⟩ := by decide +kernel

/-- ViewsAndCycles: no write of the M path goes on before a fence. -/
theorem witness_MatrixPath :
    (let r := newWrite sA 0 .m ⟨.sp 0, 5⟩ 255 7 none none;
      r.writer = some ⟨0, .m⟩ ∧ mayReach r ⟨0, .x⟩ = false ∧ mayReach r ⟨0, .c⟩ = false) ∧
    (newWrite sA 0 .x ⟨.sp 0, 5⟩ 255 7 none none).writer = some ⟨0, .x⟩ := by decide +kernel

/-- Guests: a value that waits for GBASE. -/
theorem witness_pending :
    ((sA.modGuest 0 (fun x => { x with pendBase := some 5 })).guest 0).pendBase.isSome = true ∧
    pfRead (sA.modGuest 0 (fun x => { x with pendBase := some 5 })) 0x40000 = some 3 := by decide +kernel

/-- BringUpWrites: no dirty line stands in the bank, and no saved context lies in the ways of the stack. -/
theorem witness_SelfTest :
    (∀ e ∈ sA.llcDirty, e.1 = 7 → bankOf sA 7 e.2.2 ≠ 32 * 3 + 31) ∧
    ∀ g, ∀ d ∈ (sA.guest g).drained, ∀ m ∈ d.members, m.slot.isSome = true ∨ m.stack ≠ 7 := by
  have h : sA.guests = [(0, sA.guest 0)] := by decide +kernel
  refine ⟨by decide +kernel, fun g d hd => ?_⟩
  have e : (sA.guest g).drained = [] := by
    unfold State.guest
    rw [h]
    by_cases z : 0 = g
    · subst z; decide +kernel
    · rw [tabGet, if_neg z]; rfl
  rw [e] at hd
  cases hd

/-! ### Single steps -/

/-- A field of the state after a step, none when the step ends in no next state. -/
def seen {α : Type} (f : State → α) : Host.Outcome State Fault Refusal → Option α
  | .next t => some (f t)
  | .fault _ => none
  | .refused _ => none

/-- What register 1 of the current stream of core 0 holds after an instruction on s2 and s3. -/
def result (i : Instr) (a b : Word) : Option Word := seen (fun t => t.strm.reg 1) (exec i (regs [(2, a), (3, b)] (start .a)))

/-- R103: sums wrap, and MULHS reads both operands as signed. -/
theorem test_add_wraps : result (.add (mkR 1 2 3 0 0)) 0xFFFFFFFFFFFFFFFF 2 = some 1 := by decide +kernel
theorem test_mulhs_sign : result (.mulhs (mkR 1 2 3 0 0)) 0xFFFFFFFFFFFFFFFF 1 = some 0xFFFFFFFFFFFFFFFF := by decide +kernel
theorem test_mulh_unsigned : result (.mulh (mkR 1 2 3 0 0)) 0xFFFFFFFFFFFFFFFF 2 = some 1 := by decide +kernel
/-- R103: only the low 6 bits of a shift amount count. -/
theorem test_sra_amount : result (.sra (mkR 1 2 3 0 0)) 0x8000000000000000 65 = some 0xC000000000000000 := by decide +kernel
/-- R99: a zero divisor, and the least value over −1. -/
theorem test_div_zero : result (.div (mkR 1 2 3 0 0)) 7 0 = some 0xFFFFFFFFFFFFFFFF := by decide +kernel
theorem test_rems_zero : result (.rems (mkR 1 2 3 0 0)) 7 0 = some 7 := by decide +kernel
theorem test_divs_least : result (.divs (mkR 1 2 3 0 0)) 0x8000000000000000 0xFFFFFFFFFFFFFFFF = some 0x8000000000000000 := by decide +kernel
/-- R104, R105: no bit set, and a field that would run past bit 63. -/
theorem test_clz_zero : result (.clz (mkR 1 2 0 0 0)) 0 0 = some 64 := by decide +kernel
theorem test_sext_byte : result (.sext (mkR 1 2 3 0 0)) 0x80 8 = some 0xFFFFFFFFFFFFFF80 := by decide +kernel
/-- R107: LI extends its sign. -/
theorem test_li_sign : result (.li (mkI 1 0 0x7FFFFFFF)) 0 0 = some 0xFFFFFFFFFFFFFFFF := by decide +kernel
/-- R24: s0 discards a result. -/
theorem test_s0_discards : seen (fun t => (t.strm.reg 0, t.strm.pc)) (exec (.add (mkR 0 2 3 0 0)) sA) = some (0, 0x8008) := by
  decide +kernel

/-- R354: SYSCALL traps to the handler's address at S level with TPC after it. -/
theorem test_syscall_entry :
    seen (fun t => (t.strm.level, t.strm.tcause, t.strm.tval, t.strm.tpc)) (step (placeWord State.reset 64 0xC000000000001234)) =
      some (.s, 19, 0x1234, 0x8008) := by decide +kernel

/-- R48: a word that names nothing traps ILLEGAL with the word as TVAL. -/
theorem test_unnamed_word :
    seen (fun t => (t.strm.level, t.strm.tcause, t.strm.tval, t.strm.tpc)) (step (placeWord State.reset 64 0x0F00000000000007)) =
      some (.s, 1, 0x0F00000000000007, 0x8000) := by decide +kernel

/-- R232: a load leaves its register empty until its data arrives. -/
theorem test_load_empty : seen (fun t => t.strm.sEmpty) (exec (.ld .d (mkM 1 2 0 0 0 0 0)) (filled sA)) = some [1] := by decide +kernel
theorem test_load_arrives :
    ((seen id (exec (.ld .d (mkM 1 2 0 0 0 0 0)) (filled sA))).map (fun t =>
      seen (fun u => (u.core 0).a.reg 1) (exec (.loadDataArrival 0 0 false) t))) = some (some 0x1122334455667788) := by decide +kernel

/-- R110: LOOP counts down and falls through at zero. -/
theorem test_loop_back :
    seen (fun t => (t.strm.pc, t.strm.reg 3)) (exec (.loop ⟨⟨0, false⟩, 0, 0xFFFFFFFFFE, 0, 3, 0⟩) sA) = some (0x7FF0, 6) := by decide +kernel
theorem test_loop_ends :
    seen (fun t => (t.strm.pc, t.strm.reg 5)) (exec (.loop ⟨⟨0, false⟩, 0, 0xFFFFFFFFFE, 0, 5, 0⟩) sA) = some (0x8010, 0) := by decide +kernel

/-- R127: 1.0 + 1.0 = 2.0 in FP32. -/
theorem test_vadd : seen (fun t => (t.cur.vreg 0x46).slot 32 0) (exec (.vadd (mkR 0x46 0x42 0x43 0 0)) sV) = some 0x40000000 := by
  decide +kernel
/-- R138: integer elements wrap within a slot. -/
theorem test_viadd : seen (fun t => (t.cur.vreg 0x46).slot 32 1) (exec (.viadd (mkR 0x46 0x44 0x44 0 0)) sV) = some 6 := by decide +kernel
/-- R119: VL is the smaller of the request and VLMAX. -/
theorem test_setvl : seen (fun t => t.cur.vec.vl) (exec (.setvl (mkI 1 2 0)) sX) = some 1024 := by decide +kernel
/-- R190: MZERO enters the queue of the engine. -/
theorem test_mzero_issue : seen (fun t => t.cur.mat.queue.length) (exec (.mzero (mkR 0xAF 0 0 0 0)) sX) = some 1 := by decide +kernel

end Sys2Proof.Tests
end

section
/-! PROOFS. The scalar instructions of R103 to R107 and the branches of R110: what each operation of the model writes as a
number, and the completions and traps that the statements ask for. -/

namespace Sys2Proof.Machine

/-! ### Words as numbers -/

theorem eq_word_of_toNat {x : Word} {n : Nat} (h : x.toNat = n) : x = word n := by
  rw [← h, word, BitVec.ofNat_toNat, BitVec.setWidth_eq]

theorem eq_ofInt_of_toInt {x : Word} {z : Int} (h : x.toInt = z) : x = BitVec.ofInt 64 z := by
  rw [← h, BitVec.ofInt_toInt]

theorem toNat_word (n : Nat) : (word n).toNat = n % 2 ^ 64 := BitVec.toNat_ofNat ..

theorem add_eq_word (a b : Word) : a + b = word (a.toNat + b.toNat) :=
  BitVec.eq_of_toNat_eq (by rw [toNat_word, BitVec.toNat_add])

theorem sub_eq_word (a b : Word) : a - b = word (2 ^ 64 + a.toNat - b.toNat) :=
  BitVec.eq_of_toNat_eq (by rw [toNat_word, BitVec.toNat_sub]; omega)

theorem mul_eq_word (a b : Word) : a * b = word (a.toNat * b.toNat) :=
  BitVec.eq_of_toNat_eq (by rw [toNat_word, BitVec.toNat_mul])

theorem extractLsb_high_ofNat (n : Nat) : (BitVec.ofNat 128 n).extractLsb' 64 64 = word (n / 2 ^ 64) := by
  apply BitVec.eq_of_toNat_eq
  simp only [BitVec.extractLsb'_toNat, BitVec.toNat_ofNat, Nat.shiftRight_eq_div_pow, toNat_word]
  omega

theorem mulHigh_eq_word (a b : Word) : mulHigh a b = word (a.toNat * b.toNat / 2 ^ 64) := by
  rw [mulHigh, ← BitVec.ofNat_toNat, ← BitVec.ofNat_toNat, ← BitVec.ofNat_mul, extractLsb_high_ofNat]

theorem signExtend_eq_ofInt {n v : Nat} (x : BitVec n) (h : n ≤ v) : x.signExtend v = BitVec.ofInt v x.toInt := by
  rw [← BitVec.toInt_signExtend_of_le h, BitVec.ofInt_toInt]

theorem extractLsb_high_ofInt (z : Int) : (BitVec.ofInt 128 z).extractLsb' 64 64 = BitVec.ofInt 64 (z / 2 ^ 64) := by
  apply BitVec.eq_of_toNat_eq
  simp only [BitVec.extractLsb'_toNat, BitVec.toNat_ofInt, Nat.shiftRight_eq_div_pow]
  omega

theorem mulHighSigned_eq_ofInt (a b : Word) : mulHighSigned a b = BitVec.ofInt 64 (a.toInt * b.toInt / 2 ^ 64) := by
  rw [mulHighSigned, signExtend_eq_ofInt a (by decide), signExtend_eq_ofInt b (by decide), ← BitVec.ofInt_mul,
    extractLsb_high_ofInt]

/-! ### Shifts (R98, R103) -/

theorem shamt_lt (b : Word) : shamt b < 64 := Nat.mod_lt _ (by decide)

theorem shiftLeft_eq_word (a : Word) (n : Nat) : a <<< n = word (a.toNat * 2 ^ n) :=
  BitVec.eq_of_toNat_eq (by rw [toNat_word, BitVec.toNat_shiftLeft, Nat.shiftLeft_eq])

theorem ushiftRight_eq_word (a : Word) (n : Nat) : a >>> n = word (a.toNat / 2 ^ n) :=
  eq_word_of_toNat (by rw [BitVec.toNat_ushiftRight, Nat.shiftRight_eq_div_pow])

theorem sshiftRight_eq_ofInt (a : Word) (n : Nat) : a.sshiftRight n = BitVec.ofInt 64 (a.toInt / 2 ^ n) :=
  eq_ofInt_of_toInt (by rw [BitVec.toInt_sshiftRight, Int.shiftRight_eq_div_pow]; norm_cast)

theorem rotateLeft_eq_word (a : Word) {n : Nat} (h : n < 64) :
    a.rotateLeft n = word (a.toNat * 2 ^ n + a.toNat / 2 ^ (64 - n)) := by
  have hand : (a <<< n) &&& (a >>> (64 - n)) = 0#64 := by
    ext i hi
    simp only [BitVec.getElem_and, BitVec.getElem_shiftLeft, BitVec.getElem_ushiftRight, BitVec.getElem_zero]
    by_cases hin : i < n
    · simp [hin]
    · simp [BitVec.getLsbD_of_ge a (64 - n + i) (by omega)]
  rw [BitVec.rotateLeft_def, Nat.mod_eq_of_lt h, ← BitVec.add_eq_or_of_and_eq_zero _ _ hand, shiftLeft_eq_word,
    ushiftRight_eq_word]
  exact (BitVec.ofNat_add ..).symm

/-! ### Minima and maxima (R103) -/

theorem min_eq_word (a b : Word) : (if a ≤ b then a else b) = word (Nat.min a.toNat b.toNat) := by
  apply eq_word_of_toNat
  rw [apply_ite BitVec.toNat]
  exact (Nat.min_def ..).symm

theorem max_eq_word (a b : Word) : (if a ≤ b then b else a) = word (Nat.max a.toNat b.toNat) := by
  apply eq_word_of_toNat
  rw [apply_ite BitVec.toNat]
  exact (Nat.max_def ..).symm

theorem mins_eq_ofInt (a b : Word) : (if a.sle b then a else b) = BitVec.ofInt 64 (min a.toInt b.toInt) := by
  apply eq_ofInt_of_toInt
  simp only [apply_ite BitVec.toInt, BitVec.sle_iff_toInt_le]
  exact (Int.min_def ..).symm

theorem maxs_eq_ofInt (a b : Word) : (if a.sle b then b else a) = BitVec.ofInt 64 (max a.toInt b.toInt) := by
  apply eq_ofInt_of_toInt
  simp only [apply_ite BitVec.toInt, BitVec.sle_iff_toInt_le]
  exact (Int.max_def ..).symm

/-! ### Division (R99) -/

theorem quotU_eq_word (a b : Word) : quotU a b = if b = 0 then word (2 ^ 64 - 1) else word (a.toNat / b.toNat) := by
  unfold quotU
  split
  · decide
  · exact eq_word_of_toNat (BitVec.toNat_udiv ..)

theorem remU_eq_word (a b : Word) : remU a b = if b = 0 then a else word (a.toNat - b.toNat * (a.toNat / b.toNat)) := by
  unfold remU
  split
  · rfl
  · exact eq_word_of_toNat (by rw [BitVec.toNat_umod, Nat.mod_eq_sub])

theorem quotS_eq_ofInt (a b : Word) : quotS a b = BitVec.ofInt 64 (if b = 0 then -1 else Int.tdiv a.toInt b.toInt) := by
  unfold quotS
  split
  · decide
  · exact BitVec.eq_of_toInt_eq (by rw [BitVec.toInt_sdiv, BitVec.toInt_ofInt])

theorem remS_eq_ofInt (a b : Word) : remS a b = if b = 0 then a else BitVec.ofInt 64 (Int.tmod a.toInt b.toInt) := by
  unfold remS
  split
  · rfl
  · exact eq_ofInt_of_toInt (BitVec.toInt_srem ..)

/-! ### Counts (R104) -/

theorem findIdx_range_succ (q : Nat → Bool) (n : Nat) :
    ((List.range (n + 1)).findIdx? q).getD (n + 1) =
      if q 0 then 0 else ((List.range n).findIdx? (fun i => q (i + 1))).getD n + 1 := by
  rw [List.range_succ_eq_map, List.findIdx?_cons, List.findIdx?_map]
  split
  · rfl
  · exact Option.getD_map (· + 1) n _

theorem clzFrom_eq_findIdx (a : Word) (n : Nat) :
    clzFrom a n = ((List.range n).findIdx? (fun i => a.getLsbD (n - 1 - i))).getD n := by
  induction n with
  | zero => rfl
  | succ n ih =>
    rw [findIdx_range_succ, clzFrom, ih]
    simp only [Nat.add_sub_cancel, Nat.sub_zero, Nat.sub_sub, Nat.add_comm 1]

theorem ctzFrom_eq_findIdx (a : Word) (i n : Nat) :
    ctzFrom a i n = ((List.range n).findIdx? (fun j => a.getLsbD (i + j))).getD n := by
  induction n generalizing i with
  | zero => rfl
  | succ n ih =>
    rw [findIdx_range_succ, ctzFrom, ih]
    simp only [Nat.add_zero, Nat.add_assoc, Nat.add_comm 1]

theorem popFrom_eq_filter_length (a : Word) (n : Nat) :
    popFrom a n = ((List.range n).filter (fun i => a.getLsbD i)).length := by
  induction n with
  | zero => rfl
  | succ n ih =>
    rw [popFrom, ih, List.range_succ, List.filter_append, List.length_append, Nat.add_comm]
    cases h : a.getLsbD n <;> simp [b2n, h]

theorem clz_eq_word (a : Word) :
    word (clzFrom a 64) = word (((List.range 64).findIdx? (fun n => a.getLsbD (63 - n))).getD 64) := by
  rw [clzFrom_eq_findIdx]

theorem ctz_eq_word (a : Word) :
    word (ctzFrom a 0 64) = word (((List.range 64).findIdx? (fun n => a.getLsbD n)).getD 64) := by
  simp only [ctzFrom_eq_findIdx, Nat.zero_add]

theorem popc_eq_word (a : Word) :
    word (popFrom a 64) = word (((List.range 64).filter (fun n => a.getLsbD n)).length) := by
  rw [popFrom_eq_filter_length]

/-! ### Extensions (R104) -/

theorem sshiftRight_shiftLeft_eq_bmod (a : Word) {n : Nat} (hn : n ≠ 0) (hlt : n < 64) :
    (a <<< (64 - n)).sshiftRight (64 - n) = BitVec.ofInt 64 (Int.bmod a.toNat (2 ^ n)) := by
  have hw : (2 : Nat) ^ 64 = 2 ^ (64 - n) * 2 ^ n := by rw [← Nat.pow_add, Nat.sub_add_cancel (Nat.le_of_lt hlt)]
  have hpos : 0 < 2 ^ (64 - n) := Nat.two_pow_pos _
  have hev : 2 ∣ 2 ^ n := Nat.pow_dvd_pow 2 (Nat.one_le_iff_ne_zero.2 hn)
  apply eq_ofInt_of_toInt
  rw [BitVec.toInt_sshiftRight, BitVec.toInt_shiftLeft, Nat.shiftLeft_eq, Int.shiftRight_eq_div_pow, hw, Nat.mul_comm,
    Int.natCast_mul, Int.mod_bmod_mul_of_pos _ _ hpos hev]
  exact Int.mul_ediv_cancel_left _ (Int.natCast_ne_zero.2 (Nat.ne_of_gt hpos))

theorem sextRes_eq_ofInt (a b : Word) :
    sextRes a b = if b.toNat % 64 = 0 then a else BitVec.ofInt 64 (Int.bmod a.toNat (2 ^ (b.toNat % 64))) :=
  ite_congr rfl (fun _ => rfl) (fun hn => sshiftRight_shiftLeft_eq_bmod a hn (Nat.mod_lt _ (by decide)))

theorem zextRes_eq_word (a b : Word) :
    zextRes a b = if b.toNat % 64 = 0 then a else word (a.toNat % 2 ^ (b.toNat % 64)) := rfl

/-! ### Bit fields (R105) -/

/-- A number whose field of `n` bits from bit `p` is replaced, as its three parts. -/
theorem replaceField_eq (d v p n : Nat) :
    d - d / 2 ^ p % 2 ^ n * 2 ^ p + v * 2 ^ p = 2 ^ p * (2 ^ n * (d / 2 ^ p / 2 ^ n) + v) + d % 2 ^ p := by
  have hlow := Nat.div_add_mod d (2 ^ p)
  have hhigh := congrArg (2 ^ p * ·) (Nat.div_add_mod (d / 2 ^ p) (2 ^ n))
  simp only [Nat.mul_add] at hhigh ⊢
  rw [Nat.mul_comm (d / 2 ^ p % 2 ^ n), Nat.mul_comm v]
  omega

theorem testBit_replaceField (d v : Nat) {p n : Nat} (hv : v < 2 ^ n) (i : Nat) :
    (d - d / 2 ^ p % 2 ^ n * 2 ^ p + v * 2 ^ p).testBit i =
      if p ≤ i ∧ i < p + n then v.testBit (i - p) else d.testBit i := by
  rw [replaceField_eq, Nat.testBit_two_pow_mul_add _ (Nat.mod_lt _ (Nat.two_pow_pos p)), Nat.testBit_two_pow_mul_add _ hv,
    Nat.testBit_mod_two_pow, Nat.testBit_div_two_pow, Nat.testBit_div_two_pow]
  by_cases hlow : i < p
  · simp [hlow, Nat.not_le.2 hlow]
  · by_cases hmid : i < p + n
    · simp [hlow, hmid, Nat.not_lt.1 hlow, show i - p < n by omega]
    · simp [hlow, hmid, show ¬ i - p < n by omega, show i - p - n + n + p = i by omega]

theorem getLsbD_maskFld (p n i : Nat) : (maskFld p n).getLsbD i = decide (i < 64 ∧ p ≤ i ∧ i < p + n) := by
  rw [maskFld, word, BitVec.getLsbD_ofNat, Nat.testBit_mul_two_pow, Nat.testBit_two_pow_sub_one, Bool.eq_iff_iff]
  simp only [Bool.and_eq_true, decide_eq_true_eq]
  omega

theorem bfiRes_eq_word (d a b c : Word) : bfiRes d a b c =
    word (d.toNat - d.toNat / 2 ^ bfPos b % 2 ^ bfLen b c * 2 ^ bfPos b + a.toNat % 2 ^ bfLen b c * 2 ^ bfPos b) := by
  apply BitVec.eq_of_getLsbD_eq
  intro i hi
  rw [word, BitVec.getLsbD_ofNat, testBit_replaceField _ _ (Nat.mod_lt _ (Nat.two_pow_pos _)), Nat.testBit_mod_two_pow]
  simp only [bfiRes, BitVec.getLsbD_or, BitVec.getLsbD_and, BitVec.getLsbD_not, BitVec.getLsbD_shiftLeft, getLsbD_maskFld, hi,
    true_and, decide_true, Bool.true_and]
  by_cases hf : bfPos b ≤ i ∧ i < bfPos b + bfLen b c
  · simp [hf, Nat.not_lt.2 hf.1, show i - bfPos b < bfLen b c by omega, BitVec.getLsbD]
  · simp [hf, BitVec.getLsbD]

/-! ### ADDX and the immediates (R106, R107) -/

theorem addShifted_eq_word (a b : Word) (n : Nat) : a + b <<< n = word (a.toNat + b.toNat * 2 ^ n) := by
  rw [add_eq_word, BitVec.toNat_shiftLeft, Nat.shiftLeft_eq]
  exact BitVec.eq_of_toNat_eq (by simp only [toNat_word]; omega)

theorem sext64_eq_ofInt {n : Nat} (x : BitVec n) (h : n ≤ 64) : sext64 x = BitVec.ofInt 64 x.toInt :=
  signExtend_eq_ofInt x h

theorem eq_ofInt_toNat (a : Word) : a = BitVec.ofInt 64 a.toNat := by
  rw [BitVec.ofInt_natCast, BitVec.ofNat_toNat, BitVec.setWidth_eq]

theorem add_sext64_eq_ofInt {n : Nat} (a : Word) (x : BitVec n) (h : n ≤ 64) :
    a + sext64 x = BitVec.ofInt 64 (a.toNat + x.toInt) := by
  rw [BitVec.ofInt_add, ← eq_ofInt_toNat, sext64_eq_ofInt x h]

/-! ### Completions of scalar instructions (R100) -/

/-- A scalar instruction with ready operands completes with the value `v` of its result (R100). -/
theorem scalarOp_completes {i : Instr} {l : List Src} {d : Code} {g : List Word → Word} {s : State} {v : Word}
    (hx : exec i s = scalarOp i l d g s) (hv : g (l.map (fun x => s.src x.code)) = v) (hr : Runs i s)
    (hs : SourcesReady s l) (hd : DestReady s d) : exec i s = .next (s.done i (s.wrote l d v)) := by
  rw [hx, ← hv]
  exact scalarOp_runs hr hs hd

theorem twoSources_of_binOp {i : RForm → Instr} {op v : Word → Word → Word} (hv : ∀ a b, op a b = v a b)
    (hx : ∀ f s, exec (i f) s = binOp (i f) f op s) : Claims.TwoSources i v :=
  fun f s => scalarOp_completes (hx f s) (hv _ _)

theorem oneSource_of_unOp {i : RForm → Instr} {op v : Word → Word} (hv : ∀ a, op a = v a)
    (hx : ∀ f s, exec (i f) s = unOp (i f) f op s) : Claims.OneSource i v :=
  fun f s => scalarOp_completes (hx f s) (hv _)

theorem orFstat_divFlags (k : Core) (t : StreamId) (b : Word) : k.orFstat (divFlags t b) =
    if t = .x ∧ b = 0 then { k with vec := { k.vec with fstat := k.vec.fstat ||| 0x10 } } else k := by
  unfold divFlags
  split
  · rfl
  · simp only [Core.orFstat, BitVec.ofNat_eq_ofNat, BitVec.or_zero]

theorem finishScalar_run (l : List Src) (d : Code) (v : Word) (s : State) :
    finishScalar l d v s = .ok () (s.wrote l d v) := rfl

theorem division_of_divOp {i : RForm → Instr} {op v : Word → Word → Word} (hv : ∀ a b, op a b = v a b)
    (hx : ∀ f s, exec (i f) s = divOp (i f) f op s) : Claims.Division i v := by
  intro f s hr hs hd
  rw [hx, ← hv]
  refine issue_runs hr ?_
  rw [exec_bind_ok (readSources_ok hs), exec_bind_ok (destWait_ok hd), exec_bind_ok (finishScalar_run ..), exec_modify]
  simp only [orFstat_divFlags]
  rfl

/-- The results of R103 but division: AND to ORN are the model's own operations, the others are read as numbers. -/
theorem integerResults : Claims.IntegerResults :=
  ⟨twoSources_of_binOp add_eq_word fun _ _ => rfl,
   twoSources_of_binOp sub_eq_word fun _ _ => rfl,
   twoSources_of_binOp mul_eq_word fun _ _ => rfl,
   twoSources_of_binOp mulHigh_eq_word fun _ _ => rfl,
   twoSources_of_binOp mulHighSigned_eq_ofInt fun _ _ => rfl,
   twoSources_of_binOp (fun _ _ => rfl) fun _ _ => rfl,
   twoSources_of_binOp (fun _ _ => rfl) fun _ _ => rfl,
   twoSources_of_binOp (fun _ _ => rfl) fun _ _ => rfl,
   twoSources_of_binOp (fun _ _ => rfl) fun _ _ => rfl,
   twoSources_of_binOp (fun _ _ => rfl) fun _ _ => rfl,
   twoSources_of_binOp (fun a b => shiftLeft_eq_word a (shamt b)) fun _ _ => rfl,
   twoSources_of_binOp (fun a b => ushiftRight_eq_word a (shamt b)) fun _ _ => rfl,
   twoSources_of_binOp (fun a b => sshiftRight_eq_ofInt a (shamt b)) fun _ _ => rfl,
   twoSources_of_binOp (fun a b => rotateLeft_eq_word a (shamt_lt b)) fun _ _ => rfl,
   twoSources_of_binOp min_eq_word fun _ _ => rfl,
   twoSources_of_binOp max_eq_word fun _ _ => rfl,
   twoSources_of_binOp mins_eq_ofInt fun _ _ => rfl,
   twoSources_of_binOp maxs_eq_ofInt fun _ _ => rfl⟩

theorem divisionResults : Claims.DivisionResults :=
  ⟨division_of_divOp quotU_eq_word fun _ _ => rfl,
   division_of_divOp remU_eq_word fun _ _ => rfl,
   division_of_divOp quotS_eq_ofInt fun _ _ => rfl,
   division_of_divOp remS_eq_ofInt fun _ _ => rfl⟩

/-- Settles O1: every instruction of R103 is a scalar operation of two sources, and each result is the number that R98
and R99 give. -/
theorem integerArithmetic : Obligations.IntegerArithmetic := ⟨integerResults, divisionResults⟩

theorem readSources_nil (s : State) : readSources [] s = .ok [] s := rfl

/-- An instruction without sources writes its value `v` when its destination is ready, whether or not a debugger matches
(R107). -/
theorem immediate_completes {i : Instr} {d : Code} {s : State} {u v : Word} (hx : exec i s = scalarOp i [] d (fun _ => u) s)
    (hv : u = v) (hr : Runs i s) (hd : DestReady s d) : exec i s = .next (s.done i (s.wrote [] d v)) := by
  rw [hx, hv]
  refine issue_runs hr ?_
  rw [exec_bind_ok (readSources_nil s), exec_bind_ok (destWait_ok hd), finishScalar_run]

/-! ### BFI: the old D is a source, so the destination is ready (R105) -/

theorem codeIsQ_eq_false_of_codeIsS {c : Code} (h : codeIsS c = true) : codeIsQ c = false := by
  simp only [codeIsS, decide_eq_true_eq, codeIsQ, Bool.and_eq_false_iff, decide_eq_false_iff_not] at h ⊢
  omega

/-- A scalar register that can be read can be written: the one wait of both is an empty register (R20, R21). -/
theorem destReady_of_sourceReady {s : State} {c : Code} (hc : codeIsS c = true) (h : SourceReady s c) : DestReady s c := by
  obtain ⟨hne, -⟩ := h
  have hq := codeIsQ_eq_false_of_codeIsS hc
  rw [Core.srcEmpty, hq] at hne
  rw [DestReady, hq]
  exact hne

/-- D of BFI names a scalar register (R40, R105). -/
theorem codeIsS_of_runs_bfi {f : RForm} {s : State} (h : Runs (.bfi f) s) : codeIsS f.d = true := by
  obtain ⟨-, -, hf, -⟩ := h
  have hfields : rOk s.turn.2 .sNoE .src .src .src mZero f = true := hf
  simp only [rOk, Bool.and_eq_true] at hfields
  obtain ⟨⟨⟨⟨hd, -⟩, -⟩, -⟩, -⟩ := hfields
  exact hd

theorem bfi_completes (f : RForm) (s : State) (p n : Nat) (hr : Runs (.bfi f) s)
    (hs : SourcesReady s [srcA f, srcB f, srcC f, ⟨f.d, false⟩]) (hp : p = (s.src f.b).toNat % 64)
    (hn : n = min ((s.src f.c).toNat % 128) (64 - p)) :
    exec (.bfi f) s = .next (s.done (.bfi f) (s.wrote [srcA f, srcB f, srcC f, ⟨f.d, false⟩] f.d
      (word ((s.src f.d).toNat - (s.src f.d).toNat / 2 ^ p % 2 ^ n * 2 ^ p + (s.src f.a).toNat % 2 ^ n * 2 ^ p)))) := by
  subst hn hp
  obtain ⟨-, hready⟩ := id hs
  have hd : DestReady s f.d := destReady_of_sourceReady (codeIsS_of_runs_bfi hr) (hready ⟨f.d, false⟩ (by simp))
  exact scalarOp_completes rfl (bfiRes_eq_word ..) hr hs hd

/-- Settles O2: each instruction of R104 to R107 is a scalar operation whose result is the number that its rule gives. -/
theorem fieldAndMoveResults : Obligations.FieldAndMoveResults :=
  ⟨oneSource_of_unOp clz_eq_word fun _ _ => rfl,
   oneSource_of_unOp ctz_eq_word fun _ _ => rfl,
   oneSource_of_unOp popc_eq_word fun _ _ => rfl,
   twoSources_of_binOp sextRes_eq_ofInt fun _ _ => rfl,
   twoSources_of_binOp zextRes_eq_word fun _ _ => rfl,
   oneSource_of_unOp (fun _ => rfl) fun _ _ => rfl,
   fun _ _ => scalarOp_completes rfl rfl,
   fun _ _ => scalarOp_completes rfl rfl,
   bfi_completes,
   fun _ _ => scalarOp_completes rfl (addShifted_eq_word ..),
   fun _ _ => scalarOp_completes rfl (add_sext64_eq_ofInt _ _ (by decide)),
   fun f _ => immediate_completes rfl (sext64_eq_ofInt f.imm (by decide)),
   fun _ _ => immediate_completes rfl rfl⟩

/-! ### Branch targets (R38) -/

theorem branchTarget_eq_target (base : Word) (f : JForm) : branchTarget base f = Claims.target base f := by
  have h8 : (8 : Word) = BitVec.ofInt 64 8 := rfl
  rw [branchTarget, Claims.target, BitVec.ofInt_add, BitVec.ofInt_mul, ← eq_ofInt_toNat, h8,
    sext64_eq_ofInt f.offset (by decide)]

theorem checkTarget_ok {t : Word} (h : Claims.GoodTarget t) (s : State) : checkTarget t s = .ok () s := by
  obtain ⟨halign, hbound⟩ := h
  rw [checkTarget, exec_bind_ok (need_ok (beq_iff_eq.2 halign) ..), need_ok (decide_eq_true hbound)]

theorem checkTarget_misaligned {t : Word} (h : t.toNat % 8 ≠ 0) (s : State) :
    checkTarget t s = .error (.trap .align t) s := by
  rw [checkTarget, beq_false_of_ne h]
  exact exec_bind_error (need_false ..)

theorem checkTarget_high {t : Word} (halign : t.toNat % 8 = 0) (h : 2 ^ 48 ≤ t.toNat) (s : State) :
    checkTarget t s = .error (.trap .bound t) s := by
  rw [checkTarget, exec_bind_ok (need_ok (beq_iff_eq.2 halign) ..), decide_eq_false (Nat.not_lt.2 h), need_false]

theorem issueTo_congr {i : Instr} {body body' : Exec Word} {s : State} (h : body s = body' s) :
    issueTo i body s = issueTo i body' s := by
  simp only [issueTo, h]

/-- A branch that runs goes on behind a target that passes the checks. -/
theorem issueTo_goodTarget {i : Instr} {k : Unit → Exec Word} {s s' : State} {t pc : Word} (hr : Runs i s)
    (ht : Claims.GoodTarget t) (hk : k () s = .ok pc s') : issueTo i (checkTarget t >>= k) s = .next (s.retired pc s') :=
  issueTo_runs hr ((exec_bind_ok (checkTarget_ok ht s)).trans hk)

/-- A branch that runs stops at a target that fails a check. -/
theorem issueTo_badTarget {i : Instr} {k : Unit → Exec Word} {s : State} {t : Word} {stop : Stop} (hr : Runs i s)
    (hc : checkTarget t s = .error stop s) : issueTo i (checkTarget t >>= k) s = applyStop (firstWord i) stop s :=
  issueTo_stops hr (exec_bind_error hc)

/-! ### The five branches once their sources are read: the target is checked before anything else (R100, R110) -/

theorem exec_br (f : JForm) (s : State) : exec (.br f) s =
    issueTo (.br f) (checkTarget (Claims.target s.strm.pc f) >>= fun _ => pure (Claims.target s.strm.pc f)) s := by
  rw [← branchTarget_eq_target]
  rfl

theorem exec_jmp {f : JForm} {s : State} (hs : SourcesReady s [⟨f.t, false⟩]) : exec (.jmp f) s =
    issueTo (.jmp f) (checkTarget (Claims.target (s.src f.t) f) >>= fun _ => pure (Claims.target (s.src f.t) f)) s := by
  rw [← branchTarget_eq_target]
  refine issueTo_congr ?_
  rw [exec_bind_ok (readSources_ok hs)]
  rfl

theorem exec_call {f : JForm} {s : State} {b : Word} (hs : SourcesReady s [⟨f.t, false⟩])
    (hb : b = if f.t = 0 then s.strm.pc else s.src f.t) : exec (.call f) s =
    issueTo (.call f) (checkTarget (Claims.target b f) >>= fun _ => do
      destWait f.d
      finishScalar [] f.d (s.strm.pc + 16)
      return Claims.target b f) s := by
  rw [← branchTarget_eq_target, hb]
  refine issueTo_congr ?_
  rw [exec_bind_ok (readSources_ok hs)]
  rfl

theorem exec_ret {f : JForm} {s : State} (hs : SourcesReady s [⟨f.t, false⟩]) : exec (.ret f) s =
    issueTo (.ret f) (checkTarget (s.src f.t) >>= fun _ => pure (s.src f.t)) s :=
  issueTo_congr (exec_bind_ok (readSources_ok hs))

theorem exec_loop {f : JForm} {s : State} (hs : SourcesReady s [⟨f.cnt, false⟩]) : exec (.loop f) s =
    issueTo (.loop f) (checkTarget (Claims.target s.strm.pc f) >>= fun _ => do
      finishScalar [] f.cnt (s.src f.cnt - 1)
      return if s.src f.cnt - 1 = 0 then s.strm.pc + 16 else Claims.target s.strm.pc f) s := by
  rw [← branchTarget_eq_target]
  refine issueTo_congr ?_
  rw [exec_bind_ok (readSources_ok hs)]
  rfl

/-! ### The statements of R110 -/

theorem call_completes (f : JForm) (s : State) (b : Word) (hr : Runs (.call f) s) (hs : SourcesReady s [⟨f.t, false⟩])
    (hd : DestReady s f.d) (hb : b = if f.t = 0 then s.strm.pc else s.src f.t) (ht : Claims.GoodTarget (Claims.target b f)) :
    exec (.call f) s = .next (s.retired (Claims.target b f) (s.wrote [] f.d (s.strm.pc + 16))) := by
  rw [exec_call hs hb]
  refine issueTo_goodTarget hr ht ?_
  rw [exec_bind_ok (destWait_ok hd), exec_bind_ok (finishScalar_run ..), exec_pure]

theorem loop_completes (f : JForm) (s : State) (n : Word) (hr : Runs (.loop f) s) (hs : SourcesReady s [⟨f.cnt, false⟩])
    (ht : Claims.GoodTarget (Claims.target s.strm.pc f)) (hn : n = word (2 ^ 64 + (s.src f.cnt).toNat - 1)) :
    exec (.loop f) s = .next (s.retired (if n = 0 then s.strm.pc + 16 else Claims.target s.strm.pc f)
      (s.wrote [] f.cnt n)) := by
  have hcount : s.src f.cnt - 1 = n := (sub_eq_word (s.src f.cnt) 1).trans hn.symm
  rw [exec_loop hs, hcount]
  refine issueTo_goodTarget hr ht ?_
  rw [exec_bind_ok (finishScalar_run ..), exec_pure]

theorem branchResults : Claims.BranchResults := by
  refine ⟨fun f s hr ht => ?br, fun f s hr hs ht => ?jmp, call_completes, fun f s hr hs ht => ?ret, loop_completes⟩
  case br => exact (exec_br f s).trans (issueTo_goodTarget hr ht rfl)
  case jmp => exact (exec_jmp hs).trans (issueTo_goodTarget hr ht rfl)
  case ret => exact (exec_ret hs).trans (issueTo_goodTarget hr ht rfl)

/-- The target `t` of each of the five branches, with its sources ready (R38, R110). -/
def BranchesTo (i : JForm → Instr) (f : JForm) (s : State) (t : Word) : Prop :=
  (i = .br ∧ t = Claims.target s.strm.pc f) ∨
    (i = .jmp ∧ SourcesReady s [⟨f.t, false⟩] ∧ t = Claims.target (s.src f.t) f) ∨
    (i = .call ∧ SourcesReady s [⟨f.t, false⟩] ∧ t = Claims.target (if f.t = 0 then s.strm.pc else s.src f.t) f) ∨
    (i = .ret ∧ SourcesReady s [⟨f.t, false⟩] ∧ t = s.src f.t) ∨
    (i = .loop ∧ SourcesReady s [⟨f.cnt, false⟩] ∧ t = Claims.target s.strm.pc f)

/-- A branch whose target fails a check makes the stop of the check, before any wait or write of its own. -/
theorem branch_stops {i : JForm → Instr} {f : JForm} {s : State} {t : Word} {stop : Stop} (hi : BranchesTo i f s t)
    (hr : Runs (i f) s) (hc : checkTarget t s = .error stop s) : exec (i f) s = applyStop (firstWord (i f)) stop s := by
  obtain ⟨rfl, rfl⟩ | ⟨rfl, hs, rfl⟩ | ⟨rfl, hs, rfl⟩ | ⟨rfl, hs, rfl⟩ | ⟨rfl, hs, rfl⟩ := hi
  · exact (exec_br f s).trans (issueTo_badTarget hr hc)
  · exact (exec_jmp hs).trans (issueTo_badTarget hr hc)
  · exact (exec_call hs rfl).trans (issueTo_badTarget hr hc)
  · exact (exec_ret hs).trans (issueTo_badTarget hr hc)
  · exact (exec_loop hs).trans (issueTo_badTarget hr hc)

theorem branchTraps : Claims.BranchTraps := fun _ _ s _ hi hr =>
  ⟨fun halign => branch_stops hi hr (checkTarget_misaligned halign s),
   fun halign hbound => branch_stops hi hr (checkTarget_high halign hbound s)⟩

theorem branchFallsThrough : Claims.BranchFallsThrough := by
  rintro i f s (rfl | rfl | rfl | rfl | rfl) hp <;> exact issueTo_skips hp

/-- Settles O4: the check of the target comes before the wait for the destination and every write, so a bad target leaves
no effect, and behind a good one CALL writes its link and LOOP its count. -/
theorem branches : Obligations.Branches := ⟨branchResults, branchTraps, branchFallsThrough⟩

end Sys2Proof.Machine
end

section
/-! PROOFS. Slots, active slots and segments of vector registers, and a register after the write of a segment (R70, R72, R123). -/

namespace Sys2Proof.Machine

/-! ### Widths and slots (R70, R116) -/

theorem Vec.w_eq (v : Vec) : v.w = 8 ∨ v.w = 16 ∨ v.w = 32 := by
  unfold Vec.w
  split
  · exact .inl rfl
  · exact .inr (.inl rfl)
  · exact .inr (.inr rfl)

theorem segSlots_pos (v : Vec) : 0 < segSlots v.w := by
  rcases v.w_eq with h | h | h <;> rw [h] <;> decide

theorem segSlots_le (w : Nat) : segSlots w ≤ 512 := Nat.div_le_self ..

theorem mul_segSlots_le (w : Nat) : w * segSlots w ≤ 512 := Nat.mul_div_le ..

theorem slotOf_lt (w : Nat) (b : LineBits) (j : Nat) : slotOf w b j < 2 ^ w := Nat.mod_lt _ (Nat.two_pow_pos _)

theorem VReg.slot_mod (r : VReg) (w i : Nat) : r.slot w i % 2 ^ w = r.slot w i := Nat.mod_eq_of_lt (slotOf_lt ..)

/-- The write of results under one tag that gives what R72 says, from the segments it makes. -/
theorem filled_of_merged {w vl : Nat} {r r' : VReg} {act : Nat → Bool} {tag : Nat → Tag} {res : Nat → Nat} (hn : 0 < segSlots w)
    (hin : ∀ g, (∃ i, act i = true ∧ i / segSlots w = g) → r'.seg g = mergeSegBy w vl act g (r.seg g) (tag g) res)
    (hout : ∀ g, (∀ i, act i = true → i / segSlots w ≠ g) → r'.seg g = r.seg g) :
    Claims.Filled w vl r r' act tag res := by
  have hslot : ∀ i j, act j = true → i / segSlots w = j / segSlots w → r'.slot w i =
      (if act i then res i else if vl ≤ i then 0
        else if (r.seg (i / segSlots w)).tag = tag (i / segSlots w) then r.slot w i else 0) % 2 ^ w := by
    intro i j hj hij
    rw [VReg.slot, hin _ ⟨j, hj, hij.symm⟩, slotOf_mergeSegBy (Nat.mod_lt _ hn) (mul_segSlots_le w), Nat.div_add_mod']
    rfl
  refine ⟨fun i hi => ⟨?_, ?_⟩, fun i j hj hi hij => ?_, hout⟩
  · exact congrArg Segment.tag (hin _ ⟨i, hi, rfl⟩)
  · rw [hslot i i hi rfl, if_pos hi]
  · rw [hslot i j hj hij, if_neg (by simp [hi])]
    simp only [apply_ite (· % 2 ^ w), Nat.zero_mod, VReg.slot_mod]
    rfl

/-! ### Active slots (R72) -/

theorem activeSlot_maskReg (s : State) (mk : Bool) (i : Nat) :
    activeSlot s.cur.vec (maskReg s.cur mk) i = Claims.active s mk i := by
  cases mk <;> rfl

theorem mem_activeIn {v : Vec} {mk : Option VReg} {g i : Nat} :
    i ∈ activeIn v mk g ↔ i / segSlots v.w = g ∧ activeSlot v mk i = true := by
  have hn := segSlots_pos v
  simp only [activeIn, List.mem_filter, List.mem_map, List.mem_range]
  refine and_congr_left fun _ => ⟨?_, ?_⟩
  · rintro ⟨j, hj, rfl⟩
    rw [Nat.mul_comm, Nat.mul_add_div hn, Nat.div_eq_of_lt hj, Nat.add_zero]
  · rintro rfl
    exact ⟨i % segSlots v.w, Nat.mod_lt _ hn, Nat.div_add_mod' ..⟩

theorem lt_vl_of_activeSlot {v : Vec} {mk : Option VReg} {i : Nat} (h : activeSlot v mk i = true) :
    v.vstart.toNat ≤ i ∧ i < v.vl.toNat := by
  simp only [activeSlot, Bool.and_eq_true, decide_eq_true_eq] at h
  exact h.1

theorem inRange_of_slot {s : State} {i : Nat} (hlo : s.cur.vec.vstart.toNat ≤ i) (hhi : i < s.cur.vec.vl.toNat) :
    Claims.InRange s (i / Claims.slots s) :=
  ⟨by omega, Nat.div_le_div_right hlo, Nat.div_le_div_right (by omega)⟩

theorem mem_segRange {s : State} {g : Nat} : g ∈ segRange s.cur.vec ↔ Claims.InRange s g := by
  simp only [segRange, Claims.InRange, Claims.slots, segSlots]
  split
  · simp; omega
  · simp only [List.mem_map, List.mem_range]
    constructor
    · rintro ⟨j, hj, rfl⟩
      omega
    · rintro ⟨-, hlo, hhi⟩
      exact ⟨g - s.cur.vec.vstart.toNat / (512 / s.cur.vec.w), by omega, by omega⟩

theorem segRange_sorted (v : Vec) : (segRange v).Pairwise (· < ·) := by
  unfold segRange
  split
  · exact .nil
  · exact List.pairwise_lt_range.map _ fun _ _ h => by omega

/-! ### A register after the writes of a segment and of a mask bit -/

theorem Core.vreg_setVreg_eq (k : Core) (c d : Code) (r : VReg) :
    (k.setVreg d r).vreg c = if c.toNat - 0x40 = d.toNat - 0x40 then r else k.vreg c := by
  split
  · next h =>
    rw [Core.vreg, h]
    exact k.vreg_setVreg d r
  · next h => exact k.vreg_setVreg_other r h

theorem Core.vreg_of_v {k k' : Core} (h : k'.vec.v = k.vec.v) (c : Code) : k'.vreg c = k.vreg c := by
  rw [Core.vreg, h, Core.vreg]

theorem codeIsV_range {c : Code} (h : codeIsV c = true) : 0x40 ≤ c.toNat ∧ c.toNat < 0x60 := by
  simpa [codeIsV] using h

/-- Another vector register does not see a write. -/
theorem Core.vreg_setVreg_ne (k : Core) {c d : Code} (r : VReg) (hc : codeIsV c = true) (hd : codeIsV d = true) (h : c ≠ d) :
    (k.setVreg d r).vreg c = k.vreg c := by
  have hne : c.toNat ≠ d.toNat := fun e => h (BitVec.eq_of_toNat_eq e)
  have := codeIsV_range hc
  have := codeIsV_range hd
  exact k.vreg_setVreg_other r (by omega)

/-- Segment `g` of a register stands as it did, and passes its parity check if it did. -/
def VReg.Keeps (r r' : VReg) (g : Nat) : Prop := r'.seg g = r.seg g ∧ (g ∉ r.badParity → g ∉ r'.badParity)

theorem VReg.Keeps.refl (r : VReg) (g : Nat) : r.Keeps r g := ⟨rfl, id⟩

theorem VReg.Keeps.trans {r r' r'' : VReg} {g : Nat} (h : r.Keeps r' g) (h' : r'.Keeps r'' g) : r.Keeps r'' g :=
  ⟨h'.1.trans h.1, fun hg => h'.2 (h.2 hg)⟩

theorem VReg.keeps_putSeg (r : VReg) {g h : Nat} (x : Segment) (hne : h ≠ g) : r.Keeps (r.putSeg g x) h :=
  ⟨r.seg_putSeg_other x hne, fun hp hm => hp (List.mem_filter.1 hm).1⟩

theorem Core.keeps_setVreg {k : Core} {d : Code} {r : VReg} {g : Nat} (h : (k.vreg d).Keeps r g) (c : Code) :
    (k.vreg c).Keeps ((k.setVreg d r).vreg c) g := by
  rw [Core.vreg_setVreg_eq]
  split
  · next hc => rwa [Core.vreg, hc]
  · exact .refl ..

end Sys2Proof.Machine
end

section
/-! PROOFS. What a vector instruction keeps of its core and of the machine, and the checks it makes before its first segment (R72,
R123). -/

namespace Sys2Proof.Machine

/-! ### What a vector instruction keeps of its core and of the machine (R72, R123) -/

/-- What the segments of a vector instruction and the pops of its queue sources leave of a core. -/
structure Core.VectorKept (k k' : Core) : Prop where
  vl : k'.vec.vl = k.vec.vl
  vtype : k'.vec.vtype = k.vec.vtype
  book : k'.book = k.book
  sp : k'.sp = k.sp
  copy : k'.copy = k.copy
  mat : k'.mat = k.mat
  regs : ∀ t c, (k'.stream t).reg c = (k.stream t).reg c ∧ (k'.stream t).pred c = (k.stream t).pred c

theorem Core.VectorKept.refl (k : Core) : k.VectorKept k := ⟨rfl, rfl, rfl, rfl, rfl, rfl, fun _ _ => ⟨rfl, rfl⟩⟩

theorem Core.VectorKept.trans {k k' k'' : Core} (h : k.VectorKept k') (h' : k'.VectorKept k'') : k.VectorKept k'' :=
  ⟨h'.vl.trans h.vl, h'.vtype.trans h.vtype, h'.book.trans h.book, h'.sp.trans h.sp, h'.copy.trans h.copy, h'.mat.trans h.mat,
    fun t c => ⟨(h'.regs t c).1.trans (h.regs t c).1, (h'.regs t c).2.trans (h.regs t c).2⟩⟩

theorem Core.VectorKept.w {k k' : Core} (h : k.VectorKept k') : k'.vec.w = k.vec.w := by rw [Vec.w, h.vtype, Vec.w]

theorem Core.vectorKept_setVstart (k : Core) (n : Nat) : k.VectorKept (k.setVstart n) :=
  ⟨rfl, rfl, rfl, rfl, rfl, rfl, fun _ _ => ⟨rfl, rfl⟩⟩

theorem Core.vectorKept_setVreg (k : Core) (c : Code) (r : VReg) : k.VectorKept (k.setVreg c r) :=
  ⟨rfl, rfl, rfl, rfl, rfl, rfl, fun _ _ => ⟨rfl, rfl⟩⟩

theorem Core.vectorKept_orFstat (k : Core) (f : BitVec 6) : k.VectorKept (k.orFstat f) :=
  ⟨rfl, rfl, rfl, rfl, rfl, rfl, fun _ _ => ⟨rfl, rfl⟩⟩

theorem Core.vectorKept_note (k : Core) (e : Nat) (t : Option StreamId) (l : Level) (n : Nat) : k.VectorKept (k.note e t l n) := by
  refine ⟨?_, ?_, ?_, ?_, ?_, ?_, fun u c => ?_⟩ <;> simp

theorem Core.vec_pop (k : Core) (c : Code) : (k.pop c).vec = k.vec := by simp [Core.pop, Core.setEvf]

theorem Core.vectorKept_pop (k : Core) (c : Code) : k.VectorKept (k.pop c) := by
  refine ⟨congrArg Vec.vl (k.vec_pop c), congrArg Vec.vtype (k.vec_pop c), ?_, ?_, ?_, ?_, fun t d => ?_⟩
  · simp [Core.pop, Core.setEvf]
  · simp [Core.pop, Core.setEvf]
  · simp [Core.pop, Core.setEvf]
  · simp [Core.pop, Core.setEvf]
  · cases t <;> cases hr : queueReader c <;> simp only [Core.pop, Core.setEvf, hr, otherStream, Core.setStream, Core.stream] <;>
      exact ⟨rfl, rfl⟩

theorem Core.vec_popAll (k : Core) (l : List Src) : (k.popAll l).vec = k.vec := by
  unfold Core.popAll
  induction popCodes l generalizing k with
  | nil => rfl
  | cons c r ih => rw [List.foldl_cons, ih, k.vec_pop]

theorem Core.vectorKept_popAll (k : Core) (l : List Src) : k.VectorKept (k.popAll l) := by
  unfold Core.popAll
  induction popCodes l generalizing k with
  | nil => exact .refl k
  | cons c r ih => exact (k.vectorKept_pop c).trans (ih _)

theorem bookOf_of_book {k k' : Core} (h : k'.book = k.book) : bookOf k' = bookOf k := by
  funext x c
  rw [bookOf, bookOf, Core.bookSlot, h, Core.bookSlot]

theorem decodeSlot_of_book {k k' : Core} (h : k'.book = k.book) (fz : Bool) (t : Tag) (b : Nat) :
    decodeSlot k' fz t b = decodeSlot k fz t b := by rw [decodeSlot, bookOf_of_book h, decodeSlot]

/-- A state on the way through the segments of a vector instruction that began at `s`. -/
structure Underway (s t : State) : Prop where
  turn : t.turn = s.turn
  mem : t.mem = s.mem
  writes : t.writes = s.writes
  core : s.cur.VectorKept t.cur

theorem Underway.refl (s : State) : Underway s s := ⟨rfl, rfl, rfl, .refl _⟩

theorem Underway.modCur {s t : State} {f : Core → Core} (h : Underway s t) (hf : t.cur.VectorKept (f t.cur)) :
    Underway s (t.modCur f) :=
  ⟨h.turn, h.mem, h.writes, by rw [State.cur_modCur]; exact h.core.trans hf⟩

theorem Underway.vectorFrame {s u : State} (h : Underway s u) (h0 : u.cur.vec.vstart = 0) : Claims.VectorFrame s u :=
  ⟨h.core.vl, h.core.vtype, h0, h.mem, h.writes, h.core.sp, h.core.copy, h.core.mat, h.core.regs⟩

/-! ### The checks before the first segment (rows 1 to 4 of R123) -/

theorem vsrcEmpty_of_ready {s : State} {l : List Src} {mk : Bool} {d : Code} (h : Claims.VectorReady s l mk d) :
    ∀ x ∈ l, s.cur.vsrcEmpty s.turn.2 x.code = false := by
  obtain ⟨-, hl, -⟩ := h
  intro x hx
  have hr := hl x hx
  unfold Core.vsrcEmpty
  split at hr
  · next hv => rwa [if_pos hv]
  · next hv =>
    rw [if_neg hv]
    exact hr.1

theorem vsourcesE_ok {k : Core} {t : StreamId} {l : List Src} (h : ∀ x ∈ l, k.vsrcEmpty t x.code = false) :
    vsourcesE k t l = .ok () := by
  induction l with
  | nil => rfl
  | cons x r ih => simp [vsourcesE, h x (by simp), ih (fun y hy => h y (by simp [hy]))]

theorem vsourcesWait_ok {k : Core} {t : StreamId} {l : List Src} (h : ∀ x ∈ l, k.vsrcEmpty t x.code = false) :
    vsourcesWait k t l = .ok () := by
  induction l with
  | nil => rfl
  | cons x r ih => simp [vsourcesWait, h x (by simp), ih (fun y hy => h y (by simp [hy]))]

theorem vectorWaits_ok {s : State} {l : List Src} {mk : Bool} {d : Code} (h : Claims.VectorReady s l mk d) :
    vectorWaits l mk d s = .ok () s := by
  have hne := vsrcEmpty_of_ready h
  obtain ⟨-, -, hmask, hdest, -⟩ := h
  have hm : (mk && (s.cur.vreg codeV0).empty) = false := by
    cases mk with
    | false => rfl
    | true => exact hmask rfl
  have hd : (if codeIsV d then Exec.ofExcept (vdestWait s.cur s.turn.2 d) else pure ()) s = .ok () s := by
    split
    · next hv => rw [vdestWait, if_pos hv, hdest hv]; rfl
    · rfl
  unfold vectorWaits
  rw [exec_bind_ok (exec_get s), vsourcesE_ok hne, vsourcesWait_ok hne, exec_bind_ok (ofExcept_ok ..),
    exec_bind_ok (ofExcept_ok ..), hm]
  exact hd

theorem sourceClass_vector {s : State} {x : Src} (hx : codeIsV x.code = true) : sourceClass x s = .ok () s := by
  have hq : codeIsQ x.code = false := by
    have := codeIsV_range hx
    simp only [codeIsQ, Bool.and_eq_false_iff, decide_eq_false_iff_not]
    omega
  rw [sourceClass, exec_bind_ok (exec_get s), hq]
  rfl

/-- Rows 1 to 3 of R123 pass. -/
theorem vectorSources_ok {s : State} {l : List Src} {mk : Bool} {d : Code} (h : Claims.VectorReady s l mk d) :
    vectorSources l mk d s = .ok () s := by
  rw [vectorSources, exec_bind_ok (vectorWaits_ok h)]
  obtain ⟨hq, hl, -⟩ := h
  refine forM_same fun x hx => ?_
  have hr := hl x hx
  split at hr
  · next hv => exact sourceClass_vector hv
  · exact sourceClass_ok hq hr

theorem mem_maskSegs {v : Vec} {g : Nat} (h : g ∈ maskSegs v) :
    ∃ i, v.vstart.toNat ≤ i ∧ i < v.vl.toNat ∧ i / 512 = g := by
  unfold maskSegs at h
  split at h
  · cases h
  · obtain ⟨j, hj, rfl⟩ := List.mem_map.1 h
    rw [List.mem_range] at hj
    exact ⟨max v.vstart.toNat (512 * (v.vstart.toNat / 512 + j)), by omega, by omega, by omega⟩

/-- Row 4 of R123 passes: the segments of the mask pass their parity checks (log 56). -/
theorem readMask_ok {s : State} {mk : Bool} (h : Claims.MaskSound s mk s.cur.vec.vstart.toNat) :
    readMask s.cur.vec mk s = .ok () s := by
  unfold readMask
  split
  · next hm =>
    refine forM_same fun g hg => ?_
    obtain ⟨i, hlo, hhi, rfl⟩ := mem_maskSegs hg
    exact laneCheck_ok (h hm i hlo hhi)
  · rfl

theorem maskSound_of_ready {s : State} {l : List Src} {mk : Bool} {d : Code} (h : Claims.VectorReady s l mk d) :
    Claims.MaskSound s mk s.cur.vec.vstart.toNat := by
  obtain ⟨-, -, -, -, -, hmask⟩ := h
  exact hmask

theorem quiet_of_ready {s : State} {l : List Src} {mk : Bool} {d : Code} (h : Claims.VectorReady s l mk d) : Quiet s := by
  obtain ⟨hq, -⟩ := h
  exact hq

theorem cut_of_ready {s : State} {l : List Src} {mk : Bool} {d : Code} (h : Claims.VectorReady s l mk d) : s.cut = none := by
  obtain ⟨-, -, -, -, hcut, -⟩ := h
  exact hcut

theorem bookWhole_ok {body : Exec Unit} {s t : State} (h : body s = .ok () t) : bookWhole body s = .ok () t := by
  rw [bookWhole, h]

end Sys2Proof.Machine
end

section
/-! PROOFS. The loop of a vector instruction over its segments, the write of one segment, and what has been written while segments
are left (R72, R123). -/

namespace Sys2Proof.Machine

/-! ### The loop over the segments (row 6 of R123) -/

/-- What an instruction that began at `s` finds as it comes to segment `g`: its registers there, and the slots at VSTART or above. -/
structure AtSegment (s t : State) (g : Nat) : Prop where
  underway : Underway s t
  keeps : ∀ c, (s.cur.vreg c).Keeps (t.cur.vreg c) g
  vstart : ∀ i, i / segSlots s.cur.vec.w = g → (t.cur.vec.vstart.toNat ≤ i ↔ s.cur.vec.vstart.toNat ≤ i)

section
variable {s t : State} {g : Nat} (h : AtSegment s t g)
include h

theorem AtSegment.w : t.cur.vec.w = s.cur.vec.w := h.underway.core.w

theorem AtSegment.seg (c : Code) : (t.cur.vreg c).seg g = (s.cur.vreg c).seg g := (h.keeps c).1

theorem AtSegment.sound {c : Code} (hc : Claims.Sound s c g) : g ∉ (t.cur.vreg c).badParity := (h.keeps c).2 hc

theorem AtSegment.slot {i : Nat} (hi : i / segSlots s.cur.vec.w = g) (c : Code) :
    (t.cur.vreg c).slot s.cur.vec.w i = (s.cur.vreg c).slot s.cur.vec.w i := by
  rw [VReg.slot, hi, h.seg, VReg.slot, hi]

theorem AtSegment.activeSlot {i : Nat} (hi : i / segSlots s.cur.vec.w = g) (mk : Option VReg) :
    activeSlot t.cur.vec mk i = activeSlot s.cur.vec mk i := by
  simp only [Machine.activeSlot, h.underway.core.vl, h.vstart i hi]

theorem AtSegment.activeIn (mk : Option VReg) : activeIn t.cur.vec mk g = activeIn s.cur.vec mk g := by
  simp only [Machine.activeIn, h.w]
  refine List.filter_congr fun i hi => h.activeSlot ?_ mk
  obtain ⟨j, hj, rfl⟩ := List.mem_map.1 hi
  rw [Nat.mul_comm, Nat.mul_add_div (segSlots_pos _), Nat.div_eq_of_lt (List.mem_range.1 hj), Nat.add_zero]

end

/-- The segments `r` are left to an instruction that began at `s`. -/
structure SegmentsAhead (s : State) (r : List Nat) (t : State) : Prop where
  sorted : r.Pairwise (· < ·)
  range : ∀ g ∈ r, Claims.InRange s g
  underway : Underway s t
  ahead : ∀ g ∈ r, AtSegment s t g

theorem SegmentsAhead.start {s : State} {r : List Nat} (hs : r.Pairwise (· < ·)) (hr : ∀ g ∈ r, Claims.InRange s g) :
    SegmentsAhead s r s :=
  ⟨hs, hr, .refl s, fun _ _ => ⟨.refl s, fun _ => .refl .., fun _ _ => .rfl⟩⟩

theorem SegmentsAhead.nil {s t : State} (h : Underway s t) : SegmentsAhead s [] t :=
  ⟨.nil, fun _ hn => absurd hn List.not_mem_nil, h, fun _ hn => absurd hn List.not_mem_nil⟩

theorem SegmentsAhead.segRange (s : State) : SegmentsAhead s (segRange s.cur.vec) s :=
  .start (segRange_sorted _) fun _ => mem_segRange.1

/-- The VSTART that segment `g` leaves is below the slots of every later segment (R72). -/
theorem vstart_behind {s : State} {g h i : Nat} (hg : Claims.InRange s g) (hh : Claims.InRange s h) (hlt : g < h)
    (hi : i / segSlots s.cur.vec.w = h) :
    (BitVec.ofNat 11 ((g + 1) * segSlots s.cur.vec.w)).toNat ≤ i ∧ s.cur.vec.vstart.toNat ≤ i := by
  obtain ⟨hvl, hlo, -⟩ := hg
  obtain ⟨-, -, hhi⟩ := hh
  have hn := segSlots_pos s.cur.vec
  change s.cur.vec.vstart.toNat / segSlots s.cur.vec.w ≤ g at hlo
  have hbelow : s.cur.vec.vstart.toNat < (g + 1) * segSlots s.cur.vec.w := (Nat.div_lt_iff_lt_mul hn).1 (by omega)
  have hstep : (g + 1) * segSlots s.cur.vec.w ≤ i := (Nat.le_div_iff_mul_le hn).1 (by omega)
  exact ⟨Nat.le_trans (BitVec.toNat_ofNat .. ▸ Nat.mod_le ..) hstep, by omega⟩

theorem SegmentsAhead.head_not_mem {s t : State} {g : Nat} {r : List Nat} (h : SegmentsAhead s (g :: r) t) : g ∉ r :=
  fun hm => Nat.lt_irrefl g ((List.pairwise_cons.1 h.sorted).1 g hm)

/-- One segment done: the later ones are left. -/
theorem SegmentsAhead.step {s t : State} {g : Nat} {r : List Nat} {f : Core → Core} (h : SegmentsAhead s (g :: r) t)
    (hk : t.cur.VectorKept (f t.cur)) (hv : (f t.cur).vec.vstart = BitVec.ofNat 11 ((g + 1) * segSlots s.cur.vec.w))
    (hr : ∀ n, g < n → ∀ c, (t.cur.vreg c).Keeps ((f t.cur).vreg c) n) : SegmentsAhead s r (t.modCur f) := by
  obtain ⟨hsorted, hrange, hunder, hahead⟩ := h
  obtain ⟨hlt, hsorted⟩ := List.pairwise_cons.1 hsorted
  have hmem : ∀ n ∈ r, n ∈ g :: r := fun n hn => List.mem_cons_of_mem _ hn
  refine ⟨hsorted, fun n hn => hrange n (hmem n hn), hunder.modCur hk, fun n hn => ⟨hunder.modCur hk, fun c => ?_, fun i hi => ?_⟩⟩
  · rw [State.cur_modCur]
    exact ((hahead n (hmem n hn)).keeps c).trans (hr n (hlt n hn) c)
  · obtain ⟨hnew, hold⟩ := vstart_behind (hrange g List.mem_cons_self) (hrange n (hmem n hn)) (hlt n hn) hi
    rw [State.cur_modCur, hv]
    exact iff_of_true hnew hold

/-- An instruction that no drain stops goes through its segments: where every segment passes its parity checks, and its own
checks and its write keep an invariant, the invariant holds at the end (R123, R356). -/
theorem eachSegment_ok {s : State} {cs : List Code} {gs : List Nat} {body : Nat → Exec Unit} (P : List Nat → State → Prop)
    (hq : Quiet s) (hcut : s.cut = none)
    (hstep : ∀ g r t, P (g :: r) t → (∀ c ∈ cs, g ∉ (t.cur.vreg c).badParity) ∧ ∃ u, body g t = .ok () u ∧ P r u)
    (h : P gs s) : ∃ u, eachSegment s cs gs body s = .ok () u ∧ P [] u := by
  have hloop := forM_ok (body := fun g => inSegment g (do readSegs s cs g; body g)) P (fun g r t ht => by
    obtain ⟨hsound, u, hu, hP⟩ := hstep g r t ht
    exact ⟨u, inSegment_ok ((exec_bind_ok (readSegs_ok hq hsound)).trans hu), hP⟩) h
  unfold eachSegment
  split
  · exact hloop
  · rwa [stopBetween_ok hcut]

/-! ### The write of a segment (R72, R87) -/

/-- What the write of one segment does to a core: `res` in its active slots under `tag`, the flags `fl`, and VSTART. -/
def Core.writeSegment (mk : Option VReg) (d : Code) (g : Nat) (tag : Tag) (res : Nat → Nat) (fl : BitVec 6) (k : Core) : Core :=
  let k' := k.note 4 (some .x) .u (activeIn k.vec mk g).length
  (if (activeIn k.vec mk g).isEmpty then k'
    else (k'.setVreg d ((k.vreg d).putSeg g (mergeSeg k.vec mk g ((k.vreg d).seg g) tag res))).orFstat fl).setVstart
      ((g + 1) * segSlots k.vec.w)

theorem Core.orFstat_zero (k : Core) : k.orFstat 0 = k := by
  have h : k.vec.fstat ||| 0 = k.vec.fstat := BitVec.or_zero
  simp only [Core.orFstat, h]

theorem writeSlots_run (mk : Option VReg) (g : Nat) (d : Code) (tag : Tag) (res : Nat → Nat) (t : State) :
    writeSlots mk g d tag res t = .ok () (t.modCur (Core.writeSegment mk d g tag res 0)) := by
  have hf : ∀ k, Core.writeSegment mk d g tag res 0 k = ((if (activeIn k.vec mk g).isEmpty then
      k.note 4 (some .x) .u (activeIn k.vec mk g).length
      else (k.note 4 (some .x) .u (activeIn k.vec mk g).length).setVreg d
        ((k.vreg d).putSeg g (mergeSeg k.vec mk g ((k.vreg d).seg g) tag res))).setVstart ((g + 1) * segSlots k.vec.w)) :=
    fun k => by rw [Core.writeSegment, Core.orFstat_zero]
  rw [writeSlots_ok, ← funext hf]

theorem writeResults_run (mk : Option VReg) (g : Nat) (d : Code) (rf k : Nat) (res : List (Nat × Rounded)) (extra : BitVec 6)
    (t : State) : writeResults mk g d rf k res extra t = .ok () (t.modCur (Core.writeSegment mk d g (mkTag rf 0 k)
      (fun i => ((tabFind res i).getD (0, 0)).1) (extra ||| orFlags (res.map (fun x => x.2.2))))) := by
  simp only [writeResults, exec_modify, Core.vreg_note]
  rfl

theorem mergeSegBy_congr {w vl g : Nat} {act act' : Nat → Bool} {old : Segment} {tag : Tag} {res res' : Nat → Nat}
    (ha : ∀ i, i / segSlots w = g → act i = act' i) (hr : ∀ i, i / segSlots w = g → act' i = true → res i = res' i) :
    mergeSegBy w vl act g old tag res = mergeSegBy w vl act' g old tag res' := by
  unfold mergeSegBy
  refine congrArg (fun l => Segment.mk (packSlots w l) tag) (List.map_congr_left fun j hj => ?_)
  rw [List.mem_range] at hj
  have hi : (g * segSlots w + j) / segSlots w = g := by
    rw [Nat.mul_comm, Nat.mul_add_div (Nat.zero_lt_of_lt hj), Nat.div_eq_of_lt hj, Nat.add_zero]
  simp only [ha _ hi]
  exact ite_congr rfl (fun hact => hr _ hi hact) fun _ => rfl

section
variable (mk : Option VReg) (d : Code) (g : Nat) (tag : Tag) (res : Nat → Nat) (fl : BitVec 6) (k : Core)

theorem Core.vectorKept_writeSegment : k.VectorKept (k.writeSegment mk d g tag res fl) := by
  refine .trans ?_ (Core.vectorKept_setVstart ..)
  split
  · exact k.vectorKept_note ..
  · exact ((k.vectorKept_note ..).trans (Core.vectorKept_setVreg ..)).trans (Core.vectorKept_orFstat ..)

theorem Core.vstart_writeSegment :
    (k.writeSegment mk d g tag res fl).vec.vstart = BitVec.ofNat 11 ((g + 1) * segSlots k.vec.w) := rfl

theorem Core.vreg_writeSegment (c : Code) : (k.writeSegment mk d g tag res fl).vreg c =
    if (activeIn k.vec mk g).isEmpty then k.vreg c
    else (k.setVreg d ((k.vreg d).putSeg g (mergeSeg k.vec mk g ((k.vreg d).seg g) tag res))).vreg c := by
  simp only [Core.writeSegment, Core.vreg_setVstart]
  split
  · exact Core.vreg_note ..
  · simp only [Core.vreg_orFstat, Core.vreg_setVreg_eq, Core.vreg_note]

theorem Core.fstat_writeSegment : (k.writeSegment mk d g tag res fl).vec.fstat =
    if (activeIn k.vec mk g).isEmpty then k.vec.fstat else k.vec.fstat ||| fl := by
  simp only [Core.writeSegment, Core.setVstart]
  split <;> simp [Core.orFstat, Core.setVreg]

theorem Core.keeps_writeSegment {n : Nat} (hn : n ≠ g) (c : Code) :
    (k.vreg c).Keeps ((k.writeSegment mk d g tag res fl).vreg c) n := by
  rw [Core.vreg_writeSegment]
  split
  · exact .refl ..
  · exact Core.keeps_setVreg (VReg.keeps_putSeg _ _ hn) c

end

/-! ### What has been written while segments are left -/

/-- FSTAT of an instruction that began at `s` holds the flags of the active slots, but for the segments `r`. -/
def FlagsLeft (s : State) (mk : Option VReg) (flags : Nat → BitVec 6) (r : List Nat) (t : State) : Prop :=
  ∀ b, t.cur.vec.fstat.getLsbD b = true ↔ s.cur.vec.fstat.getLsbD b = true ∨
    ∃ i, i / segSlots s.cur.vec.w ∉ r ∧ activeSlot s.cur.vec mk i = true ∧ (flags i).getLsbD b = true

/-- Every active slot lies in a segment of the range. -/
theorem activeIn_empty {s : State} {mk : Option VReg} {g : Nat} (hg : ¬Claims.InRange s g) : activeIn s.cur.vec mk g = [] := by
  refine List.eq_nil_iff_forall_not_mem.2 fun i hi => hg ?_
  obtain ⟨rfl, hact⟩ := mem_activeIn.1 hi
  obtain ⟨hlo, hhi⟩ := lt_vl_of_activeSlot hact
  exact inRange_of_slot hlo hhi

theorem FlagsLeft.start {s : State} {mk : Option VReg} {flags : Nat → BitVec 6} {r : List Nat}
    (hr : ∀ g, g ∉ r → activeIn s.cur.vec mk g = []) : FlagsLeft s mk flags r s := by
  refine fun b => (or_iff_left ?_).symm
  rintro ⟨i, hi, hact, -⟩
  exact List.ne_nil_of_mem (mem_activeIn.2 ⟨rfl, hact⟩) (hr _ hi)

theorem FlagsLeft.step {s t u : State} {mk : Option VReg} {flags : Nat → BitVec 6} {g : Nat} {r : List Nat}
    (h : FlagsLeft s mk flags (g :: r) t) (hg : g ∉ r)
    (hu : ∀ b, u.cur.vec.fstat.getLsbD b = true ↔ t.cur.vec.fstat.getLsbD b = true ∨
      ∃ i ∈ activeIn s.cur.vec mk g, (flags i).getLsbD b = true) : FlagsLeft s mk flags r u := by
  intro b
  rw [hu, h, or_assoc]
  refine or_congr_right ?_
  simp only [mem_activeIn, List.mem_cons, not_or]
  constructor
  · rintro (⟨i, ⟨-, hi⟩, hact, hb⟩ | ⟨i, ⟨rfl, hact⟩, hb⟩)
    · exact ⟨i, hi, hact, hb⟩
    · exact ⟨i, hg, hact, hb⟩
  · rintro ⟨i, hi, hact, hb⟩
    by_cases hig : i / segSlots s.cur.vec.w = g
    · exact .inr ⟨i, ⟨hig, hact⟩, hb⟩
    · exact .inl ⟨i, ⟨hig, hi⟩, hact, hb⟩

theorem FlagsLeft.flagsAdded {s t : State} {mk : Bool} {flags : Nat → BitVec 6}
    (h : FlagsLeft s (maskReg s.cur mk) flags [] t) : Claims.FlagsAdded s t (Claims.active s mk) flags := by
  intro b
  rw [h]
  simp only [List.not_mem_nil, not_false_eq_true, true_and, activeSlot_maskReg]

/-- The results of a vector instruction: the tag of each segment, the result and the flags of each slot. -/
structure Results where
  tag : Nat → Tag
  res : Nat → Nat
  flags : Nat → BitVec 6

/-- Segment `g` of the destination after the instruction (R72). -/
def Results.segment (o : Results) (s : State) (mk : Option VReg) (d : Code) (g : Nat) : Segment :=
  if (activeIn s.cur.vec mk g).isEmpty then (s.cur.vreg d).seg g
  else mergeSegBy s.cur.vec.w s.cur.vec.vl.toNat (activeSlot s.cur.vec mk) g ((s.cur.vreg d).seg g) (o.tag g) o.res

/-- An instruction that began at `s` has written its results to the register `d`, but for the segments `r`. -/
structure WritesLeft (s : State) (mk : Option VReg) (d : Code) (o : Results) (r : List Nat) (t : State) : Prop where
  segments : SegmentsAhead s r t
  dest : ∀ g, (t.cur.vreg d).seg g = if g ∈ r then (s.cur.vreg d).seg g else o.segment s mk d g
  others : ∀ c, codeIsV c = true → c ≠ d → t.cur.vreg c = s.cur.vreg c
  fstat : FlagsLeft s mk o.flags r t

theorem WritesLeft.start {s : State} {mk : Option VReg} {d : Code} {o : Results} {r : List Nat} (h : SegmentsAhead s r s)
    (hr : ∀ g, g ∉ r → activeIn s.cur.vec mk g = []) : WritesLeft s mk d o r s := by
  refine ⟨h, fun g => ?_, fun _ _ _ => rfl, .start hr⟩
  split
  · rfl
  · next hg => rw [Results.segment, hr g hg]; rfl

theorem WritesLeft.segRange (s : State) (mk : Option VReg) (d : Code) (o : Results) : WritesLeft s mk d o (segRange s.cur.vec) s :=
  .start (.segRange s) fun _ hg => activeIn_empty fun h => hg (mem_segRange.2 h)

/-- The write of the next segment: its results in the active slots, and flags that are those of its active slots. -/
theorem WritesLeft.step {s t : State} {mk : Option VReg} {d : Code} {o : Results} {g : Nat} {r : List Nat} {res : Nat → Nat}
    {fl : BitVec 6} (hd : codeIsV d = true) (h : WritesLeft s mk d o (g :: r) t)
    (hres : ∀ i ∈ activeIn s.cur.vec mk g, res i = o.res i)
    (hfl : ∀ b, fl.getLsbD b = true ↔ ∃ i ∈ activeIn s.cur.vec mk g, (o.flags i).getLsbD b = true) :
    WritesLeft s mk d o r (t.modCur (Core.writeSegment mk d g (o.tag g) res fl)) := by
  obtain ⟨hsegs, hdest, hothers, hfstat⟩ := h
  have hat : AtSegment s t g := hsegs.ahead g List.mem_cons_self
  have hg : g ∉ r := hsegs.head_not_mem
  refine ⟨hsegs.step (Core.vectorKept_writeSegment ..) ?_ fun n hn c => Core.keeps_writeSegment _ _ _ _ _ _ _ (Nat.ne_of_gt hn) c, ?_, ?_, ?_⟩
  · rw [Core.vstart_writeSegment, hat.w]
  · intro n
    rw [State.cur_modCur]
    by_cases hn : n = g
    · subst hn
      rw [if_neg hg, Core.vreg_writeSegment, hat.activeIn, Results.segment]
      split
      · exact hat.seg d
      · rw [Core.vreg_setVreg, VReg.seg_putSeg, mergeSeg, hat.seg, hat.w, hat.underway.core.vl]
        exact mergeSegBy_congr (fun i hi => hat.activeSlot hi mk) fun i hi hact => hres i (mem_activeIn.2 ⟨hi, hact⟩)
    · rw [(Core.keeps_writeSegment _ _ _ _ _ _ _ hn d).1, hdest]
      simp [hn]
  · intro c hc hne
    rw [State.cur_modCur, Core.vreg_writeSegment, Core.vreg_setVreg_ne _ _ hc hd hne, ite_self]
    exact hothers c hc hne
  · refine hfstat.step hg fun b => ?_
    rw [State.cur_modCur, Core.fstat_writeSegment, hat.activeIn, ← hfl]
    split
    · next hempty => simp [hfl, List.isEmpty_iff.1 hempty]
    · simp [BitVec.getLsbD_or]

section
variable {s t : State} {mk : Bool} {d : Code} {o : Results} (h : WritesLeft s (maskReg s.cur mk) d o [] t)
include h

/-- All segments written: the destination is as R72 says. -/
theorem WritesLeft.written : Claims.Written s t d (Claims.active s mk) o.tag o.res := by
  have hact : activeSlot s.cur.vec (maskReg s.cur mk) = Claims.active s mk := funext (activeSlot_maskReg s mk)
  have hdest : ∀ g, (t.cur.vreg d).seg g = o.segment s (maskReg s.cur mk) d g := fun g => by
    rw [h.dest, if_neg List.not_mem_nil]
  refine ⟨filled_of_merged (segSlots_pos _) (fun g ⟨i, hi, hg⟩ => ?_) (fun g hg => ?_), h.others⟩
  · have hne : (activeIn s.cur.vec (maskReg s.cur mk) g).isEmpty = false :=
      List.isEmpty_eq_false_iff.2 (List.ne_nil_of_mem (mem_activeIn.2 ⟨hg, hact ▸ hi⟩))
    rw [hdest, Results.segment, hne, hact]
    rfl
  · have hnil : activeIn s.cur.vec (maskReg s.cur mk) g = [] :=
      List.eq_nil_iff_forall_not_mem.2 fun i hi => hg i (hact ▸ (mem_activeIn.1 hi).2) (mem_activeIn.1 hi).1
    rw [hdest, Results.segment, hnil]
    rfl

theorem WritesLeft.flagsAdded : Claims.FlagsAdded s t (Claims.active s mk) o.flags := h.fstat.flagsAdded

end

theorem written_of_v {s t u : State} {d : Code} {act : Nat → Bool} {tag : Nat → Tag} {res : Nat → Nat}
    (h : Claims.Written s t d act tag res) (hv : u.cur.vec.v = t.cur.vec.v) : Claims.Written s u d act tag res := by
  simpa only [Claims.Written, Core.vreg_of_v hv] using h

theorem flagsAdded_of_fstat {s t u : State} {act : Nat → Bool} {fl : Nat → BitVec 6} (h : Claims.FlagsAdded s t act fl)
    (hf : u.cur.vec.fstat = t.cur.vec.fstat) : Claims.FlagsAdded s u act fl := by
  simpa only [Claims.FlagsAdded, hf] using h

theorem vec_ended (t : State) : (t.modCur fun k => k.setVstart 0).cur.vec = { t.cur.vec with vstart := 0 } := by
  rw [State.cur_modCur]
  rfl

theorem Underway.ended {s t : State} (h : Underway s t) : Underway s (t.modCur fun k => k.setVstart 0) :=
  h.modCur (Core.vectorKept_setVstart ..)

theorem Underway.vectorFrame_ended {s t : State} (h : Underway s t) : Claims.VectorFrame s (t.modCur fun k => k.setVstart 0) :=
  h.ended.vectorFrame (congrArg Vec.vstart (vec_ended t) :)

theorem fstat_eq_of_flagsAdded_zero {s u : State} {act : Nat → Bool} (h : Claims.FlagsAdded s u act (fun _ => 0)) :
    u.cur.vec.fstat = s.cur.vec.fstat := by
  refine BitVec.eq_of_getLsbD_eq fun b _ => Bool.eq_iff_iff.2 ((h b).trans (or_iff_left ?_))
  rintro ⟨i, -, hb⟩
  simp at hb

end Sys2Proof.Machine
end

section
/-! PROOFS. SETVL and the vector moves (R119, R134 to R137, R156). -/

namespace Sys2Proof.Machine

/-! ### SETVL (R119) -/

@[simp] theorem Core.vec_putScalar (k : Core) (t : StreamId) (c : Code) (v : Word) : (k.putScalar t c v).vec = k.vec := by
  unfold Core.putScalar
  split <;> simp [Core.push, Core.setEvf]

theorem Core.reg_putScalar {k : Core} {t : StreamId} {d : Code} (hd : codeIsQ d = false) (v : Word) :
    ((k.putScalar t d v).stream t).reg = ((k.stream t).setReg d v).reg := by
  rw [Core.putScalar, hd, if_neg Bool.false_ne_true, Core.stream_setStream]

theorem widthOf_eq (n : Nat) : widthOf n = if n % 4 = 0 then 8 else if n % 4 = 1 then 16 else 32 := by
  unfold widthOf
  split
  · next h => rw [if_pos h]
  · next h => rw [h]; rfl
  · next h0 h1 => rw [if_neg h0, if_neg h1]

/-- VL, VTYPE, VSTART and VRSTATE after SETVL. -/
theorem setvlVec_eq {k : Core} {imm : BitVec 31} {avl : Word} {n : Nat}
    (hn : n = Nat.min avl.toNat (Nat.min k.units.vlcap.toNat (64 * k.units.lanes) * 8 /
      (if imm.toNat % 4 = 0 then 8 else if imm.toNat % 4 = 1 then 16 else 32))) :
    setvlVec k imm avl = { k.vec with vtype := imm.setWidth 5, vl := BitVec.ofNat 11 n, vstart := 0, vrstate := 0 } := by
  rw [hn, ← widthOf_eq]
  rfl

theorem setVectorLength : Claims.SetVectorLength := by
  intro f s n hr hs hd hn hlt
  have hvl : (BitVec.ofNat 11 n).toNat = n := by rw [BitVec.toNat_ofNat]; exact Nat.mod_eq_of_lt hlt
  refine ⟨_, issue_runs hr (s' := (s.modCur fun k => { k with vec := setvlVec s.cur f.imm (s.src f.a) }).modCur fun k =>
    (k.popAll [⟨f.a, f.ea⟩]).putScalar s.turn.2 f.d (word n)) ?_, rfl, ?_⟩
  · rw [exec_bind_ok (readSources_ok hs), exec_bind_ok (destWait_ok hd), exec_bind_ok (exec_get s),
      exec_bind_ok (exec_modify ..)]
    simp only [setvlVec_eq hn, hvl, w0, List.map_cons, List.getD_cons_zero]
    rfl
  · have hreg : ∀ c, codeIsQ f.d = false → ((s.modCur fun k => { k with vec := setvlVec s.cur f.imm (s.src f.a) }).modCur
        fun k => (k.popAll [⟨f.a, f.ea⟩]).putScalar s.turn.2 f.d (word n)).strm.reg c =
        (Stream.setReg (Core.stream (Core.popAll { s.cur with vec := setvlVec s.cur f.imm (s.src f.a) } [⟨f.a, f.ea⟩]) s.turn.2)
          f.d (word n)).reg c := fun c hq => by
      rw [State.strm_modCur, State.cur_modCur]
      exact congrFun (Core.reg_putScalar hq _) c
    refine ⟨?_, ?_, ?_, ?_, ?_, ?_, fun hq h0 => ?_, fun c hq hc => ?_⟩
    case refine_7 => rw [hreg _ hq, Stream.reg_setReg _ _ h0]
    case refine_8 =>
      rw [hreg _ hq, Stream.reg_setReg_other _ _ hc]
      exact ((Core.vectorKept_popAll ..).regs s.turn.2 c).1
    all_goals rw [State.cur_modCur, Core.vec_putScalar, Core.vec_popAll, State.cur_modCur, setvlVec_eq hn]
    · exact hvl
    · exact BitVec.toNat_setWidth ..

/-! ### Operand fields -/

theorem codeIsV_of_rOk_vDst {t : StreamId} {a b c : Fld} {m : BitVec 13 → Bool} {f : RForm} (h : rOk t .vDst a b c m f = true) :
    codeIsV f.d = true := by
  simp only [rOk, Bool.and_eq_true] at h
  obtain ⟨⟨⟨⟨hd, -⟩, -⟩, -⟩, -⟩ := h
  exact hd

/-- What the fields of an instruction hold that runs (R47 step 4). -/
theorem fieldsOk_of_runs {i : Instr} {s : State} (h : Runs i s) : fieldsOk s.turn.2 i = true := by
  obtain ⟨-, -, hf, -⟩ := h
  exact hf

/-! ### Completions -/

/-- The instruction completes with its results in the slots `act` of `d`, without flags. -/
def Moves (i : Instr) (s : State) (d : Code) (act : Nat → Bool) (tag : Nat → Tag) (res : Nat → Nat) : Prop :=
  Claims.Completes i s (fun u => Claims.VectorFrame s u ∧ u.cur.vec.fstat = s.cur.vec.fstat ∧ Claims.Written s u d act tag res)

theorem popThenEnd_run (l : List Src) (t : State) : (do modify (fun s => s.modCur (fun k => k.popAll l)); endVector : Exec Unit) t =
    .ok () ((t.modCur fun k => k.popAll l).modCur fun k => k.setVstart 0) := rfl

/-- The end of a move: its queue sources are popped and VSTART is 0. -/
theorem moves_of_written {i : Instr} {s t : State} {l : List Src} {d : Code} {act : Nat → Bool} {tag : Nat → Tag} {res : Nat → Nat}
    (hx : exec i s = .next (s.done i ((t.modCur fun k => k.popAll l).modCur fun k => k.setVstart 0))) (ht : Underway s t)
    (hf : t.cur.vec.fstat = s.cur.vec.fstat) (hw : Claims.Written s t d act tag res) : Moves i s d act tag res := by
  have hpop := ht.modCur (f := fun k => k.popAll l) (Core.vectorKept_popAll ..)
  have hv : ((t.modCur fun k => k.popAll l).modCur fun k => k.setVstart 0).cur.vec = { t.cur.vec with vstart := 0 } := by
    rw [vec_ended, State.cur_modCur, Core.vec_popAll]
  exact ⟨_, hx, hpop.ended.turn, hpop.vectorFrame_ended, (congrArg Vec.fstat hv :).trans hf, written_of_v hw (congrArg Vec.v hv :)⟩

theorem moves_of_writes {i : Instr} {s u : State} {mk : Bool} {d : Code} {tag : Nat → Tag} {res : Nat → Nat}
    {l : List Src} (hx : exec i s = .next (s.done i ((u.modCur fun k => k.popAll l).modCur fun k => k.setVstart 0)))
    (h : WritesLeft s (maskReg s.cur mk) d ⟨tag, res, fun _ => 0⟩ [] u) : Moves i s d (Claims.active s mk) tag res :=
  moves_of_written hx h.segments.underway (fstat_eq_of_flagsAdded_zero h.flagsAdded) h.written

/-- The next segment of an instruction that sets no flag. -/
theorem WritesLeft.step_slots {s t : State} {mk : Option VReg} {d : Code} {tag : Nat → Tag} {res res' : Nat → Nat} {g : Nat}
    {r : List Nat} (hd : codeIsV d = true) (h : WritesLeft s mk d ⟨tag, res, fun _ => 0⟩ (g :: r) t)
    (hres : ∀ i ∈ activeIn s.cur.vec mk g, res' i = res i) :
    ∃ u, writeSlots mk g d (tag g) res' t = .ok () u ∧ WritesLeft s mk d ⟨tag, res, fun _ => 0⟩ r u :=
  ⟨_, writeSlots_run .., h.step hd hres fun b => by simp⟩

theorem forM_writes {s : State} {mk : Option VReg} {d : Code} {tag : Nat → Tag} {res : Nat → Nat} {gs : List Nat}
    (hd : codeIsV d = true) (h : WritesLeft s mk d ⟨tag, res, fun _ => 0⟩ gs s) :
    ∃ u, gs.forM (fun g => writeSlots mk g d (tag g) res) s = .ok () u ∧ WritesLeft s mk d ⟨tag, res, fun _ => 0⟩ [] u :=
  forM_ok (WritesLeft s mk d ⟨tag, res, fun _ => 0⟩) (fun _ _ _ ht => ht.step_slots hd fun _ _ => rfl) h

/-- The segments of an instruction whose body writes each of them by its rule (R123). -/
theorem eachSegment_writes {s : State} {cs : List Code} {mk : Option VReg} {d : Code} {body : Nat → Exec Unit}
    {tag : Nat → Tag} {res : Nat → Nat} (hq : Quiet s) (hcut : s.cut = none) (hd : codeIsV d = true)
    (hsound : ∀ c ∈ cs, ∀ g, Claims.InRange s g → Claims.Sound s c g)
    (hbody : ∀ g t, Claims.InRange s g → AtSegment s t g → ∃ res', body g t = writeSlots mk g d (tag g) res' t ∧
      ∀ i ∈ activeIn s.cur.vec mk g, res' i = res i) :
    ∃ u, eachSegment s cs (segRange s.cur.vec) body s = .ok () u ∧ WritesLeft s mk d ⟨tag, res, fun _ => 0⟩ [] u := by
  refine eachSegment_ok (WritesLeft s mk d ⟨tag, res, fun _ => 0⟩) hq hcut (fun g r t ht => ?_) (.segRange ..)
  have hat := ht.segments.ahead g List.mem_cons_self
  have hg := ht.segments.range g List.mem_cons_self
  obtain ⟨res', hb, hres⟩ := hbody g t hg hat
  refine ⟨fun c hc => hat.sound (hsound c hc g hg), ?_⟩
  rw [hb]
  exact ht.step_slots hd hres

theorem rawOp_moves {i : Instr} {f : RForm} {l : List Src} {mk : Bool} {body : Option VReg → Nat → Exec Unit} {s : State}
    {tag : Nat → Tag} {res : Nat → Nat} (hx : exec i s = rawOp i f l mk body s) (hr : Runs i s)
    (hready : Claims.VectorReady s l mk f.d) (hd : codeIsV f.d = true)
    (hsound : ∀ x ∈ l, ∀ g, Claims.InRange s g → Claims.Sound s x.code g)
    (hbody : ∀ g t, AtSegment s t g → ∃ res', body (maskReg s.cur mk) g t = writeSlots (maskReg s.cur mk) g f.d (tag g) res' t ∧
      ∀ i ∈ activeIn s.cur.vec (maskReg s.cur mk) g, res' i = res i) : Moves i s f.d (Claims.active s mk) tag res := by
  obtain ⟨u, hu, hw⟩ := eachSegment_writes (cs := (l.map Src.code).filter codeIsV) (body := body (maskReg s.cur mk))
    (quiet_of_ready hready) (cut_of_ready hready) hd (fun c hc => by
      obtain ⟨x, hx, rfl⟩ := List.mem_map.1 (List.mem_filter.1 hc).1
      exact hsound x hx) (fun g t _ => hbody g t)
  refine moves_of_writes (l := l) (hx.trans (issue_runs hr ?_)) hw
  rw [exec_bind_ok (vectorSources_ok hready), exec_bind_ok (readMask_ok (maskSound_of_ready hready)), exec_bind_ok hu]
  exact popThenEnd_run ..

/-! ### VMOV and VID (R134, R137) -/

theorem exec_vmov (f : RForm) (s : State) : exec (.vmov f) s = execVmov f s := rfl

theorem vmov_moves (f : RForm) (s : State) (hr : Runs (.vmov f) s) (hready : Claims.VectorReady s [srcA f] (mfMk f.m) f.d)
    (hsound : ∀ g, Claims.InRange s g → Claims.Sound s f.a g) :
    Moves (.vmov f) s f.d (Claims.active s (mfMk f.m)) (fun g => ((s.cur.vreg f.a).seg g).tag)
      (fun i => (s.cur.vreg f.a).slot s.cur.vec.w i) := by
  have hd : codeIsV f.d = true := codeIsV_of_rOk_vDst (Bool.and_eq_true_iff.1 (fieldsOk_of_runs hr)).1
  refine rawOp_moves (exec_vmov f s) hr hready hd (fun x hx g hg => ?_) fun g t hat => ?_
  · obtain rfl := List.mem_singleton.1 hx
    exact hsound g hg
  · refine ⟨fun i => (t.cur.vreg f.a).slot t.cur.vec.w i, (exec_bind_ok (exec_get t)).trans (by rw [hat.seg]), fun i hi => ?_⟩
    rw [hat.w]
    exact hat.slot (mem_activeIn.1 hi).1 f.a

theorem vidTag_eq (v : Vec) : vidTag v.w = if v.w = 8 then 0x387F else if v.w = 16 then 0x187F else 0x407F := by
  rcases v.w_eq with h | h | h <;> rw [h] <;> rfl

theorem vidSlot_mod (v : Vec) (i : Nat) : vidSlot v.w i % 2 ^ v.w =
    (if v.w = 16 then (roundTo (Val.ofInt i) 3 127 .rne false).1 else i) % 2 ^ v.w := by
  rcases v.w_eq with h | h | h <;> rw [h]
  · exact Nat.mod_mod ..
  · rfl
  · rfl

/-- Results count by their low W bits alone. -/
theorem filled_congr {w vl : Nat} {r r' : VReg} {act : Nat → Bool} {tag : Nat → Tag} {res res' : Nat → Nat}
    (h : Claims.Filled w vl r r' act tag res) (hr : ∀ i, res i % 2 ^ w = res' i % 2 ^ w) :
    Claims.Filled w vl r r' act tag res' := by
  obtain ⟨hact, hrest⟩ := h
  exact ⟨fun i hi => ⟨(hact i hi).1, (hact i hi).2.trans (hr i)⟩, hrest⟩

theorem exec_vid (f : RForm) (s : State) : exec (.vid f) s = execVid f s := rfl

theorem vid_moves (f : RForm) (s : State) (hr : Runs (.vid f) s) (hready : Claims.VectorReady s [] (mfMk f.m) f.d) :
    Moves (.vid f) s f.d (Claims.active s (mfMk f.m))
      (fun _ => if s.cur.vec.w = 8 then 0x387F else if s.cur.vec.w = 16 then 0x187F else 0x407F)
      (fun i => if s.cur.vec.w = 16 then (roundTo (Val.ofInt i) 3 127 .rne false).1 else i) := by
  have hd : codeIsV f.d = true := codeIsV_of_rOk_vDst (Bool.and_eq_true_iff.1 (fieldsOk_of_runs hr)).1
  obtain ⟨u, hx, hturn, hframe, hflags, hfilled, hothers⟩ := rawOp_moves (tag := fun _ => vidTag s.cur.vec.w)
    (res := vidSlot s.cur.vec.w) (exec_vid f s) hr hready hd (fun x hx => absurd hx List.not_mem_nil) fun g t hat =>
      ⟨vidSlot t.cur.vec.w, (exec_bind_ok (exec_get t)).trans (by rw [hat.w]), fun i _ => by rw [hat.w]⟩
  rw [vidTag_eq] at hfilled
  exact ⟨u, hx, hturn, hframe, hflags, filled_congr hfilled (vidSlot_mod s.cur.vec), hothers⟩

/-! ### VBCAST and VINS (R135) -/

theorem elemChecks_ok {s : State} {t : Tag} (h : Claims.TagFits s t) (a : Code) (g : Nat) (u : State) :
    elemChecks t a s.cur.vec.w g u = .ok () u := by
  obtain ⟨hclass, hfmt, hwidth⟩ := h
  rw [elemChecks, exec_bind_ok (need_ok (decide_eq_true hclass) ..), exec_bind_ok (need_ok (decide_eq_true hfmt) ..)]
  exact need_ok (decide_eq_true hwidth) ..

/-- The segments with an active slot. -/
def writtenSegs (s : State) (mk : Bool) : List Nat :=
  (segRange s.cur.vec).filter (fun g => (activeIn s.cur.vec (maskReg s.cur mk) g).isEmpty = false)

theorem writesLeft_writtenSegs (s : State) (mk : Bool) (d : Code) (o : Results) :
    WritesLeft s (maskReg s.cur mk) d o (writtenSegs s mk) s := by
  refine .start (.start ((segRange_sorted _).filter _) fun g hg => mem_segRange.1 (List.mem_filter.1 hg).1) fun g hg => ?_
  by_cases hrange : Claims.InRange s g
  · refine Classical.byContradiction fun hne => hg ?_
    exact List.mem_filter.2 ⟨mem_segRange.2 hrange, decide_eq_true (List.isEmpty_eq_false_iff.2 hne)⟩
  · exact activeIn_empty hrange

/-- The check of the tag that every written segment takes is made where one is written, and passes (R135, R156). -/
theorem elemChecks_written {s u : State} {mk : Bool} {t : Tag} {a : Code} {rest : Exec Unit}
    (hfits : ∀ i, Claims.active s mk i = true → Claims.TagFits s t) (hrest : rest s = .ok () u) :
    (match writtenSegs s mk with
      | [] => rest
      | g :: _ => do elemChecks t a s.cur.vec.w g; rest) s = .ok () u := by
  cases hl : writtenSegs s mk with
  | nil => exact hrest
  | cons g r =>
    have hg : g ∈ writtenSegs s mk := hl ▸ List.mem_cons_self
    obtain ⟨i, hi⟩ := List.exists_mem_of_ne_nil _ (List.isEmpty_eq_false_iff.1 (of_decide_eq_true (List.mem_filter.1 hg).2))
    exact (exec_bind_ok (elemChecks_ok (hfits i (activeSlot_maskReg s mk i ▸ (mem_activeIn.1 hi).2)) a g s)).trans hrest

theorem elemSlot_eq_element (s : State) (x : Word) : elemSlot s.cur.vec.w x = Claims.element s x := by
  exact congrArg (fun n => x.toNat % 2 ^ n) (ite_congr rfl (fun _ => rfl) fun _ => rfl)

theorem exec_vbcast (f : RForm) (s : State) : exec (.vbcast f) s = execVbcast f s := rfl

theorem vbcast_moves (f : RForm) (s : State) (x : Word) (hr : Runs (.vbcast f) s)
    (hready : Claims.VectorReady s [srcA f] (mfMk f.m) f.d) (hx : x = s.src f.a)
    (hfits : ∀ i, Claims.active s (mfMk f.m) i = true → Claims.TagFits s (x.extractLsb' 48 16)) :
    Moves (.vbcast f) s f.d (Claims.active s (mfMk f.m)) (fun _ => x.extractLsb' 48 16) (fun _ => Claims.element s x) := by
  have hd : codeIsV f.d = true := codeIsV_of_rOk_vDst (Bool.and_eq_true_iff.1 (fieldsOk_of_runs hr)).1
  subst hx
  simp only [← elemSlot_eq_element]
  obtain ⟨u, hu, hw⟩ := forM_writes (tag := fun _ => elemTag (s.src f.a)) (res := fun _ => elemSlot s.cur.vec.w (s.src f.a)) hd
    (writesLeft_writtenSegs s (mfMk f.m) f.d _)
  refine moves_of_writes (l := [srcA f]) ((exec_vbcast f s).trans (issue_runs hr ?_)) hw
  rw [exec_bind_ok (vectorSources_ok hready), exec_bind_ok (readMask_ok (maskSound_of_ready hready))]
  exact elemChecks_written hfits ((exec_bind_ok hu).trans (popThenEnd_run ..))

theorem exec_vins (f : RForm) (s : State) : exec (.vins f) s = execVins f s := rfl

/-- The element in slot `j` of a core's register, its segment written as if `j` were its only active slot (R135). -/
def Core.putElement (w vl : Nat) (d : Code) (j : Nat) (x : Word) (k : Core) : Core :=
  (k.note 4 (some .x) .u 1).setVreg d ((k.vreg d).putSeg (j / segSlots w)
    (mergeSegBy w vl (fun i => i == j) (j / segSlots w) ((k.vreg d).seg (j / segSlots w)) (elemTag x) (fun _ => elemSlot w x)))

theorem filled_putElement {w vl j : Nat} (hn : 0 < segSlots w) (d : Code) (x : Word) (k : Core) :
    Claims.Filled w vl (k.vreg d) ((k.putElement w vl d j x).vreg d) (fun i => i == j) (fun _ => elemTag x)
      (fun _ => elemSlot w x) := by
  rw [Core.putElement, Core.vreg_setVreg]
  refine filled_of_merged hn (fun g hg => ?_) fun g hg => ?_
  · obtain ⟨i, hi, rfl⟩ := hg
    obtain rfl := beq_iff_eq.1 hi
    exact VReg.seg_putSeg ..
  · exact VReg.seg_putSeg_other _ _ (hg j (beq_self_eq_true j)).symm

theorem filled_inactive (w vl : Nat) (r : VReg) {act : Nat → Bool} (h : ∀ i, act i = false) (tag : Nat → Tag) (res : Nat → Nat) :
    Claims.Filled w vl r r act tag res :=
  ⟨fun i hi => absurd hi (by simp [h]), fun _ j hj => absurd hj (by simp [h]), fun _ _ => rfl⟩

theorem vins_moves (f : RForm) (s : State) (x : Word) (j : Nat) (hr : Runs (.vins f) s)
    (hready : Claims.VectorReady s [srcA f, srcB f] false f.d) (hx : x = s.src f.a) (hj : j = (s.src f.b).toNat)
    (hfits : j < s.cur.vec.vl.toNat → Claims.TagFits s (x.extractLsb' 48 16)) :
    Moves (.vins f) s f.d (fun i => decide (i = j) && decide (j < s.cur.vec.vl.toNat)) (fun _ => x.extractLsb' 48 16)
      (fun _ => Claims.element s x) := by
  have hd : codeIsV f.d = true := codeIsV_of_rOk_vDst (fieldsOk_of_runs hr)
  subst hx hj
  simp only [← elemSlot_eq_element]
  by_cases hlt : (s.src f.b).toNat < s.cur.vec.vl.toNat
  · refine moves_of_written (t := s.modCur (Core.putElement s.cur.vec.w s.cur.vec.vl.toNat f.d (s.src f.b).toNat (s.src f.a)))
      (l := [srcA f, srcB f]) ((exec_vins f s).trans (issue_runs hr ?_)) ((Underway.refl s).modCur ?_) ?_ ⟨?_, fun c hc hne => ?_⟩
    · rw [exec_bind_ok (vectorSources_ok hready), exec_bind_ok (exec_get s)]
      refine (congrFun (if_pos hlt) s).trans ?_
      exact (exec_bind_ok (elemChecks_ok (hfits hlt) f.a _ s)).trans ((exec_bind_ok (exec_modify ..)).trans (popThenEnd_run ..))
    · exact (Core.vectorKept_note ..).trans (Core.vectorKept_setVreg ..)
    · rw [State.cur_modCur]
      exact (congrArg Vec.fstat (s.cur.note_vec 4 (some .x) .u 1) :)
    · simp only [hlt, decide_true, Bool.and_true, State.cur_modCur]
      exact filled_putElement (segSlots_pos _) f.d (s.src f.a) s.cur
    · rw [State.cur_modCur, Core.putElement, Core.vreg_setVreg_ne _ _ hc hd hne, Core.vreg_note]
  · refine moves_of_written (t := s) (l := [srcA f, srcB f]) ((exec_vins f s).trans (issue_runs hr ?_)) (.refl s) rfl
      ⟨filled_inactive _ _ _ (fun i => by simp [hlt]) _ _, fun _ _ _ => rfl⟩
    rw [exec_bind_ok (vectorSources_ok hready), exec_bind_ok (exec_get s)]
    exact (congrFun (if_neg hlt) s).trans (popThenEnd_run ..)

/-! ### VEXT (R136) -/

theorem exec_vext (f : RForm) (s : State) : exec (.vext f) s = execVext f s := rfl

/-- The segment that an instruction reads whatever VSTART holds passes its parity check (R346, R356). -/
theorem readFrom_ok {s : State} {n : Nat} {cs : List Code} {g : Nat} (hq : Quiet s) (h : ∀ c ∈ cs, Claims.Sound s c g) :
    readFrom s n cs g s = .ok () s := by
  rw [readFrom, exec_bind_ok (inSegment_ok (forM_same fun c hc => laneCheck_ok (h c hc)))]
  split
  · exact forM_same fun _ _ => watchSeg_ok hq
  · rfl

theorem vext_completes (f : RForm) (s : State) (j : Nat) (hr : Runs (.vext f) s)
    (hready : Claims.VectorReady s [srcA f, srcB f] false f.d) (hdest : DestReady s f.d) (hj : j = (s.src f.b).toNat)
    (hsound : j < s.cur.vec.vl.toNat → Claims.Sound s f.a (j / Claims.slots s)) :
    exec (.vext f) s = .next (s.done (.vext f) ((s.wrote [srcB f] f.d
      (if j < s.cur.vec.vl.toNat then word (((s.cur.vreg f.a).seg (j / Claims.slots s)).tag.toNat * 2 ^ 48 +
        (s.cur.vreg f.a).slot s.cur.vec.w j) else 0)).modCur (fun k => k.setVstart 0))) := by
  subst hj
  refine (exec_vext f s).trans (issue_runs hr ?_)
  rw [exec_bind_ok (vectorSources_ok hready), exec_bind_ok (destWait_ok hdest)]
  by_cases hlt : (s.src f.b).toNat < s.cur.vec.vl.toNat
  · rw [if_pos hlt]
    refine (congrFun (if_pos hlt) s).trans ?_
    exact (exec_bind_ok (readFrom_ok (quiet_of_ready hready) (List.forall_mem_singleton.2 (hsound hlt)))).trans
      (exec_bind_ok (finishScalar_run ..))
  · rw [if_neg hlt]
    exact (congrFun (if_neg hlt) s).trans (exec_bind_ok (finishScalar_run ..))

/-! ### VRETAG (R156) -/

theorem exec_vretag (f : RForm) (s : State) : exec (.vretag f) s = execVretag f s := rfl

theorem classCheck_ok {t : Tag} (h : tagClass t = 0) (g : Nat) (c : Code) (s : State) : classCheck g c t s = .ok () s :=
  need_ok (beq_iff_eq.2 h) ..

theorem vretag_moves (f : RForm) (s : State) (t : Tag) (hr : Runs (.vretag f) s)
    (hready : Claims.VectorReady s [srcA f, srcB f] (mfMk f.m) f.d) (ht : t = (s.src f.b).setWidth 16)
    (hfits : ∀ i, Claims.active s (mfMk f.m) i = true → Claims.TagFits s t)
    (hsegs : ∀ g, Claims.InRange s g → Claims.Sound s f.a g ∧ tagClass ((s.cur.vreg f.a).seg g).tag = 0) :
    Moves (.vretag f) s f.d (Claims.active s (mfMk f.m)) (fun _ => t)
      (fun i => (s.cur.vreg f.a).slot s.cur.vec.w i % 2 ^ lineWidth t s.cur.vec.w) := by
  have hd : codeIsV f.d = true := codeIsV_of_rOk_vDst (Bool.and_eq_true_iff.1 (fieldsOk_of_runs hr)).1
  subst ht
  obtain ⟨u, hu, hw⟩ := eachSegment_writes (cs := [f.a]) (mk := maskReg s.cur (mfMk f.m)) (body := fun g => do
      let k := (← get).cur
      classCheck g f.a ((k.vreg f.a).seg g).tag
      writeSlots (maskReg s.cur (mfMk f.m)) g f.d ((s.src f.b).setWidth 16)
        (fun i => (k.vreg f.a).slot s.cur.vec.w i % 2 ^ lineWidth ((s.src f.b).setWidth 16) s.cur.vec.w))
    (tag := fun _ => (s.src f.b).setWidth 16)
    (res := fun i => (s.cur.vreg f.a).slot s.cur.vec.w i % 2 ^ lineWidth ((s.src f.b).setWidth 16) s.cur.vec.w)
    (quiet_of_ready hready) (cut_of_ready hready) hd (List.forall_mem_singleton.2 fun g hg => (hsegs g hg).1) fun g t hg hat => by
      obtain ⟨-, hclass⟩ := hsegs g hg
      rw [← hat.seg] at hclass
      refine ⟨_, (exec_bind_ok (exec_get t)).trans (exec_bind_ok (classCheck_ok hclass g f.a t)), fun i hi => ?_⟩
      rw [hat.slot (mem_activeIn.1 hi).1]
  refine moves_of_writes (l := [srcB f]) ((exec_vretag f s).trans (issue_runs hr ?_)) hw
  rw [exec_bind_ok (vectorSources_ok hready), exec_bind_ok (readMask_ok (maskSound_of_ready hready))]
  exact elemChecks_written hfits ((exec_bind_ok hu).trans (popThenEnd_run ..))

theorem vectorMoves : Claims.VectorMoves :=
  ⟨vmov_moves, vbcast_moves, vid_moves, vins_moves, vext_completes, vretag_moves⟩

/-- Settles O26: SETVL writes VL and VTYPE, and each move passes its checks and writes its segments one after another, which
gives what R72 says of the destination. -/
theorem vectorSetupAndMoves : Obligations.VectorSetupAndMoves := ⟨setVectorLength, vectorMoves⟩

end Sys2Proof.Machine
end

section
/-! PROOFS. The order of the exact values and the conditions of VCMP (R79, R131). -/

namespace Sys2Proof.Machine

/-! ### The order of the exact values as numbers -/

theorem scaledInt_mul_zpow {q e : Int} (h : q ≤ e) (neg : Bool) (m : Nat) :
    (scaledInt neg m e q : Rat) * (2 : Rat) ^ q = Claims.real (.fin neg m e) := by
  have hscale : (((m * 2 ^ (e - q).toNat : Nat) : Int) : Rat) * (2 : Rat) ^ q = m * (2 : Rat) ^ e := by
    rw [Rat.intCast_natCast, Rat.natCast_mul, Rat.natCast_pow, Rat.natCast_ofNat, ← Rat.zpow_natCast, Rat.mul_assoc,
      ← Rat.zpow_add (by decide), Int.toNat_of_nonneg (by omega), Int.sub_add_cancel]
  simp only [scaledInt, Claims.real]
  cases neg with
  | true => rw [if_pos rfl, if_pos rfl, Rat.intCast_neg, Rat.neg_mul, hscale, Rat.neg_mul 1, Rat.one_mul, Rat.neg_mul]
  | false => rw [if_neg Bool.false_ne_true, if_neg Bool.false_ne_true, hscale, Rat.one_mul]

theorem finLt_iff (s1 : Bool) (m1 : Nat) (e1 : Int) (s2 : Bool) (m2 : Nat) (e2 : Int) :
    finLt s1 m1 e1 s2 m2 e2 = true ↔ Claims.real (.fin s1 m1 e1) < Claims.real (.fin s2 m2 e2) := by
  have hscale : ∀ q, q ≤ e1 → q ≤ e2 → (scaledInt s1 m1 e1 q < scaledInt s2 m2 e2 q ↔
      Claims.real (.fin s1 m1 e1) < Claims.real (.fin s2 m2 e2)) := fun q h1 h2 => by
    rw [← scaledInt_mul_zpow h1, ← scaledInt_mul_zpow h2, Rat.mul_lt_mul_right (Rat.zpow_pos (by decide)), Rat.intCast_lt_intCast]
  rw [finLt, decide_eq_true_iff]
  exact hscale _ (by split <;> omega) (by split <;> omega)

theorem lt_iff_less (a b : Val) : a.lt b = true ↔ Claims.Less a b := by
  cases a with
  | nan q => simp [Val.lt, Claims.Less, Val.isNan]
  | inf s =>
    cases b with
    | nan q => simp [Val.lt, Claims.Less, Val.isNan]
    | inf t => cases s <;> cases t <;> simp [Val.lt, Claims.Less, Val.isNan, Claims.isFin]
    | fin t m e => cases s <;> simp [Val.lt, Claims.Less, Val.isNan, Claims.isFin]
  | fin s m e =>
    cases b with
    | nan q => simp [Val.lt, Claims.Less, Val.isNan]
    | inf t => cases t <;> simp [Val.lt, Claims.Less, Val.isNan, Claims.isFin]
    | fin t m2 e2 =>
      rw [Val.lt, finLt_iff]
      refine ⟨fun h => ⟨rfl, rfl, fun he => ?_, .inr (.inr ⟨rfl, rfl, h⟩)⟩, ?_⟩
      · exact Rat.lt_irrefl (he ▸ h)
      · rintro ⟨-, -, -, h | h | ⟨-, -, h⟩⟩
        · cases h
        · cases h
        · exact h

theorem eqv_iff_same (a b : Val) : a.eqv b = true ↔ Claims.Same a b := by
  cases a with
  | nan q => simp [Val.eqv, Claims.Same, Val.isNan]
  | inf s =>
    cases b with
    | nan q => simp [Val.eqv, Claims.Same, Val.isNan]
    | inf t => cases s <;> cases t <;> simp [Val.eqv, Val.lt, Claims.Same, Val.isNan, Claims.isFin]
    | fin t m e => cases s <;> simp [Val.eqv, Val.lt, Claims.Same, Val.isNan, Claims.isFin]
  | fin s m e =>
    cases b with
    | nan q => simp [Val.eqv, Claims.Same, Val.isNan]
    | inf t => cases t <;> simp [Val.eqv, Val.lt, Claims.Same, Val.isNan, Claims.isFin]
    | fin t m2 e2 =>
      have hreal : Val.eqv (.fin s m e) (.fin t m2 e2) = true ↔
          Claims.real (.fin s m e) = Claims.real (.fin t m2 e2) := by
        simp only [Val.eqv, Val.isNan, Val.lt, Bool.and_eq_true, Bool.not_eq_true', ← Bool.not_eq_true, finLt_iff, Rat.not_lt]
        exact ⟨fun ⟨⟨_, hge⟩, hle⟩ => Rat.le_antisymm hle hge, fun h => ⟨⟨⟨by decide, by decide⟩, h ▸ Rat.le_refl⟩, h ▸ Rat.le_refl⟩⟩
      rw [hreal]
      refine ⟨fun h => ⟨rfl, rfl, .inr ⟨rfl, rfl, h⟩⟩, ?_⟩
      rintro ⟨-, -, h | ⟨-, -, h⟩⟩
      · rw [h]
      · exact h

/-! ### The conditions of VCMP -/

theorem isSnan_iff (v : Val) : v.isSnan = true ↔ v = .nan true := by
  cases v with
  | nan q => cases q <;> simp [Val.isSnan]
  | inf s => simp [Val.isSnan]
  | fin s m e => simp [Val.isSnan]

theorem snanFlags_eq_signals (l : List Val) : snanFlags l = Claims.signals l := by
  have h : l.any Val.isSnan = true ↔ Val.nan true ∈ l := by
    simp only [List.any_eq_true, isSnan_iff, exists_eq_right]
  simp only [snanFlags, Claims.signals, h]
  rfl

theorem not_nan_of_less {a b : Val} (h : Claims.Less a b) : (a.isNan || b.isNan) = false := by
  obtain ⟨ha, hb, -⟩ := h
  rw [ha, hb]
  rfl

theorem not_nan_of_same {a b : Val} (h : Claims.Same a b) : (a.isNan || b.isNan) = false := by
  obtain ⟨ha, hb, -⟩ := h
  rw [ha, hb]
  rfl

/-- An ordered condition holds without a NaN alone, and it says what its test says. -/
theorem ordered_iff {a b : Val} {r : Bool} {P : Prop} (hr : r = true ↔ P) (hn : P → (a.isNan || b.isNan) = false) :
    (r && !(a.isNan || b.isNan)) = true ↔ P := by
  rw [Bool.and_eq_true, Bool.not_eq_true', hr]
  exact ⟨And.left, fun h => ⟨h, hn h⟩⟩

/-- R131: each condition by the order of the exact values, and the NV that it sets. -/
theorem vcmpCond_spec (a b : Val) :
    ((vcmpCond .eq a b).1 = true ↔ Claims.Same a b) ∧ ((vcmpCond .ne a b).1 = true ↔ ¬Claims.Same a b) ∧
    ((vcmpCond .lt a b).1 = true ↔ Claims.Less a b) ∧ ((vcmpCond .le a b).1 = true ↔ Claims.Less a b ∨ Claims.Same a b) ∧
    ((vcmpCond .gt a b).1 = true ↔ Claims.Less b a) ∧ ((vcmpCond .ge a b).1 = true ↔ Claims.Less b a ∨ Claims.Same a b) ∧
    (vcmpCond .uo a b).1 = (a.isNan || b.isNan) ∧
    (∀ cc, cc = .eq ∨ cc = .ne ∨ cc = .uo → (vcmpCond cc a b).2 = Claims.signals [a, b]) ∧
    ∀ cc, cc = .lt ∨ cc = .le ∨ cc = .gt ∨ cc = .ge → (vcmpCond cc a b).2 = if a.isNan || b.isNan then 1 else 0 := by
  have hle : ∀ c d, (c.lt d || a.eqv b) = true ↔ Claims.Less c d ∨ Claims.Same a b := fun c d => by
    rw [Bool.or_eq_true, lt_iff_less, eqv_iff_same]
  have hswap : Claims.Less b a → (a.isNan || b.isNan) = false := fun h => Bool.or_comm .. ▸ not_nan_of_less h
  refine ⟨eqv_iff_same a b, ?_, ordered_iff (lt_iff_less a b) not_nan_of_less,
    ordered_iff (hle a b) fun h => h.elim not_nan_of_less not_nan_of_same, ordered_iff (lt_iff_less b a) hswap,
    ordered_iff (hle b a) fun h => h.elim hswap not_nan_of_same, rfl, ?_, ?_⟩
  · rw [vcmpCond, Bool.not_eq_true', ← Bool.not_eq_true, eqv_iff_same]
  · rintro cc (rfl | rfl | rfl)
    · exact snanFlags_eq_signals [a, b]
    · exact snanFlags_eq_signals [a, b]
    · exact snanFlags_eq_signals [a, b]
  · rintro cc (rfl | rfl | rfl | rfl)
    · rfl
    · rfl
    · rfl
    · rfl

end Sys2Proof.Machine
end

section
/-! PROOFS. Masks: VPOPC, and VCMP with the mask bits and the tail that it writes (R41, R131, R132). -/

namespace Sys2Proof.Machine

/-! ### VPOPC (R132) -/

theorem exec_vpopc (f : RForm) (s : State) : exec (.vpopc f) s = execVpopc f s := rfl

theorem vpopcCount_eq (k : Core) (a : Code) (mk : Bool) : vpopcCount k a mk =
    ((List.range k.vec.vl.toNat).filter (fun i => (k.vreg a).maskBit i && (!mk || (k.vreg 0x40).maskBit i))).length := by
  cases mk <;> rfl

theorem vpopc_completes (f : RForm) (s : State) (hr : Runs (.vpopc f) s)
    (hready : Claims.VectorReady s [srcA f] (mfMk f.m) f.d) (hdest : DestReady s f.d) (hmask : Claims.MaskSound s (mfMk f.m) 0)
    (hsound : ∀ g, g * 512 < s.cur.vec.vl.toNat → Claims.Sound s f.a g) :
    exec (.vpopc f) s = .next (s.done (.vpopc f) ((s.wrote [] f.d (word (((List.range s.cur.vec.vl.toNat).filter (fun i =>
      (s.cur.vreg f.a).maskBit i && (!mfMk f.m || (s.cur.vreg 0x40).maskBit i))).length))).modCur (fun k => k.setVstart 0))) := by
  have hloop : ((List.range ((s.cur.vec.vl.toNat + 511) / 512)).forM (fun g => do
      readFrom s 512 [f.a] g
      if mfMk f.m then inSegment g (laneCheck g codeV0)) : Exec Unit) s = .ok () s := by
    refine forM_same fun g hg => ?_
    have hg : g * 512 < s.cur.vec.vl.toNat := by
      rw [List.mem_range] at hg
      omega
    rw [exec_bind_ok (readFrom_ok (quiet_of_ready hready) (List.forall_mem_singleton.2 (hsound g hg)))]
    split
    · next hm =>
      have hv0 := hmask hm (g * 512) (Nat.zero_le _) hg
      rw [Nat.mul_div_cancel _ (by decide)] at hv0
      exact inSegment_ok (laneCheck_ok hv0)
    · rfl
  rw [← vpopcCount_eq]
  refine (exec_vpopc f s).trans (issue_runs hr ?_)
  rw [exec_bind_ok (vectorSources_ok hready), exec_bind_ok (destWait_ok hdest)]
  exact (exec_bind_ok hloop).trans (exec_bind_ok (finishScalar_run ..))

/-! ### Mask bits of a register (R41, R131) -/

theorem VReg.maskBit_putMask (r : VReg) (i : Nat) (b : Bool) (j : Nat) :
    (r.putMask i b).maskBit j = if j = i then b else r.maskBit j := by
  unfold VReg.maskBit VReg.putMask
  by_cases hseg : j / 512 = i / 512
  · have hbit : (BitVec.ofNat 512 (2 ^ (i % 512))).getLsbD (j % 512) = decide (j = i) := by
      rw [BitVec.getLsbD_ofNat, Nat.testBit_two_pow, decide_eq_true (Nat.mod_lt j (by decide)), Bool.true_and]
      exact decide_eq_decide.2 ⟨by omega, by rintro rfl; rfl⟩
    rw [hseg, VReg.seg_putSeg]
    have hlt : j % 512 < 512 := Nat.mod_lt _ (by decide)
    cases b with
    | true =>
      simp only [if_true, BitVec.getLsbD_or, hbit]
      by_cases hij : j = i <;> simp [hij]
    | false =>
      simp only [Bool.false_eq_true, if_false, BitVec.getLsbD_and, BitVec.getLsbD_not, hbit, hlt, decide_true, Bool.true_and]
      by_cases hij : j = i <;> simp [hij]
  · rw [VReg.seg_putSeg_other _ _ hseg, if_neg (by rintro rfl; exact hseg rfl)]

/-- The bits `c` set in a list of places. -/
def VReg.putMasks (r : VReg) (l : List Nat) (c : Nat → Bool) : VReg := l.foldl (fun r i => r.putMask i (c i)) r

theorem VReg.maskBit_putMasks (r : VReg) (l : List Nat) (c : Nat → Bool) (j : Nat) :
    (r.putMasks l c).maskBit j = if j ∈ l then c j else r.maskBit j := by
  unfold VReg.putMasks
  induction l generalizing r with
  | nil => rfl
  | cons i l ih =>
    rw [List.foldl_cons, ih, VReg.maskBit_putMask]
    by_cases hl : j ∈ l
    · simp [hl]
    · by_cases hij : j = i
      · simp [hij]
      · simp [hl, hij]

theorem VReg.keeps_putMasks (r : VReg) {l : List Nat} (c : Nat → Bool) {g : Nat} (h : ∀ i ∈ l, i / 512 ≠ g) :
    r.Keeps (r.putMasks l c) g := by
  unfold VReg.putMasks
  induction l generalizing r with
  | nil => exact .refl r g
  | cons i l ih =>
    exact (r.keeps_putSeg _ (h i List.mem_cons_self).symm).trans (ih _ fun j hj => h j (List.mem_cons_of_mem _ hj))

theorem VReg.tag_putMask (r : VReg) (i : Nat) (b : Bool) (g : Nat) :
    ((r.putMask i b).seg g).tag = if g = i / 512 then 0 else (r.seg g).tag := by
  by_cases h : g = i / 512
  · rw [if_pos h, h, VReg.putMask, VReg.seg_putSeg]
    rfl
  · rw [if_neg h, VReg.putMask, VReg.seg_putSeg_other _ _ h]

/-- A segment that takes a mask bit, or that had tag 0, has tag 0. -/
theorem VReg.tag_putMasks (r : VReg) (l : List Nat) (c : Nat → Bool) (g : Nat)
    (h : (r.seg g).tag = 0 ∨ ∃ i ∈ l, i / 512 = g) : ((r.putMasks l c).seg g).tag = 0 := by
  unfold VReg.putMasks
  induction l generalizing r with
  | nil => simpa using h
  | cons i l ih =>
    refine ih _ ?_
    rw [VReg.tag_putMask]
    by_cases hg : g = i / 512
    · exact .inl (if_pos hg)
    · rw [if_neg hg]
      refine h.imp_right ?_
      rintro ⟨j, hj, rfl⟩
      exact ⟨j, (List.mem_cons.1 hj).resolve_left (by rintro rfl; exact hg rfl), rfl⟩

/-! ### The tail of VCMP (R131) -/

theorem Core.vectorKept_vcmpTail (d : Code) (k : Core) : k.VectorKept (vcmpTail d k) := by
  unfold vcmpTail
  simp only []
  split
  · exact .refl k
  · exact Core.vectorKept_setVreg ..

theorem fstat_vcmpTail (d : Code) (k : Core) : (vcmpTail d k).vec.fstat = k.vec.fstat := by
  simp only [vcmpTail]
  split <;> rfl

theorem vreg_vcmpTail_ne (k : Core) {c d : Code} (hc : codeIsV c = true) (hd : codeIsV d = true) (h : c ≠ d) :
    (vcmpTail d k).vreg c = k.vreg c := by
  simp only [vcmpTail]
  split
  · rfl
  · exact k.vreg_setVreg_ne _ hc hd h

theorem tag_vcmpTail (d : Code) (k : Core) {g : Nat} (h : ((k.vreg d).seg g).tag = 0) : (((vcmpTail d k).vreg d).seg g).tag = 0 := by
  simp only [vcmpTail]
  split
  · exact h
  · rw [Core.vreg_setVreg]
    by_cases hg : g = k.vec.vl.toNat / 512
    · rw [hg, VReg.seg_putSeg]
      rfl
    · rwa [VReg.seg_putSeg_other _ _ hg]

/-- The bits from VL to the end of the segment that holds bit VL − 1 are cleared, and no other. -/
theorem maskBit_vcmpTail (d : Code) (k : Core) (h : 0 < k.vec.vl.toNat) (i : Nat) : ((vcmpTail d k).vreg d).maskBit i =
    if k.vec.vl.toNat ≤ i ∧ i / 512 = (k.vec.vl.toNat - 1) / 512 then false else (k.vreg d).maskBit i := by
  simp only [vcmpTail]
  split
  · rw [if_neg (by omega)]
  · next hmod =>
    have hlast : (k.vec.vl.toNat - 1) / 512 = k.vec.vl.toNat / 512 := by omega
    rw [Core.vreg_setVreg, hlast, VReg.maskBit, VReg.maskBit]
    by_cases hg : i / 512 = k.vec.vl.toNat / 512
    · have hbit : i % 512 < k.vec.vl.toNat % 512 ↔ ¬k.vec.vl.toNat ≤ i := by omega
      rw [hg, VReg.seg_putSeg, BitVec.getLsbD_ofNat, Nat.testBit_mod_two_pow, decide_eq_true (Nat.mod_lt i (by decide))]
      by_cases hvl : k.vec.vl.toNat ≤ i
      · simp [hbit, hvl]
      · simp [hbit, hvl, BitVec.getLsbD]
    · rw [VReg.seg_putSeg_other _ _ hg, if_neg fun hc => hg hc.2]

end Sys2Proof.Machine
end

section
/-! PROOFS. The checks and the values of a segment that is decoded (R73, R79, R84, R87), and VCMP (R131). -/

namespace Sys2Proof.Machine

/-! ### The checks of a segment that can be decoded (R73, R74) -/

/-- What the checks of R73 ask of a segment's tag under the width W. -/
def TagDecodes (w : Nat) (t : Tag) : Prop := tagClass t = 0 ∧ fmtOk t = true ∧ fmtWidth (tagFmt t) ≤ w

theorem tagDecodes_of_decodable {s : State} {c : Code} {g : Nat} (h : Claims.Decodable s c g) :
    TagDecodes s.cur.vec.w ((s.cur.vreg c).seg g).tag := by
  obtain ⟨-, hclass, hfmt, hwidth, -⟩ := h
  exact ⟨hclass, hfmt, hwidth⟩

theorem sound_of_decodable {s : State} {c : Code} {g : Nat} (h : Claims.Decodable s c g) : Claims.Sound s c g := by
  obtain ⟨hsound, -⟩ := h
  exact hsound

/-- Steps 1 to 3 of R73 pass. -/
theorem segChecks_ok {w g : Nat} {srcs : List (Code × Tag)} (h : ∀ x ∈ srcs, TagDecodes w x.2) (t : State) :
    segChecks w g false srcs t = .ok () t := by
  have hclass : srcs.forM (fun x => classCheck g x.1 x.2) t = .ok () t := forM_same fun x hx => classCheck_ok (h x hx).1 g x.1 t
  have hfmt : ∀ x ∈ srcs, fmtCheck g x.1 x.2 t = .ok () t := fun x hx => need_ok (h x hx).2.1 ..
  have hwidth : srcs.forM (fun x => widthCheck w g x.1 x.2) t = .ok () t :=
    forM_same fun x hx => need_ok (decide_eq_true (h x hx).2.2) ..
  rw [segChecks, exec_bind_ok hclass]
  cases srcs with
  | nil => exact hwidth
  | cons a rest =>
    have hrest : rest.forM (fun x => fmtCheck g x.1 x.2) t = .ok () t := forM_same fun x hx => hfmt x (List.mem_cons_of_mem _ hx)
    exact (exec_bind_ok (hfmt a List.mem_cons_self)).trans ((exec_bind_ok (need_true ..)).trans ((exec_bind_ok hrest).trans hwidth))

/-- A slot of the pattern book that is full and VALID is read (R74, R161). -/
theorem bookCheck_ok {t : State} {slot : Nat} (hfull : (t.cur.bookSlot slot).state = .full) (hclass : (t.cur.bookSlot slot).vclass = 0)
    (e : Bool) (c : Code) (g : Nat) : bookCheck slot e c g t = .ok () t := by
  rw [bookCheck, bookCheckTag, exec_bind_ok (exec_get t)]
  simp only [hfull]
  exact need_ok (beq_iff_eq.2 hclass) ..

/-- A CB4 source that can be decoded finds its slot of the book. -/
theorem bookCheck_of_decodable {s t : State} {c : Code} {g : Nat} (h : Claims.Decodable s c g) (ht : Underway s t) (e : Bool) :
    (if tagFmt ((s.cur.vreg c).seg g).tag = fmtCb4 then bookCheck (tagScale ((s.cur.vreg c).seg g).tag) e c g else pure ()) t =
      .ok () t := by
  obtain ⟨-, -, -, -, hbook⟩ := h
  split
  · next hcb4 =>
    have hslot : ∀ i, t.cur.bookSlot i = s.cur.bookSlot i := fun i => by rw [Core.bookSlot, ht.core.book, Core.bookSlot]
    obtain ⟨hfull, hclass⟩ := hbook hcb4
    exact bookCheck_ok ((hslot _).symm ▸ hfull) ((hslot _).symm ▸ hclass) e c g
  · rfl

/-! ### The values of a segment (R79) -/

theorem Core.VectorKept.fz {k k' : Core} (h : k.VectorKept k') : k'.vec.fz = k.vec.fz := by rw [Vec.fz, h.vtype, Vec.fz]

theorem Core.VectorKept.rm {k k' : Core} (h : k.VectorKept k') : k'.vec.rm = k.vec.rm := by rw [Vec.rm, h.vtype, Vec.rm]

theorem AtSegment.value {s t : State} {g i : Nat} (h : AtSegment s t g) (hi : i / segSlots s.cur.vec.w = g) (c : Code) :
    decodeSlot t.cur t.cur.vec.fz ((t.cur.vreg c).seg g).tag ((t.cur.vreg c).slot t.cur.vec.w i) = Claims.value s c i := by
  rw [decodeSlot_of_book h.underway.core.book, h.underway.core.fz, h.seg, h.w, h.slot hi, ← hi]
  rfl

theorem getLsbD_foldl_or (l : List (BitVec 6)) (x : BitVec 6) (b : Nat) :
    (l.foldl (fun a b => a ||| b) x).getLsbD b = true ↔ x.getLsbD b = true ∨ ∃ y ∈ l, y.getLsbD b = true := by
  induction l generalizing x with
  | nil => simp
  | cons y l ih => simp [ih, or_assoc]

theorem getLsbD_orFlags (l : List (BitVec 6)) (b : Nat) : (orFlags l).getLsbD b = true ↔ ∃ y ∈ l, y.getLsbD b = true := by
  rw [orFlags, getLsbD_foldl_or]
  simp

theorem exists_mem_map_iff {α β : Type} {l : List α} {f : α → β} {P : β → Prop} :
    (∃ y ∈ l.map f, P y) ↔ ∃ x ∈ l, P (f x) := by
  constructor
  · rintro ⟨_, hy, hP⟩
    obtain ⟨x, hx, rfl⟩ := List.mem_map.1 hy
    exact ⟨x, hx, hP⟩
  · rintro ⟨x, hx, hP⟩
    exact ⟨_, List.mem_map_of_mem hx, hP⟩

/-! ### One segment of VCMP (R131) -/

/-- What a segment of VCMP does to a core once its checks have passed. -/
def Core.compareSegment (cc : VCc) (f : RForm) (mk : Option VReg) (g : Nat) (k : Core) : Core :=
  (((k.note 4 (some .x) .u (activeIn k.vec mk g).length).setVreg f.d
    ((k.vreg f.d).putMasks (activeIn k.vec mk g) (fun i => (vcmpSlot cc k f g i).1))).orFstat
      (orFlags ((activeIn k.vec mk g).map (fun i => (vcmpSlot cc k f g i).2)))).setVstart ((g + 1) * segSlots k.vec.w)

theorem vcmpSegment_run {s t : State} {cc : VCc} {f : RForm} {mk : Option VReg} {g : Nat} (hat : AtSegment s t g)
    (ha : Claims.Decodable s f.a g) (hb : Claims.Decodable s f.b g) (hlat : (Claims.latticeAt s [srcA f, srcB f] g).forbid = false) :
    vcmpSegment cc f (latticeOf s) mk g t = .ok () (t.modCur (Core.compareSegment cc f mk g)) := by
  rw [vcmpSegment, exec_bind_ok (exec_get t)]
  simp only [srcA, srcB, List.map_cons, List.map_nil, hat.seg, hat.w]
  rw [exec_bind_ok (segChecks_ok (by
      simp only [List.forall_mem_cons]
      exact ⟨tagDecodes_of_decodable ha, tagDecodes_of_decodable hb, fun _ h => absurd h List.not_mem_nil⟩) t)]
  refine (exec_bind_ok (need_ok (by rw [Bool.not_eq_true']; exact hlat) ..)).trans ?_
  refine (exec_bind_ok (forM_same fun x hx => ?_)).trans ?_
  · obtain rfl | rfl : x = ⟨f.a, f.ea⟩ ∨ x = ⟨f.b, f.eb⟩ := by simpa using hx
    · exact bookCheck_of_decodable ha hat.underway f.ea
    · exact bookCheck_of_decodable hb hat.underway f.eb
  · have hw : (t.core t.turn.1).vec.w = s.cur.vec.w := hat.w
    simp only [exec_modify, State.modCur, State.modCore, Core.compareSegment, VReg.putMasks, List.foldl_map, List.map_map,
      List.length_map, hw]
    rfl

section
variable (cc : VCc) (f : RForm) (mk : Option VReg) (g : Nat) (k : Core)

theorem Core.vectorKept_compareSegment : k.VectorKept (k.compareSegment cc f mk g) :=
  (((k.vectorKept_note ..).trans (Core.vectorKept_setVreg ..)).trans (Core.vectorKept_orFstat ..)).trans
    (Core.vectorKept_setVstart ..)

theorem Core.vreg_compareSegment (c : Code) : (k.compareSegment cc f mk g).vreg c = (k.setVreg f.d
    ((k.vreg f.d).putMasks (activeIn k.vec mk g) (fun i => (vcmpSlot cc k f g i).1))).vreg c := by
  simp only [Core.compareSegment, Core.vreg_setVstart, Core.vreg_orFstat, Core.vreg_setVreg_eq, Core.vreg_note]

theorem Core.fstat_compareSegment (b : Nat) : (k.compareSegment cc f mk g).vec.fstat.getLsbD b = true ↔
    k.vec.fstat.getLsbD b = true ∨ ∃ i ∈ activeIn k.vec mk g, (vcmpSlot cc k f g i).2.getLsbD b = true := by
  have hf : (k.compareSegment cc f mk g).vec.fstat =
      k.vec.fstat ||| orFlags ((activeIn k.vec mk g).map (fun i => (vcmpSlot cc k f g i).2)) := by
    simp [Core.compareSegment, Core.setVstart, Core.orFstat, Core.setVreg]
  rw [hf, BitVec.getLsbD_or, Bool.or_eq_true, getLsbD_orFlags, exists_mem_map_iff]

/-- The mask bits of a segment lie in segments up to it, so later source segments of the destination stand (R41, R70). -/
theorem Core.keeps_compareSegment {n : Nat} (hn : g < n) (c : Code) :
    (k.vreg c).Keeps ((k.compareSegment cc f mk g).vreg c) n := by
  rw [Core.vreg_compareSegment]
  refine Core.keeps_setVreg (VReg.keeps_putMasks _ _ fun i hi => ?_) c
  obtain ⟨rfl, -⟩ := mem_activeIn.1 hi
  have hle : i / 512 ≤ i / segSlots k.vec.w := Nat.div_le_div_left (segSlots_le _) (segSlots_pos _)
  omega

end

/-! ### The loop of VCMP -/

/-- An instruction that began at `s` has written the bits `cond` of its active slots to the mask register `d`, but for the
segments `r`. -/
structure MasksLeft (s : State) (mk : Option VReg) (d : Code) (cond : Nat → Bool × BitVec 6) (r : List Nat) (t : State) : Prop where
  segments : SegmentsAhead s r t
  bit : ∀ i, (t.cur.vreg d).maskBit i =
    if i / segSlots s.cur.vec.w ∉ r ∧ activeSlot s.cur.vec mk i = true then (cond i).1 else (s.cur.vreg d).maskBit i
  tag : ∀ i, i / segSlots s.cur.vec.w ∉ r → activeSlot s.cur.vec mk i = true → ((t.cur.vreg d).seg (i / 512)).tag = 0
  others : ∀ c, codeIsV c = true → c ≠ d → t.cur.vreg c = s.cur.vreg c
  fstat : FlagsLeft s mk (fun i => (cond i).2) r t

theorem MasksLeft.segRange (s : State) (mk : Option VReg) (d : Code) (cond : Nat → Bool × BitVec 6) :
    MasksLeft s mk d cond (segRange s.cur.vec) s := by
  have hin : ∀ i, activeSlot s.cur.vec mk i = true → i / segSlots s.cur.vec.w ∈ Machine.segRange s.cur.vec := fun i hact =>
    mem_segRange.2 (inRange_of_slot (lt_vl_of_activeSlot hact).1 (lt_vl_of_activeSlot hact).2)
  refine ⟨.segRange s, fun i => (if_neg ?_).symm, fun i hi hact => absurd (hin i hact) hi, fun _ _ _ => rfl,
    .start fun g hg => activeIn_empty fun h => hg (mem_segRange.2 h)⟩
  rintro ⟨hi, hact⟩
  exact hi (hin i hact)

/-- The condition of a slot, of the exact values that its sources held as the instruction began. -/
def vcmpAt (cc : VCc) (s : State) (f : RForm) (i : Nat) : Bool × BitVec 6 :=
  vcmpCond cc (Claims.value s f.a i) (Claims.value s f.b i)

theorem AtSegment.vcmpSlot {s t : State} {g i : Nat} (h : AtSegment s t g) (hi : i / segSlots s.cur.vec.w = g) (cc : VCc) (f : RForm) :
    vcmpSlot cc t.cur f g i = vcmpAt cc s f i := by
  simp only [Machine.vcmpSlot, h.value hi, vcmpAt]

theorem MasksLeft.step {s t : State} {cc : VCc} {f : RForm} {mk : Option VReg} {g : Nat} {r : List Nat} (hd : codeIsV f.d = true)
    (h : MasksLeft s mk f.d (vcmpAt cc s f) (g :: r) t) :
    MasksLeft s mk f.d (vcmpAt cc s f) r (t.modCur (Core.compareSegment cc f mk g)) := by
  obtain ⟨hsegs, hbit, htag, hothers, hfstat⟩ := h
  have hat : AtSegment s t g := hsegs.ahead g List.mem_cons_self
  have hg : g ∉ r := hsegs.head_not_mem
  have hmem : ∀ {i}, i ∈ activeIn s.cur.vec mk g ↔ i / segSlots s.cur.vec.w = g ∧ activeSlot s.cur.vec mk i = true := mem_activeIn
  refine ⟨hsegs.step (Core.vectorKept_compareSegment ..) ?_ fun n hn c => Core.keeps_compareSegment _ _ _ _ _ hn c, fun i => ?_,
    fun i hi hact => ?_, fun c hc hne => ?_, hfstat.step hg fun b => ?_⟩
  · rw [← hat.w]
    rfl
  · rw [State.cur_modCur, Core.vreg_compareSegment, Core.vreg_setVreg, VReg.maskBit_putMasks, hat.activeIn, hbit]
    by_cases hi : i / segSlots s.cur.vec.w = g
    · simp only [hmem, hi, hat.vcmpSlot hi, true_and, List.mem_cons, true_or, not_true_eq_false, false_and, if_false, hg,
        not_false_eq_true]
    · simp only [hmem, hi, false_and, if_false, List.mem_cons, false_or]
  · rw [State.cur_modCur, Core.vreg_compareSegment, Core.vreg_setVreg, hat.activeIn]
    refine VReg.tag_putMasks _ _ _ _ ?_
    by_cases hig : i / segSlots s.cur.vec.w = g
    · exact .inr ⟨i, hmem.2 ⟨hig, hact⟩, rfl⟩
    · exact .inl (htag i (by simp [hig, hi]) hact)
  · rw [State.cur_modCur, Core.vreg_compareSegment, Core.vreg_setVreg_ne _ _ hc hd hne, hothers c hc hne]
  · rw [State.cur_modCur, Core.fstat_compareSegment, hat.activeIn]
    refine or_congr_right (exists_congr fun i => and_congr_right fun hi => ?_)
    rw [hat.vcmpSlot (hmem.1 hi).1]

end Sys2Proof.Machine
end

section
/-! PROOFS. The completions of VCMP and of VSEL, and the statement of the vector predicates (R131 to R133). -/

namespace Sys2Proof.Machine

/-! ### VCMP (R131) -/

/-- What VCMP with conditions `cond` in the slots `act` leaves before VSTART becomes 0. -/
structure Compared (s t : State) (d : Code) (act : Nat → Bool) (cond : Nat → Bool × BitVec 6) : Prop where
  underway : Underway s t
  set : ∀ i, act i = true → (t.cur.vreg d).maskBit i = (cond i).1 ∧ ((t.cur.vreg d).seg (i / 512)).tag = 0
  kept : ∀ i, i < s.cur.vec.vl.toNat → act i = false → (t.cur.vreg d).maskBit i = (s.cur.vreg d).maskBit i
  cleared : ∀ i, s.cur.vec.vstart.toNat < s.cur.vec.vl.toNat → s.cur.vec.vl.toNat ≤ i →
    i / 512 = (s.cur.vec.vl.toNat - 1) / 512 → (t.cur.vreg d).maskBit i = false
  others : ∀ c, codeIsV c = true → c ≠ d → t.cur.vreg c = s.cur.vreg c
  flags : Claims.FlagsAdded s t act (fun i => (cond i).2)

section
variable {s t : State} {mk : Bool} {d : Code} {cond : Nat → Bool × BitVec 6} (h : MasksLeft s (maskReg s.cur mk) d cond [] t)
include h

theorem MasksLeft.maskBit (i : Nat) :
    (t.cur.vreg d).maskBit i = if Claims.active s mk i = true then (cond i).1 else (s.cur.vreg d).maskBit i := by
  rw [h.bit]
  simp only [List.not_mem_nil, not_false_eq_true, true_and, activeSlot_maskReg]

theorem MasksLeft.tag_active {i : Nat} (hi : Claims.active s mk i = true) : ((t.cur.vreg d).seg (i / 512)).tag = 0 :=
  h.tag i List.not_mem_nil ((activeSlot_maskReg s mk i).trans hi)

/-- With no segment in the range there is no tail to clear. -/
theorem MasksLeft.compared_empty (hvl : s.cur.vec.vl.toNat ≤ s.cur.vec.vstart.toNat) :
    Compared s t d (Claims.active s mk) cond where
  underway := h.segments.underway
  set i hi := ⟨by rw [h.maskBit, if_pos hi], h.tag_active hi⟩
  kept i _ hi := by rw [h.maskBit, if_neg (by simp [hi])]
  cleared i hlt := by omega
  others := h.others
  flags := h.fstat.flagsAdded

/-- The tail lies above every active slot. -/
theorem MasksLeft.compared_tail (hd : codeIsV d = true) (hvl : s.cur.vec.vstart.toNat < s.cur.vec.vl.toNat) :
    Compared s (t.modCur (vcmpTail d)) d (Claims.active s mk) cond := by
  have hu := h.segments.underway
  have hbit : ∀ i, (((t.modCur (vcmpTail d)).cur).vreg d).maskBit i =
      if s.cur.vec.vl.toNat ≤ i ∧ i / 512 = (s.cur.vec.vl.toNat - 1) / 512 then false else (t.cur.vreg d).maskBit i := fun i => by
    rw [State.cur_modCur, maskBit_vcmpTail _ _ (by rw [hu.core.vl]; omega), hu.core.vl]
  have hbelow : ∀ i, i < s.cur.vec.vl.toNat → (((t.modCur (vcmpTail d)).cur).vreg d).maskBit i = (t.cur.vreg d).maskBit i :=
    fun i hi => by rw [hbit, if_neg (by omega)]
  refine ⟨hu.modCur (Core.vectorKept_vcmpTail ..), fun i hi => ⟨?_, ?_⟩, fun i hi hact => ?_, fun i _ hi hseg => ?_, fun c hc hne => ?_,
    flagsAdded_of_fstat h.fstat.flagsAdded ?_⟩
  · have hlt := (lt_vl_of_activeSlot ((activeSlot_maskReg s mk i).trans hi)).2
    rw [hbelow i hlt, h.maskBit, if_pos hi]
  · rw [State.cur_modCur]
    exact tag_vcmpTail _ _ (h.tag_active hi)
  · rw [hbelow i hi, h.maskBit, if_neg (by simp [hact])]
  · rw [hbit, if_pos ⟨hi, hseg⟩]
  · rw [State.cur_modCur, vreg_vcmpTail_ne _ hc hd hne, h.others c hc hne]
  · rw [State.cur_modCur, fstat_vcmpTail]

end

theorem exec_vcmp (cc : VCc) (f : RForm) (s : State) : exec (.vcmp cc f) s = execVcmp cc f s := rfl

theorem segRange_isEmpty (s : State) :
    (segRange s.cur.vec).isEmpty = decide (s.cur.vec.vl.toNat ≤ s.cur.vec.vstart.toNat) := by
  by_cases h : s.cur.vec.vl.toNat ≤ s.cur.vec.vstart.toNat
  · rw [decide_eq_true h, segRange, if_pos h]
    rfl
  · rw [decide_eq_false h, List.isEmpty_eq_false_iff]
    exact List.ne_nil_of_mem (mem_segRange.2 (inRange_of_slot (Nat.le_refl _) (Nat.lt_of_not_le h)))

theorem vcmp_compares {cc : VCc} {f : RForm} {s : State} (hr : Runs (.vcmp cc f) s)
    (hready : Claims.VectorReady s [srcA f, srcB f] (mfMk f.m) f.d)
    (hsegs : ∀ g, Claims.InRange s g → Claims.Decodable s f.a g ∧ Claims.Decodable s f.b g ∧
      (Claims.latticeAt s [srcA f, srcB f] g).forbid = false) :
    ∃ t, exec (.vcmp cc f) s = .next (s.done (.vcmp cc f) (t.modCur fun k => k.setVstart 0)) ∧
      Compared s t f.d (Claims.active s (mfMk f.m)) (vcmpAt cc s f) := by
  have hd : codeIsV f.d = true := codeIsV_of_rOk_vDst (fieldsOk_of_runs hr)
  obtain ⟨t, ht, hw⟩ := eachSegment_ok (cs := [srcA f, srcB f].map Src.code)
    (body := vcmpSegment cc f (latticeOf s) (maskReg s.cur (mfMk f.m)))
    (MasksLeft s (maskReg s.cur (mfMk f.m)) f.d (vcmpAt cc s f)) (quiet_of_ready hready) (cut_of_ready hready) (fun g r t ht => by
      have hat := ht.segments.ahead g List.mem_cons_self
      obtain ⟨ha, hb, hlat⟩ := hsegs g (ht.segments.range g List.mem_cons_self)
      refine ⟨fun c hc => hat.sound ?_, _, vcmpSegment_run hat ha hb hlat, ht.step hd⟩
      obtain rfl | rfl : c = f.a ∨ c = f.b := by simpa [srcA, srcB] using hc
      · exact sound_of_decodable ha
      · exact sound_of_decodable hb) (.segRange ..)
  by_cases hvl : s.cur.vec.vl.toNat ≤ s.cur.vec.vstart.toNat
  · refine ⟨t, (exec_vcmp cc f s).trans (issue_runs hr ?_), hw.compared_empty hvl⟩
    rw [exec_bind_ok (vectorSources_ok hready), exec_bind_ok (readMask_ok (maskSound_of_ready hready))]
    exact (exec_bind_ok (bookWhole_ok ht)).trans (congrFun (if_neg (by rw [segRange_isEmpty]; simp [hvl])) t)
  · refine ⟨t.modCur (vcmpTail f.d), (exec_vcmp cc f s).trans (issue_runs hr ?_), hw.compared_tail hd (by omega)⟩
    rw [exec_bind_ok (vectorSources_ok hready), exec_bind_ok (readMask_ok (maskSound_of_ready hready))]
    exact (exec_bind_ok (bookWhole_ok ht)).trans (congrFun (if_pos (by rw [segRange_isEmpty]; simp [hvl])) t)

theorem vcmp_completes (cc : VCc) (f : RForm) (s : State) (act : Nat → Bool) (hr : Runs (.vcmp cc f) s)
    (hready : Claims.VectorReady s [srcA f, srcB f] (mfMk f.m) f.d) (hact : act = Claims.active s (mfMk f.m))
    (hsegs : ∀ g, Claims.InRange s g → Claims.Decodable s f.a g ∧ Claims.Decodable s f.b g ∧
      (Claims.latticeAt s [srcA f, srcB f] g).forbid = false) :
    Claims.Completes (.vcmp cc f) s (fun u => Claims.VectorFrame s u ∧
      (∀ i, act i = true → (u.cur.vreg f.d).maskBit i = (vcmpCond cc (Claims.value s f.a i) (Claims.value s f.b i)).1 ∧
        ((u.cur.vreg f.d).seg (i / 512)).tag = 0) ∧
      (∀ i, i < s.cur.vec.vl.toNat → act i = false → (u.cur.vreg f.d).maskBit i = (s.cur.vreg f.d).maskBit i) ∧
      (∀ i, s.cur.vec.vstart.toNat < s.cur.vec.vl.toNat → s.cur.vec.vl.toNat ≤ i →
        i / 512 = (s.cur.vec.vl.toNat - 1) / 512 → (u.cur.vreg f.d).maskBit i = false) ∧
      (∀ c, codeIsV c = true → c ≠ f.d → u.cur.vreg c = s.cur.vreg c) ∧
      Claims.FlagsAdded s u act (fun i => (vcmpCond cc (Claims.value s f.a i) (Claims.value s f.b i)).2)) := by
  subst hact
  obtain ⟨t, hx, ht⟩ := vcmp_compares hr hready hsegs
  have hreg : ∀ c, (t.modCur fun k => k.setVstart 0).cur.vreg c = t.cur.vreg c :=
    Core.vreg_of_v (congrArg Vec.v (vec_ended t) :)
  refine ⟨_, hx, ht.underway.ended.turn, ht.underway.vectorFrame_ended, ?_, ?_, ?_, ?_,
    flagsAdded_of_fstat ht.flags (congrArg Vec.fstat (vec_ended t) :)⟩
  all_goals simp only [hreg]
  · exact ht.set
  · exact ht.kept
  · exact ht.cleared
  · exact ht.others

/-! ### Tags and scales of results (R57, R84, R88) -/

theorem tagFmt_mkTag {f : Nat} (hf : f < 32) (k : Nat) : tagFmt (mkTag f 0 k) = f := by
  simp only [tagFmt, mkTag, BitVec.toNat_ofNat]
  omega

theorem tagScale_mkTag (f : Nat) {k : Nat} (hk : k < 256) : tagScale (mkTag f 0 k) = k := by
  simp only [tagScale, mkTag, BitVec.toNat_ofNat]
  omega

theorem scaleFor_lt (vs : List Val) (rf : Nat) : scaleFor vs rf < 256 := by
  unfold scaleFor
  split
  · decide
  · split
    · decide
    · simp only []
      split
      · decide
      · split <;> omega

theorem latticeAt_rf_lt (s : State) (f : RForm) (g : Nat) : (Claims.latticeAt s [srcA f, srcB f] g).rf < 32 :=
  Nat.mod_lt _ (by decide)

theorem tabFind_map {α : Type} {l : List Nat} (v : Nat → α) {i : Nat} (h : i ∈ l) :
    tabFind (l.map (fun j => (j, v j))) i = some (v i) := by
  induction l with
  | nil => cases h
  | cons j l ih =>
    rw [List.map_cons, tabFind]
    by_cases hj : j = i
    · rw [if_pos hj, hj]
    · rw [if_neg hj]
      exact ih ((List.mem_cons.1 h).resolve_left (Ne.symm hj))

/-- The result format of a segment whose pair the lattice allows, with its checks passed (R84, R87). -/
theorem resultFormat_ok {lat : Tab (BitVec 16)} {w g : Nat} {d : Code} {intForm : Bool} {srcs : List (Code × Tag)} {look : Look}
    (hl : latticeLookup lat (srcs.map (fun x => tagFmt x.2)) = look) (hforbid : look.forbid = false)
    (hwidth : fmtWidth look.rf ≤ w) (hscale : look.int = true → ∀ x ∈ srcs, tagScale x.2 = 127) (t : State) :
    resultFormat lat 0 w g d intForm srcs t = .ok (look.rf, look.int && intForm) t := by
  subst hl
  have hfind : (latticeLookup lat (srcs.map (fun x => tagFmt x.2))).int = true →
      srcs.find? (fun x => tagScale x.2 != 127) = none := fun h =>
    List.find?_eq_none.2 fun x hx => by simp [hscale h x hx]
  rw [resultFormat]
  refine (exec_bind_ok (need_ok (by rw [Bool.not_eq_true']; exact hforbid) ..)).trans ?_
  refine (exec_bind_ok (need_ok (decide_eq_true hwidth) ..)).trans ?_
  by_cases hint : (latticeLookup lat (srcs.map (fun x => tagFmt x.2))).int = true
  · simp only [if_pos hint, hfind hint]
    rfl
  · simp only [if_neg hint]
    rfl

/-! ### VSEL (R133) -/

/-- Where the slot `i` of VSEL comes from. -/
def vselPick (s : State) (f : RForm) (i : Nat) : Code := if (s.cur.vreg 0x40).maskBit i then f.a else f.b

/-- The sources of a segment of VSEL: read as they stand under equal tags, decoded under different ones (R133). -/
def VselReady (s : State) (f : RForm) (g : Nat) : Prop :=
  if ((s.cur.vreg f.a).seg g).tag = ((s.cur.vreg f.b).seg g).tag then Claims.Sound s f.a g ∧ Claims.Sound s f.b g
  else Claims.Decodable s f.a g ∧ Claims.Decodable s f.b g ∧ (Claims.latticeAt s [srcA f, srcB f] g).forbid = false ∧
    fmtWidth (Claims.latticeAt s [srcA f, srcB f] g).rf ≤ s.cur.vec.w ∧
    ((Claims.latticeAt s [srcA f, srcB f] g).int = true → tagScale ((s.cur.vreg f.a).seg g).tag = 127 ∧
      tagScale ((s.cur.vreg f.b).seg g).tag = 127)

/-- The values that VSEL selects in a segment, by slot. -/
def vselValue (s : State) (f : RForm) (i : Nat) : Val := Claims.value s (vselPick s f i) i

/-- The SCALE of a segment whose tags differ. -/
def vselScale (s : State) (f : RForm) (g : Nat) : Nat :=
  scaleFor ((activeIn s.cur.vec none g).map (vselValue s f)) (Claims.latticeAt s [srcA f, srcB f] g).rf

theorem vselScale_lt (s : State) (f : RForm) (g : Nat) : vselScale s f g < 256 := scaleFor_lt ..

/-- The rounded value of a slot of a segment whose tags differ. -/
def vselRound (s : State) (f : RForm) (g i : Nat) : Rounded :=
  roundAny (bookOf s.cur) (vselValue s f i) (Claims.latticeAt s [srcA f, srcB f] g).rf (vselScale s f g) s.cur.vec.rm s.cur.vec.fz

theorem VselReady.sound {s : State} {f : RForm} {g : Nat} (h : VselReady s f g) : Claims.Sound s f.a g ∧ Claims.Sound s f.b g := by
  unfold VselReady at h
  split at h
  · exact h
  · exact ⟨sound_of_decodable h.1, sound_of_decodable h.2.1⟩

/-- Under equal tags VSEL copies the selected slots. -/
theorem vselSegment_copies {s t : State} {f : RForm} {g : Nat} (hat : AtSegment s t g)
    (heq : ((s.cur.vreg f.a).seg g).tag = ((s.cur.vreg f.b).seg g).tag) :
    vselSegment f (latticeOf s) (s.cur.vreg codeV0) g t = writeSlots none g f.d ((s.cur.vreg f.a).seg g).tag
      (fun i => (t.cur.vreg (vselPick s f i)).slot s.cur.vec.w i) t := by
  rw [vselSegment, exec_bind_ok (exec_get t)]
  simp only [hat.seg, hat.w]
  rw [if_pos heq]
  rfl

/-- Under different tags VSEL rounds the selected values, once each, under one SCALE. -/
theorem vselSegment_rounds {s t : State} {f : RForm} {g : Nat} (hat : AtSegment s t g) (hg : VselReady s f g)
    (hne : ((s.cur.vreg f.a).seg g).tag ≠ ((s.cur.vreg f.b).seg g).tag) :
    vselSegment f (latticeOf s) (s.cur.vreg codeV0) g t =
      writeResults none g f.d (Claims.latticeAt s [srcA f, srcB f] g).rf (vselScale s f g)
        ((activeIn s.cur.vec none g).map (fun i => (i, vselRound s f g i)))
        (snanFlags ((activeIn s.cur.vec none g).map (vselValue s f))) t := by
  rw [VselReady, if_neg hne] at hg
  obtain ⟨ha, hb, hforbid, hwidth, hint⟩ := hg
  have hvals : (activeIn t.cur.vec none g).map (fun i => (i, decodeSlot t.cur t.cur.vec.fz
      ((t.cur.vreg (vselPick s f i)).seg g).tag ((t.cur.vreg (vselPick s f i)).slot t.cur.vec.w i))) =
      (activeIn s.cur.vec none g).map (fun i => (i, vselValue s f i)) := by
    rw [hat.activeIn]
    exact List.map_congr_left fun i hi => by rw [hat.value (mem_activeIn.1 hi).1]; rfl
  have hbook : bookOf t.cur = bookOf s.cur := bookOf_of_book hat.underway.core.book
  rw [vselSegment, exec_bind_ok (exec_get t)]
  simp only []
  rw [if_neg (by rwa [hat.seg, hat.seg])]
  refine (exec_bind_ok (segChecks_ok ?_ t)).trans ?_
  · simp only [List.forall_mem_cons, hat.seg, hat.w]
    exact ⟨tagDecodes_of_decodable ha, tagDecodes_of_decodable hb, fun _ h => absurd h List.not_mem_nil⟩
  refine (exec_bind_ok (resultFormat_ok (look := Claims.latticeAt s [srcA f, srcB f] g) ?_ hforbid ?_ ?_ t)).trans ?_
  · simp only [List.map_cons, List.map_nil, hat.seg]
    rfl
  · rwa [hat.w]
  · simp only [List.forall_mem_cons, hat.seg]
    exact fun h => ⟨(hint h).1, (hint h).2, fun _ h => absurd h List.not_mem_nil⟩
  refine (exec_bind_ok (forM_same fun x hx => ?_)).trans ?_
  · obtain rfl | rfl : x = (srcA f, ((t.cur.vreg f.a).seg g).tag) ∨ x = (srcB f, ((t.cur.vreg f.b).seg g).tag) := by simpa using hx
    · simp only [hat.seg]
      exact bookCheck_of_decodable ha hat.underway f.ea
    · simp only [hat.seg]
      exact bookCheck_of_decodable hb hat.underway f.eb
  have hpick : ∀ i, (if (s.cur.vreg codeV0).maskBit i then f.a else f.b) = vselPick s f i := fun _ => rfl
  simp only [hpick]
  rw [hvals, List.map_map, List.map_map, hbook, hat.underway.core.rm, hat.underway.core.fz]
  rfl

theorem getLsbD_snanFlags (l : List Val) (b : Nat) :
    (snanFlags l).getLsbD b = true ↔ ∃ v ∈ l, (Claims.signals [v]).getLsbD b = true := by
  have hone : ∀ v, (Claims.signals [v]).getLsbD b = true ↔ v = .nan true ∧ flagNV.getLsbD b = true := fun v => by
    rw [Claims.signals]
    by_cases hv : v = .nan true
    · simp [hv, flagNV]
    · simp [hv, Ne.symm hv]
  simp only [hone, ← isSnan_iff, ← and_assoc, exists_and_right]
  rw [snanFlags, ← List.any_eq_true]
  split <;> simp_all

/-- The tag of a segment of VSEL's result. -/
def vselTag (s : State) (f : RForm) (g : Nat) : Tag :=
  if ((s.cur.vreg f.a).seg g).tag = ((s.cur.vreg f.b).seg g).tag then ((s.cur.vreg f.a).seg g).tag
  else mkTag (Claims.latticeAt s [srcA f, srcB f] g).rf 0 (vselScale s f g)

/-- What VSEL writes: the slots and tags of R133, with the flags of the rounding. -/
def vselResults (s : State) (f : RForm) : Results where
  tag := vselTag s f
  res i :=
    if ((s.cur.vreg f.a).seg (i / Claims.slots s)).tag = ((s.cur.vreg f.b).seg (i / Claims.slots s)).tag then
      (s.cur.vreg (vselPick s f i)).slot s.cur.vec.w i
    else (vselRound s f (i / Claims.slots s) i).1
  flags i :=
    if ((s.cur.vreg f.a).seg (i / Claims.slots s)).tag = ((s.cur.vreg f.b).seg (i / Claims.slots s)).tag then 0
    else Claims.signals [vselValue s f i] ||| (vselRound s f (i / Claims.slots s) i).2

section
variable {s : State} {f : RForm} {g i : Nat} (hseg : i / Claims.slots s = g)
include hseg

theorem vselResults_copied (heq : ((s.cur.vreg f.a).seg g).tag = ((s.cur.vreg f.b).seg g).tag) :
    (vselResults s f).res i = (s.cur.vreg (vselPick s f i)).slot s.cur.vec.w i ∧ (vselResults s f).flags i = 0 := by
  subst hseg
  exact ⟨if_pos heq, if_pos heq⟩

theorem vselResults_rounded (hne : ((s.cur.vreg f.a).seg g).tag ≠ ((s.cur.vreg f.b).seg g).tag) :
    (vselResults s f).res i = (vselRound s f g i).1 ∧
      (vselResults s f).flags i = Claims.signals [vselValue s f i] ||| (vselRound s f g i).2 := by
  subst hseg
  exact ⟨if_neg hne, if_neg hne⟩

end

theorem vselSegment_step {s t : State} {f : RForm} {g : Nat} {r : List Nat} (hd : codeIsV f.d = true)
    (h : WritesLeft s none f.d (vselResults s f) (g :: r) t) (hg : VselReady s f g) :
    ∃ u, vselSegment f (latticeOf s) (s.cur.vreg codeV0) g t = .ok () u ∧ WritesLeft s none f.d (vselResults s f) r u := by
  have hat := h.segments.ahead g List.mem_cons_self
  have hseg : ∀ i ∈ activeIn s.cur.vec none g, i / Claims.slots s = g := fun i hi => (mem_activeIn.1 hi).1
  by_cases heq : ((s.cur.vreg f.a).seg g).tag = ((s.cur.vreg f.b).seg g).tag
  · have htag : (vselResults s f).tag g = ((s.cur.vreg f.a).seg g).tag := if_pos heq
    rw [vselSegment_copies hat heq, writeSlots_run, ← htag]
    refine ⟨_, rfl, h.step hd (fun i hi => ?_) fun b => iff_of_false (by simp) ?_⟩
    · rw [hat.slot (hseg i hi), (vselResults_copied (hseg i hi) heq).1]
    · rintro ⟨i, hi, hb⟩
      rw [(vselResults_copied (hseg i hi) heq).2] at hb
      simp at hb
  · have htag : (vselResults s f).tag g = mkTag (Claims.latticeAt s [srcA f, srcB f] g).rf 0 (vselScale s f g) := if_neg heq
    rw [vselSegment_rounds hat hg heq, writeResults_run, ← htag]
    refine ⟨_, rfl, h.step hd (fun i hi => ?_) fun b => ?_⟩
    · rw [tabFind_map _ hi, (vselResults_rounded (hseg i hi) heq).1]
      rfl
    · rw [BitVec.getLsbD_or, Bool.or_eq_true, getLsbD_snanFlags, getLsbD_orFlags]
      rw [List.map_map, exists_mem_map_iff, exists_mem_map_iff, ← exists_or]
      simp only [Function.comp_apply, ← and_or_left]
      refine exists_congr fun i => and_congr_right fun hi => ?_
      rw [(vselResults_rounded (hseg i hi) heq).2, BitVec.getLsbD_or, Bool.or_eq_true]

theorem exec_vsel (f : RForm) (s : State) : exec (.vsel f) s = execVsel f s := rfl

theorem vsel_writes {f : RForm} {s : State} (hr : Runs (.vsel f) s) (hready : Claims.VectorReady s [srcA f, srcB f] true f.d)
    (hsegs : ∀ g, Claims.InRange s g → VselReady s f g) :
    ∃ t, exec (.vsel f) s = .next (s.done (.vsel f) (t.modCur fun k => k.setVstart 0)) ∧
      WritesLeft s (maskReg s.cur false) f.d (vselResults s f) [] t := by
  have hd : codeIsV f.d = true := codeIsV_of_rOk_vDst (Bool.and_eq_true_iff.1 (fieldsOk_of_runs hr)).1
  obtain ⟨t, ht, hw⟩ := eachSegment_ok (cs := [srcA f, srcB f].map Src.code)
    (body := vselSegment f (latticeOf s) (s.cur.vreg codeV0)) (WritesLeft s none f.d (vselResults s f))
    (quiet_of_ready hready) (cut_of_ready hready) (fun g r t ht => by
      have hat := ht.segments.ahead g List.mem_cons_self
      have hg := hsegs g (ht.segments.range g List.mem_cons_self)
      refine ⟨fun c hc => hat.sound ?_, vselSegment_step hd ht hg⟩
      obtain rfl | rfl : c = f.a ∨ c = f.b := by simpa [srcA, srcB] using hc
      · exact hg.sound.1
      · exact hg.sound.2) (.segRange ..)
  refine ⟨t, (exec_vsel f s).trans (issue_runs hr ?_), hw⟩
  rw [exec_bind_ok (vectorSources_ok hready), exec_bind_ok (readMask_ok (maskSound_of_ready hready))]
  exact exec_bind_ok (bookWhole_ok ht)

/-- The results in the words of R133. -/
theorem vselResults_eq {s : State} {f : RForm} {tag : Nat → Tag} {out : Nat → Nat} {pick : Nat → Code}
    (hpick : ∀ i, pick i = if (s.cur.vreg 0x40).maskBit i then f.a else f.b)
    (htag : ∀ g, tag g = if ((s.cur.vreg f.a).seg g).tag = ((s.cur.vreg f.b).seg g).tag then ((s.cur.vreg f.a).seg g).tag
      else mkTag (Claims.latticeAt s [srcA f, srcB f] g).rf 0 (scaleFor (((List.range (Claims.slots s)).map
        (fun n => g * Claims.slots s + n)).filter (Claims.active s false) |>.map (fun n => Claims.value s (pick n) n))
        (Claims.latticeAt s [srcA f, srcB f] g).rf))
    (hout : ∀ i g, g = i / Claims.slots s → out i =
      if ((s.cur.vreg f.a).seg g).tag = ((s.cur.vreg f.b).seg g).tag then (s.cur.vreg (pick i)).slot s.cur.vec.w i
      else (roundAny (bookOf s.cur) (Claims.value s (pick i) i) (tagFmt (tag g)) (tagScale (tag g)) s.cur.vec.rm
        s.cur.vec.fz).1) :
    vselResults s f = ⟨tag, out, fun i =>
      if ((s.cur.vreg f.a).seg (i / Claims.slots s)).tag = ((s.cur.vreg f.b).seg (i / Claims.slots s)).tag then 0
      else Claims.signals [Claims.value s (pick i) i] ||| (roundAny (bookOf s.cur) (Claims.value s (pick i) i)
        (tagFmt (tag (i / Claims.slots s))) (tagScale (tag (i / Claims.slots s))) s.cur.vec.rm s.cur.vec.fz).2⟩ := by
  obtain rfl : pick = vselPick s f := funext hpick
  have hact : activeSlot s.cur.vec none = Claims.active s false := funext (activeSlot_maskReg s false)
  obtain rfl : tag = vselTag s f := funext fun g => by rw [htag, vselTag, vselScale, activeIn, hact]; rfl
  have hround : ∀ i g, ((s.cur.vreg f.a).seg g).tag ≠ ((s.cur.vreg f.b).seg g).tag →
      roundAny (bookOf s.cur) (Claims.value s (vselPick s f i) i) (tagFmt (vselTag s f g)) (tagScale (vselTag s f g)) s.cur.vec.rm
        s.cur.vec.fz = vselRound s f g i := fun i g hne => by
    rw [vselTag, if_neg hne, tagFmt_mkTag (latticeAt_rf_lt ..), tagScale_mkTag _ (vselScale_lt ..)]
    rfl
  rw [vselResults]
  congr 1
  · funext i
    rw [hout i _ rfl]
    exact ite_congr rfl (fun _ => rfl) fun hne => by rw [hround i _ hne]
  · funext i
    exact ite_congr rfl (fun _ => rfl) fun hne => by rw [hround i _ hne]; rfl

/-- Settles O30: VCMP and VSEL go through their segments one after another and end as R131 and R133 say, the conditions are those
of the exact values, and VPOPC counts from bit 0. -/
theorem vectorPredicates : Obligations.VectorPredicates := by
  refine ⟨vcmp_completes, vcmpCond_spec, vpopc_completes, fun f s tag out pick hr hready hpick hsegs htag hout => ?_⟩
  obtain ⟨t, hx, hw⟩ := vsel_writes hr hready hsegs
  rw [vselResults_eq hpick htag hout] at hw
  exact ⟨_, hx, hw.segments.underway.ended.turn, hw.segments.underway.vectorFrame_ended,
    written_of_v hw.written (congrArg Vec.v (vec_ended t) :), flagsAdded_of_fstat hw.flagsAdded (congrArg Vec.fstat (vec_ended t) :)⟩

end Sys2Proof.Machine
end

section
/-! PROOFS. Trap entry, SYSCALL, BKPT and ERET (R354, R364, R365). -/

namespace Sys2Proof.Machine

/-! ### Fields of TSTAT (R353) -/

theorem fld_lt (w : Word) (lo n : Nat) : fld w lo n < 2 ^ n := Nat.mod_lt _ (Nat.two_pow_pos n)

theorem toNat_ofNat_fld (w : Word) (lo n : Nat) : (BitVec.ofNat n (fld w lo n)).toNat = fld w lo n :=
  (BitVec.toNat_ofNat ..).trans (Nat.mod_eq_of_lt (fld_lt ..))

theorem toNat_and_maskFld_one (w : Word) {p : Nat} (hp : p < 64) : (w &&& maskFld p 1).toNat = b2n (bit w p) * 2 ^ p := by
  have hmask : maskFld p 1 = BitVec.twoPow 64 p := by
    apply BitVec.eq_of_toNat_eq
    rw [maskFld, toNat_word, BitVec.toNat_twoPow, Nat.pow_one, Nat.one_mul]
  rw [hmask, BitVec.and_twoPow, bit, b2n]
  split
  · rw [BitVec.toNat_twoPow_of_lt hp, Nat.one_mul]
  · rw [BitVec.toNat_zero, Nat.zero_mul]

theorem bit_setFld_one (w : Word) {p : Nat} (hp : p < 64) (b : Bool) : bit (setFld w p 1 (b2n b)) p = b := by
  rw [bit, setFld, BitVec.getLsbD_ofNat, fld, testBit_replaceField _ _ (Nat.mod_lt _ (Nat.two_pow_pos 1)),
    if_pos ⟨Nat.le_refl p, Nat.lt_succ_self p⟩, decide_eq_true hp, Nat.sub_self]
  cases b <;> rfl

theorem TrapSrc.code_lt (src : TrapSrc) : src.code < 16 := by
  cases src <;> decide

theorem b2n_le_one (b : Bool) : b2n b ≤ 1 := by
  cases b <;> decide

/-- What trap entry saves of the vector state: nothing in A (R353). -/
def savedVec (t : StreamId) (v : Vec) : Nat :=
  match t with
  | .a => 0
  | .x => v.vstart.toNat * 2 ^ 24 + v.vl.toNat * 2 ^ 8 + v.vtype.toNat

/-- TSTAT at trap entry is the sum of its fields: no two of them share a bit. -/
theorem toNat_trapStat (t : StreamId) (old : Word) (l : Level) (v : Vec) (src : TrapSrc) :
    (trapStat t old l v src).toNat =
      2 ^ 24 * savedVec t v + (2 ^ 11 * (src.code * 2 + b2n (decide (l = .s))) + b2n (bit old 10) * 2 ^ 10) := by
  have hsrc := src.code_lt
  have hpl := b2n_le_one (decide (l = .s))
  have hdefer := b2n_le_one (bit old 10)
  have hbase : ((old &&& maskFld 10 1) ||| word (src.code * 2 ^ 12 + b2n (decide (l = .s)) * 2 ^ 11)).toNat =
      2 ^ 11 * (src.code * 2 + b2n (decide (l = .s))) + b2n (bit old 10) * 2 ^ 10 := by
    rw [Nat.two_pow_add_eq_or_of_lt (by omega), Nat.or_comm, BitVec.toNat_or, toNat_and_maskFld_one _ (by decide), toNat_word]
    congr 1
    omega
  cases t with
  | a => exact hbase.trans (Nat.zero_add _).symm
  | x =>
    have hvl := v.vl.isLt
    have hvtype := v.vtype.isLt
    have hvstart := v.vstart.isLt
    rw [Nat.two_pow_add_eq_or_of_lt (by omega), Nat.or_comm, ← hbase, trapStat, BitVec.toNat_or, toNat_word, savedVec]
    congr 1
    omega

theorem fld_src_trapStat (t : StreamId) (old : Word) (l : Level) (v : Vec) (src : TrapSrc) :
    fld (trapStat t old l v src) 12 4 = src.code := by
  have hsrc := src.code_lt
  have hpl := b2n_le_one (decide (l = .s))
  have hdefer := b2n_le_one (bit old 10)
  rw [fld, toNat_trapStat]
  omega

theorem fld_pl_trapStat (t : StreamId) (old : Word) (l : Level) (v : Vec) (src : TrapSrc) :
    fld (trapStat t old l v src) 11 1 = if l = .s then 1 else 0 := by
  have hdefer := b2n_le_one (bit old 10)
  have hpl : fld (trapStat t old l v src) 11 1 = b2n (decide (l = .s)) := by
    have := b2n_le_one (decide (l = .s))
    rw [fld, toNat_trapStat]
    omega
  rw [hpl, b2n]
  simp only [decide_eq_true_eq]

theorem bit_defer_trapStat (t : StreamId) (old : Word) (l : Level) (v : Vec) (src : TrapSrc) :
    bit (trapStat t old l v src) 10 = bit old 10 := by
  rw [bit, BitVec.getLsbD, toNat_trapStat, Nat.testBit_eq_decide_div_mod_eq]
  cases bit old 10 <;> simp [b2n] <;> omega

/-- The fields of TSTAT that ERET restores VL, VTYPE and VSTART from (R353, R365). -/
theorem fld_vec_trapStat_x (old : Word) (l : Level) (v : Vec) (src : TrapSrc) :
    fld (trapStat .x old l v src) 32 11 = v.vl.toNat ∧ fld (trapStat .x old l v src) 24 5 = v.vtype.toNat ∧
      fld (trapStat .x old l v src) 48 11 = v.vstart.toNat := by
  have hsrc := src.code_lt
  have hpl := b2n_le_one (decide (l = .s))
  have hdefer := b2n_le_one (bit old 10)
  have hvl := v.vl.isLt
  have hvtype := v.vtype.isLt
  have hvstart := v.vstart.isLt
  simp only [fld, toNat_trapStat, savedVec]
  omega

/-! ### SKIP1 (R345) -/

theorem Stream.clearSkip_eq (st : Stream) (l : Level) : st.clearSkip l = { st with wayf := (st.clearSkip l).wayf } := by
  unfold Stream.clearSkip
  split <;> rfl

theorem Stream.clearSkip_at_s (st : Stream) : st.clearSkip .s = st := rfl

theorem Stream.wctl_clearSkip_at_u (st : Stream) : (st.clearSkip .u).wctl = setFld st.wctl 2 1 0 := tabGet_tabPut ..

theorem Stream.wreg_clearSkip (st : Stream) (l : Level) {n : Nat} (h : 0 < n) : (st.clearSkip l).wreg n = st.wreg n := by
  unfold Stream.clearSkip
  split
  · exact tabGet_tabPut_other _ _ _ (Nat.ne_of_gt h)
  · rfl

theorem Stream.wctl_of_wayf {st st' : Stream} (h : st'.wayf = st.wayf) : st'.wctl = st.wctl := by
  rw [Stream.wctl, h, Stream.wctl]

theorem Stream.wreg_of_wayf {st st' : Stream} (h : st'.wayf = st.wayf) (n : Nat) : st'.wreg n = st.wreg n := by
  rw [Stream.wreg, h, Stream.wreg]

/-! ### What the two entries into a handler have in common (R354) -/

/-- The stream that enters its S handler, with `w` as its Wayfarer registers: the two entries differ in these alone. -/
def Stream.entered (t : StreamId) (cause : Cause) (tval tpc : Word) (src : TrapSrc) (v : Vec) (w : Tab Word) (st : Stream) :
    Stream :=
  { st with
    tcause := BitVec.ofNat 8 cause.code, tval := tval, tpc := pcField tpc, tstat := trapStat t st.tstat st.level v src
    level := .s, pc := pcField st.sentry, wayf := w, wait := none, rdvHere := false, creditRefused := false, csrOwn := [] }

/-- The state in which a stream has entered its S handler. -/
def State.entered (c : Nat) (t : StreamId) (cause : Cause) (tval tpc : Word) (src : TrapSrc) (w : Tab Word) (s : State) : State :=
  s.setCore c (((s.core c).setStream t ((s.streamAt c t).entered t cause tval tpc src (s.core c).vec w)).note 3 (some t)
    (s.streamAt c t).level 1)

theorem Core.setStream_note (k : Core) (t : StreamId) (st : Stream) (e : Nat) (u : Option StreamId) (l : Level) (n : Nat) :
    (k.note e u l n).setStream t st = (k.setStream t st).note e u l n := by
  unfold Core.note
  cases t <;> split <;> rfl

theorem takeTrap_eq_entered (c : Nat) (t : StreamId) (cause : Cause) (tval tpc : Word) (src : TrapSrc) (s : State) :
    takeTrap c t cause tval tpc src s =
      s.entered c t cause tval tpc src ((s.streamAt c t).clearSkip (s.streamAt c t).level).wayf := by
  unfold takeTrap
  dsimp only
  rw [Stream.clearSkip_eq]
  rfl

theorem State.streamAt_entered (c : Nat) (t : StreamId) (cause : Cause) (tval tpc : Word) (src : TrapSrc) (w : Tab Word)
    (s : State) : (s.entered c t cause tval tpc src w).streamAt c t =
      (s.streamAt c t).entered t cause tval tpc src (s.core c).vec w := by
  simp [State.entered, State.streamAt]

theorem trapBefore_eq_entered (c : Nat) (t : StreamId) (cause : Cause) (tval : Word) (src : TrapSrc) (s : State) :
    trapBefore c t cause tval src s =
      s.entered c t cause tval (s.streamAt c t).pc src (s.streamAt c t).wayf := by
  rw [trapBefore, takeTrap_eq_entered, State.modStream, State.streamAt_entered]
  simp only [State.entered, State.core_setCore, State.setCore_setCore, Core.setStream_note, Core.setStream_setStream]
  rfl

theorem State.core_entered (c : Nat) (t : StreamId) (cause : Cause) (tval tpc : Word) (src : TrapSrc) (w : Tab Word)
    (s : State) : (s.entered c t cause tval tpc src w).core c =
      { (s.core c).setStream t ((s.streamAt c t).entered t cause tval tpc src (s.core c).vec w) with
        tally := (s.core c).tally ++ [⟨3, some t, (s.streamAt c t).level, 1⟩] } := by
  rw [State.entered, State.core_setCore]
  cases t <;> rfl

theorem State.entered_eq_setCore (c : Nat) (t : StreamId) (cause : Cause) (tval tpc : Word) (src : TrapSrc) (w : Tab Word)
    (s : State) : s.entered c t cause tval tpc src w = s.setCore c ((s.entered c t cause tval tpc src w).core c) := by
  rw [State.entered, State.core_setCore]

/-! ### The Wayfarer registers after each entry (R345) -/

theorem wayf_takeTrap (c : Nat) (t : StreamId) (cause : Cause) (tval tpc : Word) (src : TrapSrc) (s : State) :
    ((takeTrap c t cause tval tpc src s).streamAt c t).wayf =
      ((s.streamAt c t).clearSkip (s.streamAt c t).level).wayf := by
  rw [takeTrap_eq_entered, State.streamAt_entered, Stream.entered]

theorem wayf_trapBefore (c : Nat) (t : StreamId) (cause : Cause) (tval : Word) (src : TrapSrc) (s : State) :
    ((trapBefore c t cause tval src s).streamAt c t).wayf = (s.streamAt c t).wayf := by
  rw [trapBefore_eq_entered, State.streamAt_entered, Stream.entered]

theorem wctl_takeTrap_of_u {c : Nat} {t : StreamId} {s : State} (h : (s.streamAt c t).level = .u) (cause : Cause)
    (tval tpc : Word) (src : TrapSrc) :
    ((takeTrap c t cause tval tpc src s).streamAt c t).wctl = setFld (s.streamAt c t).wctl 2 1 0 := by
  rw [Stream.wctl_of_wayf (wayf_takeTrap ..), h, Stream.wctl_clearSkip_at_u]

theorem wctl_takeTrap_of_s {c : Nat} {t : StreamId} {s : State} (h : (s.streamAt c t).level = .s) (cause : Cause)
    (tval tpc : Word) (src : TrapSrc) :
    ((takeTrap c t cause tval tpc src s).streamAt c t).wctl = (s.streamAt c t).wctl := by
  rw [Stream.wctl_of_wayf (wayf_takeTrap ..), h, Stream.clearSkip_at_s]

theorem wctl_trapBefore (c : Nat) (t : StreamId) (cause : Cause) (tval : Word) (src : TrapSrc) (s : State) :
    ((trapBefore c t cause tval src s).streamAt c t).wctl = (s.streamAt c t).wctl :=
  Stream.wctl_of_wayf (wayf_trapBefore ..)

theorem wreg_takeTrap (c : Nat) (t : StreamId) (cause : Cause) (tval tpc : Word) (src : TrapSrc) (s : State) {n : Nat}
    (h : 0 < n) : ((takeTrap c t cause tval tpc src s).streamAt c t).wreg n = (s.streamAt c t).wreg n := by
  rw [Stream.wreg_of_wayf (wayf_takeTrap ..), Stream.wreg_clearSkip _ _ h]

theorem wreg_trapBefore (c : Nat) (t : StreamId) (cause : Cause) (tval : Word) (src : TrapSrc) (s : State) (n : Nat) :
    ((trapBefore c t cause tval src s).streamAt c t).wreg n = (s.streamAt c t).wreg n :=
  Stream.wreg_of_wayf (wayf_trapBefore ..) n

/-- Settles O7: both entries lead to `State.entered`, of which every field but WCTL is read; SKIP1 is what they differ in. -/
theorem trapEntry : Obligations.TrapEntry := by
  intro c t cause tval tpc src s u hu
  have hskip : u = takeTrap c t cause tval tpc src s → (s.streamAt c t).level = .u →
      (u.streamAt c t).wctl = setFld (s.streamAt c t).wctl 2 1 0 := by
    rintro rfl hl
    exact wctl_takeTrap_of_u hl ..
  have hkeep : (s.streamAt c t).level = .s ∨ u = trapBefore c t cause tval src s →
      (u.streamAt c t).wctl = (s.streamAt c t).wctl := by
    obtain rfl | ⟨-, rfl⟩ := hu
    · rintro (hl | hbefore)
      · exact wctl_takeTrap_of_s hl ..
      · rw [hbefore, wctl_trapBefore]
    · exact fun _ => wctl_trapBefore ..
  have hwreg : ∀ n, 0 < n → (u.streamAt c t).wreg n = (s.streamAt c t).wreg n := by
    intro n hn
    obtain rfl | ⟨-, rfl⟩ := hu
    · exact wreg_takeTrap _ _ _ _ _ _ _ hn
    · exact wreg_trapBefore ..
  obtain ⟨w, rfl⟩ : ∃ w, u = s.entered c t cause tval tpc src w := by
    obtain rfl | ⟨rfl, rfl⟩ := hu
    · exact ⟨_, takeTrap_eq_entered ..⟩
    · exact ⟨_, trapBefore_eq_entered ..⟩
  refine ⟨hskip, hkeep, ?_⟩
  rw [State.streamAt_entered] at hwreg ⊢
  refine ⟨rfl, rfl, rfl, fld_src_trapStat .., fld_pl_trapStat .., ?_, rfl, rfl, bit_defer_trapStat .., hwreg, rfl,
    State.core_entered .., State.entered_eq_setCore ..⟩
  rintro rfl
  exact fld_vec_trapStat_x ..

/-! ### SYSCALL and BKPT (R364) -/

theorem callOp_traps {i : Instr} {cause : Cause} {imm : Word} {s : State} (h : Runs i s) :
    callOp i cause imm s = .next (takeTrap s.turn.1 s.turn.2 cause imm (s.strm.nextPc i) .call s) :=
  issue_stops h rfl

theorem systemCalls : Claims.SystemCalls := by
  refine ⟨fun f s hr => ?syscall, fun f s hr => ?bkpt⟩
  all_goals
    rw [BitVec.ofNat_toNat]
    exact callOp_traps hr

/-! ### What retiring leaves of a core (R343, R345, R346) -/

theorem Core.stream_retire (t : StreamId) (st0 : Stream) (pc : Word) (k : Core) :
    (k.retire t st0 pc).stream t = { k.stream t with
      pc := pc, wayf := ((k.stream t).clearSkip st0.level).wayf, wait := none, creditRefused := false, csrOwn := []
      barArrived := (k.stream t).barArrived && decide (st0.level = .s)
      stepPending := st0.matching && bit st0.wctl 1 } := by
  unfold Core.retire
  dsimp only
  rw [Stream.clearSkip_eq]
  cases t <;> rfl

theorem Core.stream_retire_other (t : StreamId) (st0 : Stream) (pc : Word) (k : Core) :
    (k.retire t st0 pc).stream (otherStream t) = k.stream (otherStream t) := by
  cases t <;> rfl

@[simp] theorem Core.vec_retire (t : StreamId) (st0 : Stream) (pc : Word) (k : Core) : (k.retire t st0 pc).vec = k.vec := by
  cases t <;> rfl

@[simp] theorem Core.sp_retire (t : StreamId) (st0 : Stream) (pc : Word) (k : Core) : (k.retire t st0 pc).sp = k.sp := by
  cases t <;> rfl

/-- An instruction whose effects are on its own core alone. -/
theorem State.retired_modCur (s : State) (pc : Word) (f : Core → Core) :
    s.retired pc (s.modCur f) = s.modCur (fun k => (f k).retire s.turn.2 s.strm pc) := State.modCur_modCur ..

theorem State.modCur_eq_setCore (s : State) (f : Core → Core) : s.modCur f = s.setCore s.turn.1 (s.modCur f).cur := by
  rw [State.cur_modCur]
  rfl

/-! ### What ERET leaves of a core (R365) -/

/-- The stream that ERET returns, at the level of TSTAT.PL: at U level DEFER is clear. -/
def Stream.returned (st : Stream) : Stream :=
  if returnLevel st = .u then { st.setDefer false with level := returnLevel st } else { st with level := returnLevel st }

/-- ERET changes its own stream, the vector state and the engines, and nothing else of the core. -/
theorem eretCore_eq (t : StreamId) (k : Core) : eretCore t k =
    { k.setStream t (k.stream t).returned with
      vec := (eretCore t k).vec, copy := (eretCore t k).copy, mat := (eretCore t k).mat } := by
  cases t with
  | a => rfl
  | x =>
    unfold eretCore Stream.returned
    by_cases h : returnLevel (k.stream .x) = .u
    · simp only [if_pos h]
    · simp only [if_neg h]

theorem stream_eretCore (t : StreamId) (k : Core) : (eretCore t k).stream t = (k.stream t).returned := by
  rw [eretCore_eq]
  cases t <;> rfl

theorem stream_eretCore_other (t : StreamId) (k : Core) :
    (eretCore t k).stream (otherStream t) = k.stream (otherStream t) := by
  rw [eretCore_eq]
  cases t <;> rfl

theorem sp_eretCore (t : StreamId) (k : Core) : (eretCore t k).sp = k.sp := by
  rw [eretCore_eq]
  cases t <;> rfl

theorem vec_eretCore_a (k : Core) : (eretCore .a k).vec = k.vec := rfl

theorem vec_eretCore_x (k : Core) : (eretCore .x k).vec = restoreVec k.x.tstat k.vec := by
  unfold eretCore
  dsimp only
  split <;> rfl

theorem Stream.level_returned (st : Stream) : st.returned.level = if bit st.tstat 11 then .s else .u := by
  unfold Stream.returned
  split <;> rfl

theorem Stream.defer_returned {st : Stream} (h : bit st.tstat 11 = false) : bit st.returned.tstat 10 = false := by
  have hu : returnLevel st = .u := by rw [returnLevel, h]; rfl
  rw [Stream.returned, if_pos hu]
  exact bit_setFld_one _ (by decide) false

theorem Stream.s_returned (st : Stream) : st.returned.s = st.s := by
  unfold Stream.returned
  split <;> rfl

theorem Stream.p_returned (st : Stream) : st.returned.p = st.p := by
  unfold Stream.returned
  split <;> rfl

theorem Stream.reg_of_s {st st' : Stream} (h : st'.s = st.s) (c : Code) : st'.reg c = st.reg c := by
  rw [Stream.reg, h, Stream.reg]

theorem Stream.pred_of_p {st st' : Stream} (h : st'.p = st.p) (c : Code) : st'.pred c = st.pred c := by
  rw [Stream.pred, h, Stream.pred]

/-- W = 3 of the saved VTYPE is written as W = 2 (R365). -/
theorem toNat_vtypeOf_fld (ts : Word) :
    (vtypeOf (fld ts 24 5)).toNat = if fld ts 24 2 = 3 then fld ts 24 5 - 1 else fld ts 24 5 := by
  have hw : fld ts 24 5 % 4 = fld ts 24 2 := Nat.mod_mod_of_dvd _ (by decide)
  have hlt := fld_lt ts 24 5
  rw [vtypeOf, hw, BitVec.toNat_ofNat]
  split <;> omega

theorem restoreVec_fields (ts : Word) (v : Vec) :
    (restoreVec ts v).vl.toNat = fld ts 32 11 ∧ (restoreVec ts v).vstart.toNat = fld ts 48 11 ∧
      (restoreVec ts v).vtype.toNat = if fld ts 24 2 = 3 then fld ts 24 5 - 1 else fld ts 24 5 :=
  ⟨toNat_ofNat_fld .., toNat_ofNat_fld .., toNat_vtypeOf_fld ts⟩

theorem eret_completes {f : IForm} {s : State} (hr : Runs (.eret f) s) :
    exec (.eret f) s = .next (s.modCur fun k => (eretCore s.turn.2 k).retire s.turn.2 s.strm s.strm.tpc) := by
  rw [← State.retired_modCur, show exec (.eret f) s = execEret f s from rfl, execEret]
  refine issueTo_runs hr ?_
  rw [exec_bind_ok (exec_get s), exec_bind_ok (exec_modify ..), exec_pure]

theorem returnFromTrap : Claims.ReturnFromTrap := by
  intro f s hr
  refine ⟨_, eret_completes hr, ?_⟩
  have hstrm := (s.strm_modCur fun k => (eretCore s.turn.2 k).retire s.turn.2 s.strm s.strm.tpc).trans
    (Core.stream_retire ..)
  rw [stream_eretCore, ← State.strm_eq] at hstrm
  rw [hstrm, State.cur_modCur, Core.stream_retire_other, stream_eretCore_other, Core.vec_retire, Core.sp_retire, sp_eretCore]
  refine ⟨rfl, s.strm.level_returned, Stream.defer_returned, ?_, ?_, Stream.reg_of_s s.strm.s_returned,
    Stream.pred_of_p s.strm.p_returned, rfl, rfl, ?_⟩
  · intro hx
    rw [hx, vec_eretCore_x, State.strm, hx]
    exact restoreVec_fields ..
  · intro ha
    rw [ha, vec_eretCore_a]
  · exact (s.modCur_eq_setCore _).trans (by rw [State.cur_modCur])

/-- Settles O8: SYSCALL and BKPT stop with the trap they ask for, and ERET retires to TPC behind `eretCore`. -/
theorem callsAndReturns : Obligations.CallsAndReturns := ⟨systemCalls, returnFromTrap⟩

end Sys2Proof.Machine
end
